-- ==== Sys2Proof/Word.lean ====
section
/-! DEFINITION. The word types of the Lysori Fjarpel and the two plainest containers of the model:
a 64-bit register word, a byte, and a keyed list whose missing keys hold a default. -/
namespace Sys2Proof

/-- A scalar register, an address or a system register (R94). -/
abbrev Word := BitVec 64

/-- One byte of memory. -/
abbrev Byte := BitVec 8

/-- A control-core instruction word (R112). -/
abbrev InstrWord := BitVec 32

/-- A physical tile number P = 256 die + 16 cluster + 4 quad + position (R83). -/
abbrev TileId := BitVec 10

/-- Plain keyed data: a list of (key, value) pairs. A key that is not listed holds the default that the
reader names. -/
abbrev KMap (α : Type) := List (Nat × α)

end Sys2Proof
end

