-- ==== Sys2Proof/Syntax.lean ====
section
/-! DEFINITION. The abstract syntax of the Lysori Fjarpel: one constructor of `Instr` for each row of the
table of operations and events. The first 124 constructors are the encoded control-core instructions
(R113 to R121). The others have no control-core word: they are the control-block opcodes (R122), the
fabric-element slot operations (R128 to R130) and the events of the device's other agents, each with the
data that says where it happens and what the outside world supplies. -/
namespace Sys2Proof

/-- The five engines of a tile (R105), with the chain-table codes ld 0, st 1, gr 2, mx 3, rt 4 (R21). -/
inductive Eng where
  | ld | st | gr | mx | rt
deriving DecidableEq, Repr

/-- The kinds of access that the owner tells apart (R234). -/
inductive AccKind where
  | read | write | rmw | fetch
deriving DecidableEq, Repr

/-- A place in a grid program: the tile, the fabric element 4·row + col, and the iteration the slot belongs to. -/
structure FeAt where
  tile : TileId
  fe   : BitVec 4
  iter : Nat
deriving DecidableEq, Repr

/-- The fields of one 42-bit slot after its opcode (R124). -/
structure SlotArgs where
  dst  : BitVec 4
  a    : BitVec 4
  b    : BitVec 4
  c    : BitVec 4
  pred : BitVec 3
  typ  : BitVec 3
  imm  : BitVec 12
deriving DecidableEq, Repr

/-- The identity of a barrier unit of a task (R197): cluster-scope units belong to a virtual cluster. Those of the second copy of a
TWIN task, which has at most 16 virtual clusters (R85), are numbered from 32. -/
inductive BarKey where
  | cluster (task : Nat) (vcluster : BitVec 6) (unit : BitVec 4)
  | die (task : Nat) (unit : BitVec 4)
  | package (task : Nat) (unit : BitVec 4)
deriving DecidableEq, Repr

/-- The source of a tagged request (R394, R396): a tile's triple (context, virtual tile, copy), or an inbound
queue pair. -/
inductive ReqSrc where
  | tile (ctx : BitVec 12) (vt : BitVec 10) (copy : Bool)
  | peer (ctx : BitVec 12) (qp : BitVec 24)
deriving DecidableEq, Repr

/-- The voted units of R430. -/
inductive VotedUnit where
  | commandProcessors
  | dieScheduler (d : BitVec 2)
  | clusterScheduler (c : BitVec 6)
  | walker (d : BitVec 2) (w : BitVec 3)
  | supervisor (c : BitVec 6)
deriving DecidableEq, Repr

/-- What can freeze a region cycle counter (R419). The slip hold is kept with its task. -/
inductive FreezeCause where
  | hbmRefresh (d : BitVec 2) (stack : Bool)
  | hbmCalibration (d : BitVec 2) (stack : Bool)
  | linkCalibration (a b : BitVec 3)
  | flitRetry (a b : BitVec 3)
  | retrain (a b : BitVec 3)
  | throttleStep (d : BitVec 2)
deriving DecidableEq, Repr

/-- The operation that a peer's RoCEv2 request asks for (R239). -/
inductive RoceOp where
  | read (len : Nat)
  | write (data : List Byte)
  | fetchAdd (v : Word)
  | cmpSwap (expect swap : Word)
deriving DecidableEq, Repr

/-- A peer's RoCEv2 request as die 4 receives it (R239, R393, R396). -/
structure RoceReq where
  port : BitVec 2
  qp   : BitVec 24
  psn  : BitVec 24
  rkey : BitVec 32
  va   : Word
  op   : RoceOp
deriving DecidableEq, Repr

/-- The operations of the machine, one constructor for each row of the opcode table. -/
inductive Instr where
  /-- ADD (R154): Writes the 64-bit sum of two registers to rd. -/
  | add (rd : BitVec 5) (ra : BitVec 5) (rb : BitVec 5)
  /-- SUB (R154): Writes the 64-bit difference of two registers to rd. -/
  | sub (rd : BitVec 5) (ra : BitVec 5) (rb : BitVec 5)
  /-- AND (R154): Writes the bitwise AND of two registers to rd. -/
  | and (rd : BitVec 5) (ra : BitVec 5) (rb : BitVec 5)
  /-- OR (R154): Writes the bitwise OR of two registers to rd. -/
  | or (rd : BitVec 5) (ra : BitVec 5) (rb : BitVec 5)
  /-- XOR (R154): Writes the bitwise XOR of two registers to rd. -/
  | xor (rd : BitVec 5) (ra : BitVec 5) (rb : BitVec 5)
  /-- ANDN (R154): Writes a AND NOT b to rd. -/
  | andn (rd : BitVec 5) (ra : BitVec 5) (rb : BitVec 5)
  /-- SLL (R154): Shifts a left by b[5:0]. -/
  | sll (rd : BitVec 5) (ra : BitVec 5) (rb : BitVec 5)
  /-- SRL (R154): Shifts a right logically by b[5:0]. -/
  | srl (rd : BitVec 5) (ra : BitVec 5) (rb : BitVec 5)
  /-- SRA (R154): Shifts a right arithmetically by b[5:0]. -/
  | sra (rd : BitVec 5) (ra : BitVec 5) (rb : BitVec 5)
  /-- SLT (R154): Writes 1 if a is less than b as signed values, else 0. -/
  | slt (rd : BitVec 5) (ra : BitVec 5) (rb : BitVec 5)
  /-- SLTU (R154): Writes 1 if a is less than b as unsigned values, else 0. -/
  | sltu (rd : BitVec 5) (ra : BitVec 5) (rb : BitVec 5)
  /-- MIN (R154): Writes the signed minimum of a and b. -/
  | min (rd : BitVec 5) (ra : BitVec 5) (rb : BitVec 5)
  /-- MAX (R154): Writes the signed maximum of a and b. -/
  | max (rd : BitVec 5) (ra : BitVec 5) (rb : BitVec 5)
  /-- MINU (R154): Writes the unsigned minimum of a and b. -/
  | minu (rd : BitVec 5) (ra : BitVec 5) (rb : BitVec 5)
  /-- MAXU (R154): Writes the unsigned maximum of a and b. -/
  | maxu (rd : BitVec 5) (ra : BitVec 5) (rb : BitVec 5)
  /-- MUL (R154): Writes the low 64 bits of a times b. -/
  | mul (rd : BitVec 5) (ra : BitVec 5) (rb : BitVec 5)
  /-- MULH (R154): Writes the high 64 bits of the signed product. -/
  | mulh (rd : BitVec 5) (ra : BitVec 5) (rb : BitVec 5)
  /-- MULHU (R154): Writes the high 64 bits of the unsigned product. -/
  | mulhu (rd : BitVec 5) (ra : BitVec 5) (rb : BitVec 5)
  /-- DIV (R155): Writes the signed quotient, without a trap, in 2 + B ticks. -/
  | div (rd : BitVec 5) (ra : BitVec 5) (rb : BitVec 5)
  /-- DIVU (R155): Writes the unsigned quotient, without a trap. -/
  | divu (rd : BitVec 5) (ra : BitVec 5) (rb : BitVec 5)
  /-- REM (R155): Writes the signed remainder, without a trap. -/
  | rem (rd : BitVec 5) (ra : BitVec 5) (rb : BitVec 5)
  /-- REMU (R155): Writes the unsigned remainder, without a trap. -/
  | remu (rd : BitVec 5) (ra : BitVec 5) (rb : BitVec 5)
  /-- CLZ (R154): Counts the leading zero bits of a. -/
  | clz (rd : BitVec 5) (ra : BitVec 5)
  /-- CTZ (R154): Counts the trailing zero bits of a. -/
  | ctz (rd : BitVec 5) (ra : BitVec 5)
  /-- POPC (R154): Counts the one bits of a. -/
  | popc (rd : BitVec 5) (ra : BitVec 5)
  /-- BSWAP (R154): Reverses the byte order of a. -/
  | bswap (rd : BitVec 5) (ra : BitVec 5)
  /-- ADDW (R154): Writes the sign-extended 32-bit sum. -/
  | addw (rd : BitVec 5) (ra : BitVec 5) (rb : BitVec 5)
  /-- SUBW (R154): Writes the sign-extended 32-bit difference. -/
  | subw (rd : BitVec 5) (ra : BitVec 5) (rb : BitVec 5)
  /-- MULW (R154): Writes the sign-extended 32-bit product. -/
  | mulw (rd : BitVec 5) (ra : BitVec 5) (rb : BitVec 5)
  /-- CMOVNZ (R154): Moves a to rd if b is non-zero. -/
  | cmovnz (rd : BitVec 5) (ra : BitVec 5) (rb : BitVec 5)
  /-- CMOVZ (R154): Moves a to rd if b is zero. -/
  | cmovz (rd : BitVec 5) (ra : BitVec 5) (rb : BitVec 5)
  /-- ADDI (R157): Adds a sign-extended 16-bit immediate to a. -/
  | addi (rd : BitVec 5) (ra : BitVec 5) (imm : BitVec 16)
  /-- ANDI (R157): ANDs a with a zero-extended immediate. -/
  | andi (rd : BitVec 5) (ra : BitVec 5) (imm : BitVec 16)
  /-- ORI (R157): ORs a with a zero-extended immediate. -/
  | ori (rd : BitVec 5) (ra : BitVec 5) (imm : BitVec 16)
  /-- XORI (R157): XORs a with a zero-extended immediate. -/
  | xori (rd : BitVec 5) (ra : BitVec 5) (imm : BitVec 16)
  /-- SLTI (R157): Compares a with a signed immediate as signed values. -/
  | slti (rd : BitVec 5) (ra : BitVec 5) (imm : BitVec 16)
  /-- SLTIU (R157): Compares a with a sign-extended immediate as unsigned values. -/
  | sltiu (rd : BitVec 5) (ra : BitVec 5) (imm : BitVec 16)
  /-- SLLI (R158): Shifts a left by an immediate amount. -/
  | slli (rd : BitVec 5) (ra : BitVec 5) (n : BitVec 6)
  /-- SRLI (R158): Shifts a right logically by an immediate amount. -/
  | srli (rd : BitVec 5) (ra : BitVec 5) (n : BitVec 6)
  /-- SRAI (R158): Shifts a right arithmetically by an immediate amount. -/
  | srai (rd : BitVec 5) (ra : BitVec 5) (n : BitVec 6)
  /-- RORI (R158): Rotates a right by an immediate amount. -/
  | rori (rd : BitVec 5) (ra : BitVec 5) (n : BitVec 6)
  /-- LIH (R159): Shifts a left by 16 and ORs in the immediate. -/
  | lih (rd : BitVec 5) (ra : BitVec 5) (imm : BitVec 16)
  /-- ADPC (R160): Adds the signed immediate times 65,536 to PC. -/
  | adpc (rd : BitVec 5) (imm : BitVec 16)
  /-- XTZ (R161): Extracts a bit field of a and zero-extends it. -/
  | xtz (rd : BitVec 5) (ra : BitVec 5) (w : BitVec 6) (p : BitVec 6)
  /-- XTS (R161): Extracts a bit field of a and sign-extends it. -/
  | xts (rd : BitVec 5) (ra : BitVec 5) (w : BitVec 6) (p : BitVec 6)
  /-- INS (R161): Inserts the low bits of a into a field of rd. -/
  | ins (rd : BitVec 5) (ra : BitVec 5) (w : BitVec 6) (p : BitVec 6)
  /-- LEA (R162): Writes a plus b shifted left by sh. -/
  | lea (rd : BitVec 5) (ra : BitVec 5) (rb : BitVec 5) (s : BitVec 3)
  /-- MADD (R163): Writes a times b plus c. -/
  | madd (rd : BitVec 5) (ra : BitVec 5) (rb : BitVec 5) (rc : BitVec 5)
  /-- LDB (R169): Loads a sign-extended byte after the local checks of R170. -/
  | ldb (rd : BitVec 5) (ra : BitVec 5) (imm : BitVec 16)
  /-- LDBU (R169): Loads a zero-extended byte. -/
  | ldbu (rd : BitVec 5) (ra : BitVec 5) (imm : BitVec 16)
  /-- LDH (R169): Loads a sign-extended halfword. -/
  | ldh (rd : BitVec 5) (ra : BitVec 5) (imm : BitVec 16)
  /-- LDHU (R169): Loads a zero-extended halfword. -/
  | ldhu (rd : BitVec 5) (ra : BitVec 5) (imm : BitVec 16)
  /-- LDW (R169): Loads a sign-extended word. -/
  | ldw (rd : BitVec 5) (ra : BitVec 5) (imm : BitVec 16)
  /-- LDWU (R169): Loads a zero-extended word. -/
  | ldwu (rd : BitVec 5) (ra : BitVec 5) (imm : BitVec 16)
  /-- LDD (R169): Loads a doubleword. -/
  | ldd (rd : BitVec 5) (ra : BitVec 5) (imm : BitVec 16)
  /-- STB (R169): Stores the low byte of rd. -/
  | stb (rd : BitVec 5) (ra : BitVec 5) (imm : BitVec 16)
  /-- STH (R169): Stores the low halfword of rd. -/
  | sth (rd : BitVec 5) (ra : BitVec 5) (imm : BitVec 16)
  /-- STW (R169): Stores the low word of rd. -/
  | stw (rd : BitVec 5) (ra : BitVec 5) (imm : BitVec 16)
  /-- STD (R169): Stores the doubleword in rd. -/
  | std (rd : BitVec 5) (ra : BitVec 5) (imm : BitVec 16)
  /-- LD_ACQ (R183): Loads a doubleword with acquire from the observer mask. -/
  | ldAcq (rd : BitVec 5) (ra : BitVec 5) (obs : BitVec 6)
  /-- ST_REL (R184): Stores a doubleword with release to the observer mask. -/
  | stRel (rd : BitVec 5) (ra : BitVec 5) (obs : BitVec 6)
  /-- FENCE (R185): Acts as a release to and an acquire from the mask at one point. -/
  | fence (obs : BitVec 6)
  /-- WAIT_NE (R186): Reads a doubleword repeatedly with acquire until it differs from b or the wait expires. -/
  | waitNe (rd : BitVec 5) (ra : BitVec 5) (rb : BitVec 5) (obs : BitVec 6)
  /-- WAIT_EQ (R186): Reads a doubleword repeatedly with acquire until it equals b or the wait expires. -/
  | waitEq (rd : BitVec 5) (ra : BitVec 5) (rb : BitVec 5) (obs : BitVec 6)
  /-- WAIT_GE (R186): Reads a doubleword repeatedly until it is at or past b in wrap-around order, or the wait expires. -/
  | waitGe (rd : BitVec 5) (ra : BitVec 5) (rb : BitVec 5) (obs : BitVec 6)
  /-- AMO_ADD (R187): Adds b at the owner indivisibly and returns the old value. -/
  | amoAdd (rd : BitVec 5) (ra : BitVec 5) (rb : BitVec 5) (obs : BitVec 6)
  /-- AMO_AND (R187): ANDs b at the owner and returns the old value. -/
  | amoAnd (rd : BitVec 5) (ra : BitVec 5) (rb : BitVec 5) (obs : BitVec 6)
  /-- AMO_OR (R187): ORs b at the owner and returns the old value. -/
  | amoOr (rd : BitVec 5) (ra : BitVec 5) (rb : BitVec 5) (obs : BitVec 6)
  /-- AMO_XOR (R187): XORs b at the owner and returns the old value. -/
  | amoXor (rd : BitVec 5) (ra : BitVec 5) (rb : BitVec 5) (obs : BitVec 6)
  /-- AMO_MIN (R187): Stores the signed minimum at the owner and returns the old value. -/
  | amoMin (rd : BitVec 5) (ra : BitVec 5) (rb : BitVec 5) (obs : BitVec 6)
  /-- AMO_MAX (R187): Stores the signed maximum at the owner and returns the old value. -/
  | amoMax (rd : BitVec 5) (ra : BitVec 5) (rb : BitVec 5) (obs : BitVec 6)
  /-- AMO_MINU (R187): Stores the unsigned minimum at the owner and returns the old value. -/
  | amoMinu (rd : BitVec 5) (ra : BitVec 5) (rb : BitVec 5) (obs : BitVec 6)
  /-- AMO_MAXU (R187): Stores the unsigned maximum at the owner and returns the old value. -/
  | amoMaxu (rd : BitVec 5) (ra : BitVec 5) (rb : BitVec 5) (obs : BitVec 6)
  /-- AMO_SWAP (R187): Stores b at the owner and returns the old value. -/
  | amoSwap (rd : BitVec 5) (ra : BitVec 5) (rb : BitVec 5) (obs : BitVec 6)
  /-- AMO_CAS (R187): Stores b if the old value equals rd, and returns the old value. -/
  | amoCas (rd : BitVec 5) (ra : BitVec 5) (rb : BitVec 5) (obs : BitVec 6)
  /-- FRED_ADD (R190): Adds a floating-point value at the owner with one RNE rounding. -/
  | fredAdd (ctl : BitVec 5) (ra : BitVec 5) (rb : BitVec 5) (obs : BitVec 6)
  /-- FRED_MIN (R190): Stores the floating-point minimum at the owner. -/
  | fredMin (ctl : BitVec 5) (ra : BitVec 5) (rb : BitVec 5) (obs : BitVec 6)
  /-- FRED_MAX (R190): Stores the floating-point maximum at the owner. -/
  | fredMax (ctl : BitVec 5) (ra : BitVec 5) (rb : BitVec 5) (obs : BitVec 6)
  /-- BEQ (R164): Branches if a equals b. -/
  | beq (ra : BitVec 5) (rb : BitVec 5) (off : BitVec 16)
  /-- BNE (R164): Branches if a differs from b. -/
  | bne (ra : BitVec 5) (rb : BitVec 5) (off : BitVec 16)
  /-- BLT (R164): Branches if a is less than b, signed. -/
  | blt (ra : BitVec 5) (rb : BitVec 5) (off : BitVec 16)
  /-- BGE (R164): Branches if a is at least b, signed. -/
  | bge (ra : BitVec 5) (rb : BitVec 5) (off : BitVec 16)
  /-- BLTU (R164): Branches if a is less than b, unsigned. -/
  | bltu (ra : BitVec 5) (rb : BitVec 5) (off : BitVec 16)
  /-- BGEU (R164): Branches if a is at least b, unsigned. -/
  | bgeu (ra : BitVec 5) (rb : BitVec 5) (off : BitVec 16)
  /-- JAL (R165): Jumps PC-relative and writes the return address to rd. -/
  | jal (rd : BitVec 5) (off : BitVec 21)
  /-- JALR (R166): Jumps to a plus an offset and writes the return address to rd. -/
  | jalr (rd : BitVec 5) (ra : BitVec 5) (imm : BitVec 16)
  /-- SEMDEF (R193): Binds a region id to the descriptor at s[ra] and initialises its state. -/
  | semdef (ra : BitVec 5) (n : BitVec 5)
  /-- SEMP (R194): Joins a semaphore's queue to wait for a count, under WTO. -/
  | semp (rd : BitVec 5) (ra : BitVec 5) (n : BitVec 6)
  /-- SEMV (R195): Adds a count to a semaphore with release to the mask in b. -/
  | semv (ra : BitVec 5) (rb : BitVec 5) (n : BitVec 6)
  /-- SEMTRY (R196): Takes a count from a semaphore only if it can at once. -/
  | semtry (rd : BitVec 5) (ra : BitVec 5) (n : BitVec 6)
  /-- SEMRD (R196): Returns a semaphore's value. -/
  | semrd (rd : BitVec 5) (n : BitVec 6)
  /-- SEMSET (R196): Sets a semaphore's value and tests queued waiters. -/
  | semset (ra : BitVec 5) (n : BitVec 6)
  /-- BARDEF (R197): Binds a barrier handle to a barrier unit of the task. -/
  | bardef (ra : BitVec 5) (n : BitVec 4)
  /-- BARA (R199): Releases to the unit's mask and arrives at the barrier. -/
  | bara (rd : BitVec 5) (n : BitVec 4)
  /-- BARW (R199): Waits for the release of the tile's arrival epoch, with acquire. -/
  | barw (rd : BitVec 5) (n : BitVec 4)
  /-- BARAW (R199): Arrives at the barrier and then waits for its release. -/
  | baraw (rd : BitVec 5) (n : BitVec 4)
  /-- CHAIN (R200): Issues a chain to an engine queue and returns its number. -/
  | chain (rd : BitVec 5) (ra : BitVec 5) (e : Eng)
  /-- CHWAIT (R201): Waits until a chain has ended, acquiring its writes if it drained. -/
  | chwait (rd : BitVec 5) (ra : BitVec 5) (e : Eng)
  /-- CHSTAT (R202): Returns the engine's oldest chain, block reason and queue count. -/
  | chstat (rd : BitVec 5) (e : Eng)
  /-- CHKILL (R203): Ends a chain and every later chain of the engine, waiting until the engine stops. -/
  | chkill (rd : BitVec 5) (ra : BitVec 5) (e : Eng)
  /-- GCFG (R204): Issues a gr chain of one internal GR.CFG to load a configuration slot. -/
  | gcfg (rd : BitVec 5) (ra : BitVec 5) (s : BitVec 1)
  /-- MXLEASE (R205): Returns LEASEQ and optionally sets it or yields the matrix lease. -/
  | mxlease (rd : BitVec 5) (ra : BitVec 5) (y : BitVec 1) (q : BitVec 1)
  /-- CHSEL_PROBE (R88): Returns the size class for the size in ra without changing state. -/
  | chselProbe (rd : BitVec 5) (ra : BitVec 5)
  /-- CHSEL_CUR (R88): Returns the class of the tile's current schedule phase. -/
  | chselCur (rd : BitVec 5)
  /-- CHSEL_ADV (R88): Advances the tile to the next schedule phase, triggering the size read if first. -/
  | chselAdv (rd : BitVec 5)
  /-- PGREQ (R206): Asks the owner die's supervisor to make a page resident and waits for the answer. -/
  | pgreq (rd : BitVec 5) (ra : BitVec 5)
  /-- RESQ (R207): Translates an address at the owner and returns the leaf's V, R, W, ZF, size and key. -/
  | resq (rd : BitVec 5) (ra : BitVec 5)
  /-- PKRW (R208): Returns PKR and writes a new PKR. -/
  | pkrw (rd : BitVec 5) (ra : BitVec 5)
  /-- PKRR (R208): Returns PKR. -/
  | pkrr (rd : BitVec 5)
  /-- RPLY (R209): Makes every access parked at the die retry from its target check. -/
  | rply
  /-- TLBINV (R210): Invalidates memory-side TLB entries of a die by page, context or all. -/
  | tlbinv (ra : BitVec 5) (rb : BitVec 5) (s : BitVec 2)
  /-- RDTIME (R211): Returns TIME in nanoseconds. -/
  | rdtime (rd : BitVec 5)
  /-- RDRCC (R211): Returns the region cycle counter of a static task, else 0. -/
  | rdrcc (rd : BitVec 5)
  /-- WAITT (R212): Waits until TIME or the region cycle counter reaches a target and returns the lateness. -/
  | waitt (rd : BitVec 5) (ra : BitVec 5) (t : BitVec 1)
  /-- RDTICK (R211): Returns the die's free-running tick count. -/
  | rdtick (rd : BitVec 5)
  /-- MFS (R213): Reads a system register by its 12-bit index. -/
  | mfs (rd : BitVec 5) (x : BitVec 12)
  /-- MTS (R213): Writes a system register by its 12-bit index, with the effects of R95 to R98. -/
  | mts (ra : BitVec 5) (x : BitVec 12)
  /-- TRAP (R214): Delivers cause 0x10 to TRAPVEC, or ends the task if TRAPVEC is 0. -/
  | trap (x : BitVec 12)
  /-- SVC (R215): Delivers a supervisor call to the cluster supervisor and waits. -/
  | svc (x : BitVec 7)
  /-- TRET (R216): Returns to TRAPPC and clears TRAPCAUSE and TRAPVAL. -/
  | tret
  /-- IDLE (R217): Stops issue until a tile event or 65,536 ticks. -/
  | idle
  /-- BRK (R214): Delivers cause 0x11 to TRAPVEC, or ends the task if TRAPVEC is 0. -/
  | brk (x : BitVec 7)
  /-- HALT (R218): Stops the control core; engines run their chains on. -/
  | halt
  /-- RDID (R219): Returns the physical tile, die, VTID or identity word. -/
  | rdid (rd : BitVec 5) (x : BitVec 7)
  /-- ILLEGAL_ENCODING (R121): An unassigned or malformed word traps ILLOP to the supervisor with no state change. -/
  | illegalEncoding (w : InstrWord)
  /-- INSTRUCTION_FETCH (R167): The core fetches the word at NextPC through the instruction cache, faulting or parking. -/
  | instructionFetch
  /-- MEMORY_REPLY (R171): A target returns the outcome of a control-core access and the instruction completes. -/
  | memoryReply (P : TileId)
  /-- WAIT_FOR_CHANGE (R186): A watched line changes or 256 ticks pass and a WAIT reads again. -/
  | waitForChange (P : TileId)
  /-- WAIT_TIMEOUT (R97): WTO expires for a waiting instruction, ending the wait or trapping WAITTO. -/
  | waitTimeout (P : TileId)
  /-- WAITT_TARGET (R212): The tile's sample of the base reaches the WAITT target. -/
  | waittTarget (P : TileId)
  /-- IDLE_WAKE (R217): A semaphore change, chain end, barrier release or remote write ends IDLE. -/
  | idleWake (P : TileId)
  /-- IDLE_TIMEOUT (R217): 65,536 ticks pass and IDLE ends. -/
  | idleTimeout (P : TileId)
  /-- CB_NOP (R288): Runs header steps only; result word is OPC. -/
  | cbNop (P : TileId) (e : Eng)
  /-- MODE (R289): Sets the chain's arithmetic mode and optionally reseeds generators. -/
  | cbMode (P : TileId) (e : Eng)
  /-- PATCH (R294): A CB whose only work is applying its patch list. -/
  | patch (P : TileId) (e : Eng)
  /-- CRYS (R295): Passes a known pattern through the engine's datapath and compares its hash. -/
  | crys (P : TileId) (e : Eng)
  /-- LD_COPY (R296): Copies raw access units into tile memory or an input port. -/
  | ldCopy (P : TileId)
  /-- LD_CVT (R296): Converts elements under the chain mode into tile memory or a port. -/
  | ldCvt (P : TileId)
  /-- LD_ALIGN (R297): Runs AlignBlock per iteration into AL16 mantissas and an exponent byte. -/
  | ldAlign (P : TileId)
  /-- LD_GATHER (R298): Gathers indexed rows of a table. -/
  | ldGather (P : TileId)
  /-- LD_CONV (R299): Reads a padded convolution window. -/
  | ldConv (P : TileId)
  /-- LD_FILL (R300): Writes a fill value into each destination unit. -/
  | ldFill (P : TileId)
  /-- ST_COPY (R296): Copies raw units from tile memory or an output port to any target. -/
  | stCopy (P : TileId)
  /-- ST_CVT (R296): Converts elements from tile memory or a port to any target. -/
  | stCvt (P : TileId)
  /-- ST_SCAT (R298): Scatters rows to indexed table positions. -/
  | stScat (P : TileId)
  /-- ST_RED (R301): Combines source elements into the destination at its owner, exactly once. -/
  | stRed (P : TileId)
  /-- ST_MIGR (R303): Copies one physical page frame to another under fresh counters. -/
  | stMigr (P : TileId)
  /-- MX_WLOAD (R309): Loads the tile's home weight plane and sets its record. -/
  | mxWload (P : TileId)
  /-- MX_MMA (R313): Runs matrix passes and accumulates block partials into INT32 entries. -/
  | mxMma (P : TileId)
  /-- MX_MMB (R313): Runs matrix passes keeping per-block partials or scaling them into FP32. -/
  | mxMmb (P : TileId)
  /-- MX_SACC (R316): Scales and sums INT32 block partials into FP32 accumulators. -/
  | mxSacc (P : TileId)
  /-- MX_ACLR (R317): Writes a value into accumulator entries. -/
  | mxAclr (P : TileId)
  /-- MX_ADRN (R318): Converts accumulator entries out to tile memory. -/
  | mxAdrn (P : TileId)
  /-- GR_CFG (R324): Reads, checks and installs a grid configuration image in a slot. -/
  | grCfg (P : TileId)
  /-- GR_RUN (R330): Streams the loop nest through the configured body under the modulo sequencer. -/
  | grRun (P : TileId)
  /-- GR_SWAP (R328): Sets or toggles the active slot and optionally clears FE registers. -/
  | grSwap (P : TileId)
  /-- RT_ROUTE (R359): Chooses top-k experts per token and writes choice, expert and list records. -/
  | rtRoute (P : TileId)
  /-- RT_APPORT (R361): Apportions pool clusters to experts by token counts. -/
  | rtApport (P : TileId)
  /-- RT_LISTS (R362): Writes one work record per pool cluster per pass. -/
  | rtLists (P : TileId)
  /-- FADD (R342): Fabric-element floating add, rounded once. -/
  | fadd (f : FeAt) (o : SlotArgs)
  /-- FSUB (R342): Fabric-element floating subtract. -/
  | fsub (f : FeAt) (o : SlotArgs)
  /-- FMUL (R342): Fabric-element floating multiply. -/
  | fmul (f : FeAt) (o : SlotArgs)
  /-- FMA (R342): Fused multiply-add a times b plus c. -/
  | fma (f : FeAt) (o : SlotArgs)
  /-- FMS (R342): Fused a times b minus c. -/
  | fms (f : FeAt) (o : SlotArgs)
  /-- FNMA (R342): Fused c minus a times b. -/
  | fnma (f : FeAt) (o : SlotArgs)
  /-- FMAX (R342): Floating maximum. -/
  | fmax (f : FeAt) (o : SlotArgs)
  /-- FMIN (R342): Floating minimum. -/
  | fmin (f : FeAt) (o : SlotArgs)
  /-- FMAXA (R342): Larger magnitude with sign 0. -/
  | fmaxa (f : FeAt) (o : SlotArgs)
  /-- FRCP (R342): Reciprocal rounded once. -/
  | frcp (f : FeAt) (o : SlotArgs)
  /-- FRSQ (R342): Reciprocal square root rounded once. -/
  | frsq (f : FeAt) (o : SlotArgs)
  /-- FEX2 (R342): Power of two rounded once. -/
  | fex2 (f : FeAt) (o : SlotArgs)
  /-- FLG2 (R342): Base-two logarithm rounded once. -/
  | flg2 (f : FeAt) (o : SlotArgs)
  /-- IADD (R344): Integer add, wrapping or saturating. -/
  | iadd (f : FeAt) (o : SlotArgs)
  /-- ISUB (R344): Integer subtract. -/
  | isub (f : FeAt) (o : SlotArgs)
  /-- IMUL (R344): Integer multiply. -/
  | imul (f : FeAt) (o : SlotArgs)
  /-- IMAD (R344): Integer multiply-add. -/
  | imad (f : FeAt) (o : SlotArgs)
  /-- IMULH (R344): Upper half of the integer product. -/
  | imulh (f : FeAt) (o : SlotArgs)
  /-- IMIN (R344): Integer minimum. -/
  | imin (f : FeAt) (o : SlotArgs)
  /-- IMAX (R344): Integer maximum. -/
  | imax (f : FeAt) (o : SlotArgs)
  /-- IABS (R344): Integer absolute value. -/
  | iabs (f : FeAt) (o : SlotArgs)
  /-- DOT4 (R344): Four-byte dot product accumulated into a 32-bit lane. -/
  | dot4 (f : FeAt) (o : SlotArgs)
  /-- FDOT2 (R344): Two-element half-precision dot product into FP32. -/
  | fdot2 (f : FeAt) (o : SlotArgs)
  /-- FE_AND (R345): Bitwise AND of vector registers. -/
  | feAnd (f : FeAt) (o : SlotArgs)
  /-- FE_OR (R345): Bitwise OR of vector registers. -/
  | feOr (f : FeAt) (o : SlotArgs)
  /-- FE_XOR (R345): Bitwise XOR of vector registers. -/
  | feXor (f : FeAt) (o : SlotArgs)
  /-- SHL (R345): Element shift left. -/
  | shl (f : FeAt) (o : SlotArgs)
  /-- SHR (R345): Element logical shift right. -/
  | shr (f : FeAt) (o : SlotArgs)
  /-- SAR (R345): Element arithmetic shift right. -/
  | sar (f : FeAt) (o : SlotArgs)
  /-- FCMP (R345): Floating compare into a predicate. -/
  | fcmp (f : FeAt) (o : SlotArgs)
  /-- ICMP (R345): Integer compare into a predicate. -/
  | icmp (f : FeAt) (o : SlotArgs)
  /-- SEL (R345): Selects lanes of a or b by a predicate. -/
  | feSel (f : FeAt) (o : SlotArgs)
  /-- MOV (R345): Copies a vector register. -/
  | mov (f : FeAt) (o : SlotArgs)
  /-- MOVI (R345): Sets every element to an immediate. -/
  | movi (f : FeAt) (o : SlotArgs)
  /-- CVT (R346): Converts elements between lane types under the chain mode. -/
  | cvt (f : FeAt) (o : SlotArgs)
  /-- CVTSR (R346): Converts elements with stochastic rounding. -/
  | cvtsr (f : FeAt) (o : SlotArgs)
  /-- QNT (R347): Quantises FP32 lanes into one byte of the destination. -/
  | qnt (f : FeAt) (o : SlotArgs)
  /-- EXPO (R348): Writes the floor of log2 of each element. -/
  | expo (f : FeAt) (o : SlotArgs)
  /-- SCALB (R348): Scales elements by a power of two. -/
  | scalb (f : FeAt) (o : SlotArgs)
  /-- CLASS (R348): Sets predicate bits by element class against a mask. -/
  | feClass (f : FeAt) (o : SlotArgs)
  /-- PLOG (R345): Combines two predicates through a lookup table. -/
  | plog (f : FeAt) (o : SlotArgs)
  /-- LANE (R345): Writes lane index plus immediate. -/
  | lane (f : FeAt) (o : SlotArgs)
  /-- RNG (R345): Draws from the lane's generator. -/
  | rng (f : FeAt) (o : SlotArgs)
  /-- LVL (R345): Sets a predicate from the iteration's FIRST or LAST flag. -/
  | lvl (f : FeAt) (o : SlotArgs)
  /-- SEND (R340): Writes a register to neighbour link registers. -/
  | send (f : FeAt) (o : SlotArgs)
  /-- RECV (R349): Reads an incoming link register. -/
  | recv (f : FeAt) (o : SlotArgs)
  /-- IN (R337): Pops the next reserved input-port entry. -/
  | feIn (f : FeAt) (o : SlotArgs)
  /-- OUT (R338): Pushes a 32-byte entry into an output port. -/
  | feOut (f : FeAt) (o : SlotArgs)
  /-- RED (R350): Reduces across the FEs of REDMASK. -/
  | red (f : FeAt) (o : SlotArgs)
  /-- SHUF (R349): Shuffles lanes by a pattern or index register. -/
  | shuf (f : FeAt) (o : SlotArgs)
  /-- BCST (R349): Broadcasts one lane to all lanes. -/
  | bcst (f : FeAt) (o : SlotArgs)
  /-- ACCIN (R339): Reads 32 bytes of the accumulator quarter without the lease. -/
  | accin (f : FeAt) (o : SlotArgs)
  /-- SCAN (R349): Prefix add, min or max across lanes. -/
  | scan (f : FeAt) (o : SlotArgs)
  /-- GET (R349): Reads a loop index, parameter, iteration number or count. -/
  | get (f : FeAt) (o : SlotArgs)
  /-- PUT (R349): Sets or adds a lane into the run's result word. -/
  | put (f : FeAt) (o : SlotArgs)
  /-- CB_FETCH (R42): An engine fetches and checks the next CB once any patch gate opens. -/
  | cbFetch (P : TileId) (e : Eng)
  /-- TIMED_START (R281): The sampled base reaches TSTART and a timed CB starts or slips. -/
  | timedStart (P : TileId) (e : Eng)
  /-- PATCH_LIST (R292): Step 4 applies a patch list and raises the target chain's patch counter. -/
  | patchList (P : TileId) (e : Eng)
  /-- HEADER_SIGNAL (R287): Once every write is acknowledged, the CB releases its header signal and the next CB may start. -/
  | headerSignal (P : TileId) (e : Eng)
  /-- SEM_SIGNAL (R103): A signal or arrival adds a count to a semaphore, saturating. -/
  | semSignal (P : TileId) (n : BitVec 6) (c : BitVec 32) (reach : Bool)
  /-- SEM_WAIT_GRANT (R388): A queued semaphore wait at the head is met and its count subtracted, with acquire. -/
  | semWaitGrant (P : TileId) (n : BitVec 6)
  /-- REMOTE_WRITE_ARRIVAL (R287): A remote write reaches its target tile and adds byte-mode counts when visible. -/
  | remoteWriteArrival (k : Nat)
  /-- REMOTE_WRITE_ACK (R198): A remote write's visibility is acknowledged and pending-byte counts drop. -/
  | remoteWriteAck (k : Nat)
  /-- BARRIER_RELEASE (R198): A barrier unit has all arrivals and zero pending bytes, advancing its epoch. -/
  | barrierRelease (u : BarKey)
  /-- LEASE_REQUEST (R90): A ready matrix CB requests the quad array lease, granted at once if idle. -/
  | leaseRequest (P : TileId)
  /-- LEASE_END (R90): A lease ends after LEASEQ CBs or when the holder has no ready CB. -/
  | leaseEnd (g : BitVec 8)
  /-- LEASE_TIMEOUT (R90): 65,536 ticks after a grant the array stops at the next iteration boundary. -/
  | leaseTimeout (g : BitVec 8)
  /-- LEASE_HANDOVER (R91): Eight ticks after a lease end the next requesting position is granted. -/
  | leaseHandover (g : BitVec 8)
  /-- TAIL_UPDATE (R57): The command processors observe a new TAIL and check for overrun. -/
  | tailUpdate (q : BitVec 11)
  /-- QUEUE_ENTRY (R63): The command processors read one entry and accept or reject it exactly once. -/
  | queueEntry (q : BitVec 11)
  /-- DRAIN_COMPLETE (R62): Every earlier entry has completed and the DRAIN completes with OK. -/
  | drainComplete (q : BitVec 11)
  /-- CANCEL_COMPLETE (R62): Every cancelled task has written its record and the CANCEL completes. -/
  | cancelComplete (q : BitVec 11) (seq : BitVec 16)
  /-- PREDECESSOR_COMPLETE (R61): A predecessor's final record lets a waiting entry proceed or fail with PRED-FAILED. -/
  | predecessorComplete (q : BitVec 11) (seq : BitVec 16)
  /-- QCMD_ENABLE (R55): Host QCMD ENABLE reads the descriptor and header and activates a queue. -/
  | qcmdEnable (q : BitVec 10)
  /-- QCMD_DISABLE (R55): Host QCMD DISABLE stops reading new entries of a queue. -/
  | qcmdDisable (q : BitVec 10)
  /-- QCMD_COMPLETE (R51): A queue command finishes, RES is set and BUSY clears. -/
  | qcmdComplete
  /-- SUPQ_ENABLE (R53): Prapisen enables a supervisor queue through its SRAM command word. -/
  | supqEnable (q : BitVec 4)
  /-- SUPQ_DISABLE (R53): Prapisen disables a supervisor queue through its SRAM command word. -/
  | supqDisable (q : BitVec 4)
  /-- PTPFREQ_WRITE (R70): A write sets the PTP clock's rate offset, clamped. -/
  | ptpfreqWrite (v : BitVec 32)
  /-- PTPSTEP_WRITE (R70): A write adds a signed step to TIME at once. -/
  | ptpstepWrite (v : Word)
  /-- PTPTIME_READ (R49): A read of the low word latches the high word of TIME. -/
  | ptptimeRead (high : Bool)
  /-- BAR0_WRITE (R49): A write to a BAR0 offset with no row of its own is ignored. -/
  | bar0Write (off : BitVec 32) (v : Word)
  /-- PLACE_TASK (R78): When quads change state the die scheduler places ready tasks in list order. -/
  | placeTask (d : BitVec 2)
  /-- QUANTUM_EXPIRY (R80): A task's quantum expires, triggering equal-rank pre-emption or restarting. -/
  | quantumExpiry (t : Nat)
  /-- PREEMPT_ARRIVAL (R422): The voted pre-emption order reaches a tile and its core and engines stop. -/
  | preemptArrival (P : TileId)
  /-- TILE_STOPPED (R422): A tile's core and engines have all stopped and its save may begin. -/
  | tileStopped (P : TileId)
  /-- SAVE_COMPLETE (R425): The last tile save completes, quads are freed and the task is READY again. -/
  | saveComplete (t : Nat)
  /-- LOADING_COMPLETE (R82): Every tile is loaded or restored and all cores start. -/
  | loadingComplete (t : Nat)
  /-- RETIRE (R458): All tiles halted and chains ended; the task retires and publishes results. -/
  | retire (t : Nat)
  /-- TASK_TEARDOWN (R416): An ended task's last tile stops and its resources are freed and record written. -/
  | taskTeardown (t : Nat)
  /-- EVENT_RECORD (R410): A raised event reaches the arbiter and is appended to the event queue. -/
  | eventRecord (P : TileId) (src : BitVec 3)
  /-- ACTION_RESUME (R413): The source retries from its precise point. -/
  | actionResume (P : TileId) (src : BitVec 3)
  /-- ACTION_SKIP (R413): The core continues at WHERE + 4. -/
  | actionSkip (P : TileId) (src : BitVec 3)
  /-- ACTION_ELASTIC (R420): A slipped CB is run elastically. -/
  | actionElastic (P : TileId) (src : BitVec 3)
  /-- ACTION_ROLLBACK (R443): A consumer phase is cancelled and its slot refetched. -/
  | actionRollback (P : TileId) (src : BitVec 3)
  /-- ACTION_END (R415): The task ends in its fault domain with FAULT and others DOMAIN-ENDED. -/
  | actionEnd (P : TileId) (src : BitVec 3) (ecause : Byte)
  /-- YIELD (R417): Service 0 expires the caller's quantum. -/
  | yield (P : TileId)
  /-- GALLOC (R417): Service 1 allocates Gallery pages under the GALB cap. -/
  | galloc (P : TileId)
  /-- GFREE (R417): Service 2 frees a Gallery allocation. -/
  | gfree (P : TileId)
  /-- RXRING (R417): Service 3 installs a receive ring. -/
  | rxring (P : TileId)
  /-- NETWIN (R417): Service 4 installs a network window. -/
  | netwin (P : TileId)
  /-- SLIPRD (R417): Service 5 returns the task's slip count. -/
  | sliprd (P : TileId)
  /-- TXRING (R417): Service 6 installs a transmit ring. -/
  | txring (P : TileId)
  /-- UNKNOWN_SERVICE (R417): Services 7 to 127 return all ones. -/
  | unknownService (P : TileId)
  /-- REFETCH_REQUEST (R443): The engine holding a refetch record refills the slot and clears the pending bit. -/
  | refetchRequest (P : TileId) (e : Eng)
  /-- ROLLBACK_TIMEOUT (R444): No engine answers a refetch within 512 ticks and the task ends. -/
  | rollbackTimeout (P : TileId) (e : Eng)
  /-- SLIP_HOLD_TIMEOUT (R420): A slip hold outlasts the task's quantum and the task is ended. -/
  | slipHoldTimeout (t : Nat)
  /-- OWNER_REQUEST (R225): A die owner translates, checks and applies a request, parking if non-resident. -/
  | ownerRequest (P : TileId)
  /-- PAGE_WALK (R228): A walker walks the page table and sets A and D by compare-and-swap. -/
  | pageWalk (d : BitVec 2) (ctx : BitVec 12) (va : Word) (kind : AccKind) (pkr : Word)
  /-- REENCRYPT_PAGE (R248): A minor counter overflow re-encrypts all lines of the page under a new major. -/
  | reencryptPage (d : BitVec 2) (page : BitVec 36) (key : Byte)
  /-- RLC_UPDATE (R386): A stamped update or bare stamp is applied to a remote-line cache in causal order. -/
  | rlcUpdate (h : BitVec 2) (k : Nat)
  /-- ATS_INVALIDATE (R238): The host invalidates die 4's address translations. -/
  | atsInvalidate (ctx : BitVec 12) (va : Word)
  /-- PRI_RESPONSE (R238): A PRI response replays or fails a parked host-memory request. -/
  | priResponse (ctx : BitVec 12) (va : Word) (ok : Bool)
  /-- HDM_ACCESS (R240): A host CXL.mem access reaches device memory through an HDM range. -/
  | hdmAccess (write : Bool) (hpa : Word) (size : Nat) (data : List Byte)
  /-- ROCE_INBOUND (R239): A peer's RoCEv2 request is translated through an inbound window. -/
  | roceInbound (r : RoceReq)
  /-- FRAME_RECEIVE (R72): A received frame is matched to a ring, written to a slot and counted on a semaphore. -/
  | frameReceive (port : BitVec 2) (frame : List Byte)
  /-- CIVA_STORE (R72): A store to a receive ring's consumer index frees slots. -/
  | civaStore (ring : Byte)
  /-- PIVA_STORE (R74): A store to a transmit ring's producer index queues frames. -/
  | pivaStore (ring : Byte)
  /-- FRAME_TRANSMIT (R74): A frame is sent, timestamped if asked and CIVA advanced. -/
  | frameTransmit (ring : Byte)
  /-- LINK_RETRAIN (R396): A die-to-die link retrains and resends unanswered requests with their tags. -/
  | linkRetrain (a : BitVec 3) (b : BitVec 3)
  /-- FLIT_RETRY (R396): A die-to-die link retries a flit. -/
  | flitRetry (a : BitVec 3) (b : BitVec 3)
  /-- VOTE_DISAGREE (R432): One voted copy dissents and is held out for resynchronisation. -/
  | voteDisagree (u : VotedUnit) (majority : Bool)
  /-- STATE_CRC_COMPARE (R431): Every 4,096 ticks the voted copies compare state CRCs. -/
  | stateCrcCompare (u : VotedUnit) (a : Word) (b : Word) (c : Word)
  /-- RESYNC_COMPLETE (R432): A dissenter's resynchronisation completes and three-way voting resumes. -/
  | resyncComplete (u : VotedUnit) (agree : Bool)
  /-- PAIR_COMPARE_TIMEOUT (R435): No trailing twin arrives within 256 ticks. -/
  | pairCompareTimeout (P : TileId)
  /-- TWIN_EVENT_TIMEOUT (R437): A TWIN copy's event finds no match within 65,536 ticks. -/
  | twinEventTimeout (t : Nat)
  /-- REPLAY_DIVERGENCE (R465): A recorded predecessor does not arrive within 65,536 ticks in replay mode. -/
  | replayDivergence (t : Nat) (loc : Word)
  /-- LOG_APPEND (R464): A record-mode event appends a log record, waiting while the ring is full. -/
  | logAppend (ctx : BitVec 12)
  /-- RCC_FREEZE (R419): A refresh, calibration, retry, throttle or slip hold freezes the region cycle counter. -/
  | rccFreeze (c : FreezeCause)
  /-- RCC_THAW (R419): The freezing event ends and the counter advances again. -/
  | rccThaw (c : FreezeCause)
  /-- PATROL_SCRUB (R445): Background scrubbing corrects or poisons a line. -/
  | patrolScrub (line : Nat) (ok : Bool)
  /-- THERMAL_STEP (R467): A die changes its throttle level by one. -/
  | thermalStep (d : BitVec 2) (up : Bool)
  /-- THERMAL_TRIP (R468): A die reaches 115 °C and the package is stopped and powered down. -/
  | thermalTrip (d : BitVec 2)
  /-- COLD_RESET (R470): Power-good or a trip resets the whole package. -/
  | coldReset
  /-- WARM_RESET (R470): PERST# or a PLDM reset request resets the device. -/
  | warmReset
  /-- RESET_STAGE (R471): A reset stage completes and the next begins. -/
  | resetStage (ok : Bool)
  /-- GET_VERSION (R475): SPDM version request. -/
  | getVersion
  /-- GET_CAPABILITIES (R475): SPDM capabilities request. -/
  | getCapabilities
  /-- NEGOTIATE_ALGORITHMS (R475): SPDM algorithm negotiation. -/
  | negotiateAlgorithms (algs : List Byte)
  /-- GET_DIGESTS (R475): SPDM digests request. -/
  | getDigests
  /-- GET_CERTIFICATE (R475): SPDM certificate request. -/
  | getCertificate (slot : BitVec 4) (off : BitVec 16) (len : BitVec 16)
  /-- CHALLENGE (R475): SPDM challenge answered with two signatures. -/
  | challenge (slot : BitVec 4) (nonce : List Byte)
  /-- GET_MEASUREMENTS (R475): SPDM measurements answered with two signatures. -/
  | getMeasurements (index : Byte) (nonce : List Byte)
  /-- FIRMWARE_UPDATE (R476): A PLDM type 5 image is checked and staged. -/
  | firmwareUpdate (image : List Byte)
  /-- PLDM_MONITOR (R476): A PLDM type 2 monitoring request reads telemetry. -/
  | pldmMonitor (d : BitVec 3)
  /-- PGREQ_ANSWER (R206): The owner die's supervisor answers a waiting PGREQ, and the core writes 0, 1 or 2 to rd and continues. -/
  | pgreqAnswer (P : TileId) (ans : BitVec 2)
  /-- REPLY_ACKNOWLEDGEMENT (R395): A source's acknowledgement of a reply reaches the owner, which frees the completed-request table entry and lets a source held at 4,096 unacknowledged requests send again. -/
  | replyAcknowledgement (owner : BitVec 3) (src : ReqSrc) (tag : BitVec 16)
deriving DecidableEq, Repr

end Sys2Proof
end

