-- ==== Sys2Proof/Config.lean ====
section
/-! DEFINITION. What one implementation fixes, and the values the manual leaves open. The free values are
opaque constants: nothing can evaluate them, so a statement about a free value holds whatever it is. -/
namespace Sys2Proof.Config

/-- The number of bytes of tile memory (R101). -/
def tileBytes : Nat := 524288
/-- The number of bytes of an accumulator quarter (R106). -/
def accBytes : Nat := 65536
/-- The number of bytes of a weight plane (R106). -/
def planeBytes : Nat := 196608
/-- The number of bytes of a grid configuration image (R131). -/
def imageBytes : Nat := 16704

/-- The metadata key of a compute die after its `gen`-th reset: drawn from a random source, so nothing is known of it
(R242). (DESIGN CHOICE, log entry 13: a free value.) -/
opaque metadataKey (die gen : Nat) : BitVec 256

/-- The `n`-th byte that a dead range of tile memory holds after a resume: the manual does not say which (R111).
(DESIGN CHOICE, log entry 8: free bytes.) -/
opaque deadByte (n : Nat) : BitVec 8

/-- The `n`-th byte of a save area whose place the manual gives but whose layout it does not (R423, R424). -/
opaque recordByte (n : Nat) : BitVec 8

/-- The `n`-th byte delivered from a line whose check failed on its way to an engine (R440): the manual does not say what it
holds. -/
opaque lostByte (n : Nat) : BitVec 8

/-- The `n`-th value that a read of PTPSTEP returns (R49): the manual states only what a write does.
(DESIGN CHOICE, log entry 11: a free value.) -/
opaque ptpstepRead (n : Nat) : BitVec 64

/-! ### Firmware trust (R472 to R475) -/

/-- The fused digest of the RSA root key (R473): the fuse block's contents are not in the manual. -/
opaque rsaRoot : BitVec 384
/-- The fused digest of the SLH-DSA root key (R473). -/
opaque slhRoot : BitVec 384
/-- SLH-DSA-SHA2-256s verification of a signature over a message under a public key (R472): the algorithm of FIPS 205.
(PRESUMED, log entry 14: opaque.) -/
opaque slhVerifies (key signature message : List (BitVec 8)) : Bool
/-- The measurement of the boot ROM (R475). -/
opaque bootDigest : BitVec 384
/-- The measurement of the fuse block (R475). -/
opaque fuseDigest : BitVec 384
/-- The measurement of the image of a KIND that runs when none has been staged (R471, R474). -/
opaque flashDigest (kind : Nat) : BitVec 384
/-- The 32 random bytes of an SPDM response after a transcript (R475). -/
opaque spdmNonce (transcript : List (BitVec 8)) : BitVec 256
/-- The id of the registry under which the second signature stands in OpaqueData (R475). -/
opaque registryId : BitVec 8
/-- The public keys of the two identity key pairs that two measurements give with the fused secret (R474). -/
opaque rsaPublic (management prapisen : BitVec 384) : List (BitVec 8)
/-- The SLH-DSA-SHA2-256s public key of that identity. -/
opaque slhPublic (management prapisen : BitVec 384) : List (BitVec 8)
/-- The RSASSA-PSS signature of the root key over the body of an identity certificate (R473). -/
opaque rsaCertifies (body : List (BitVec 8)) : List (BitVec 8)
/-- The SLH-DSA-SHA2-256s signature of the root key over it. -/
opaque slhCertifies (body : List (BitVec 8)) : List (BitVec 8)
/-- A word of the PCIe configuration space that the host reads (R471): the manual does not give its contents. -/
opaque configWord (off : BitVec 12) : BitVec 32
/-- The RSASSA-3072 signature of the identity that two measurements give over a transcript (R474, R475). -/
opaque rsaSign (management prapisen : BitVec 384) (transcript : List (BitVec 8)) : List (BitVec 8)
/-- The SLH-DSA-SHA2-256s signature of that identity (R474, R475). -/
opaque slhSign (management prapisen : BitVec 384) (transcript : List (BitVec 8)) : List (BitVec 8)

end Sys2Proof.Config
end

