-- ==== Sys2Proof/WellFormed.lean ====
section
/-! DEFINITION. Which instructions the manual admits: the requirements of R114 to R120 and of the entries on
operand values that the field widths alone do not ensure. -/
namespace Sys2Proof

/-- The system register indices of R95. -/
def sysRegListed (x : BitVec 12) : Bool :=
  x == 0x000#12 || x == 0x001#12 || x == 0x002#12 || x == 0x003#12 || x == 0x010#12 || x == 0x011#12 ||
  x == 0x012#12 || x == 0x013#12 || x == 0x020#12 || x == 0x021#12 || x == 0x022#12 || x == 0x023#12 ||
  x == 0x030#12 || x == 0x031#12

/-- A bit field of width w + 1 at position p lies inside 64 bits (R120, R161). -/
def bfxFits (w p : BitVec 6) : Bool := p.toNat + (w.toNat + 1) ≤ 64

/-- The operand rules of R114 and R120 and of the entries. An operation without an encoding of its own is
admitted as it stands. -/
def Instr.wf : Instr → Bool
  | .xtz _ _ w p => bfxFits w p
  | .xts _ _ w p => bfxFits w p
  | .ins _ _ w p => bfxFits w p
  | .mxlease _ ra _ q => q == 1#1 || ra == 0#5
  | .tlbinv _ rb s => s != 3#2 && (s != 2#2 || rb == 0#5)
  | .mfs _ x => sysRegListed x
  | .mts _ x => sysRegListed x
  | .rdid _ x => x.toNat < 4
  | _ => true

end Sys2Proof
end

