-- ==== Sys2Proof/Decode.lean ====
section
/-! DEFINITION. The decoder of control-core instruction words (R112 to R121), total on every 32-bit word and
rejecting by name, and after it the encoder, written from the same encoding tables. -/
namespace Sys2Proof

/-- Why a word is no instruction. Every reject traps ILLOP (R114, R116 to R120). -/
inductive Reject where
  /-- The major opcode is unassigned (R116). -/
  | unassignedMajor
  /-- The function code is unassigned in its group (R117 to R119). -/
  | unassignedFunction
  /-- A register field or immediate bit that the entry does not use is not 0 (R114, R192). -/
  | unusedFieldSet
  /-- A split field breaks its requirement (R120). -/
  | badSplit
  /-- The engine field is 5 to 7 (R192). -/
  | badEngine
  /-- The system register index is not listed (R95). -/
  | unlistedRegister
  /-- The selector or scope has no meaning (R88, R210, R219). -/
  | badSelector
  /-- The bytes are fewer than one word. -/
  | shortWord
deriving DecidableEq, Repr

/-! ### Fields of a word (R113) -/

/-- op[31:26]. -/
def fOp (w : InstrWord) : BitVec 6 := w.extractLsb' 26 6
/-- rd[25:21]. -/
def fRd (w : InstrWord) : BitVec 5 := w.extractLsb' 21 5
/-- ra[20:16]. -/
def fRa (w : InstrWord) : BitVec 5 := w.extractLsb' 16 5
/-- rb[15:11]. -/
def fRb (w : InstrWord) : BitVec 5 := w.extractLsb' 11 5
/-- fn[10:0]. -/
def fFn (w : InstrWord) : BitVec 11 := w.extractLsb' 0 11
/-- imm16[15:0], which is also off16 of format BR. -/
def fImm (w : InstrWord) : BitVec 16 := w.extractLsb' 0 16
/-- off21[20:0] of format JL. -/
def fOff (w : InstrWord) : BitVec 21 := w.extractLsb' 0 21

/-- Accept `i` when `ok`, otherwise reject for the reason `r`. -/
def need (ok : Bool) (r : Reject) (i : Instr) : Except Reject Instr := if ok then .ok i else .error r

/-! ### The groups -/

/-- The ALU group (R117). -/
def decodeAlu (rd ra rb : BitVec 5) (fn : BitVec 11) : Except Reject Instr :=
  match fn with
  | 0#11 => .ok (.add rd ra rb)   | 1#11 => .ok (.sub rd ra rb)   | 2#11 => .ok (.and rd ra rb)
  | 3#11 => .ok (.or rd ra rb)    | 4#11 => .ok (.xor rd ra rb)   | 5#11 => .ok (.andn rd ra rb)
  | 6#11 => .ok (.sll rd ra rb)   | 7#11 => .ok (.srl rd ra rb)   | 8#11 => .ok (.sra rd ra rb)
  | 9#11 => .ok (.slt rd ra rb)   | 10#11 => .ok (.sltu rd ra rb) | 11#11 => .ok (.min rd ra rb)
  | 12#11 => .ok (.max rd ra rb)  | 13#11 => .ok (.minu rd ra rb) | 14#11 => .ok (.maxu rd ra rb)
  | 15#11 => .ok (.mul rd ra rb)  | 16#11 => .ok (.mulh rd ra rb) | 17#11 => .ok (.mulhu rd ra rb)
  | 18#11 => .ok (.div rd ra rb)  | 19#11 => .ok (.divu rd ra rb) | 20#11 => .ok (.rem rd ra rb)
  | 21#11 => .ok (.remu rd ra rb)
  | 22#11 => need (rb == 0#5) .unusedFieldSet (.clz rd ra)
  | 23#11 => need (rb == 0#5) .unusedFieldSet (.ctz rd ra)
  | 24#11 => need (rb == 0#5) .unusedFieldSet (.popc rd ra)
  | 25#11 => need (rb == 0#5) .unusedFieldSet (.bswap rd ra)
  | 26#11 => .ok (.addw rd ra rb) | 27#11 => .ok (.subw rd ra rb) | 28#11 => .ok (.mulw rd ra rb)
  | 29#11 => .ok (.cmovnz rd ra rb) | 30#11 => .ok (.cmovz rd ra rb)
  | _ => .error .unassignedFunction

/-- SHI (R120): imm[15:8] must be 0, imm[7:6] selects, imm[5:0] is the amount. -/
def decodeShi (rd ra : BitVec 5) (imm : BitVec 16) : Except Reject Instr :=
  let n := imm.extractLsb' 0 6
  if imm.extractLsb' 8 8 != 0#8 then .error .badSplit
  else match imm.extractLsb' 6 2 with
    | 0#2 => .ok (.slli rd ra n)
    | 1#2 => .ok (.srli rd ra n)
    | 2#2 => .ok (.srai rd ra n)
    | _   => .ok (.rori rd ra n)

/-- BFX (R120, R161). -/
def decodeBfx (rd ra : BitVec 5) (imm : BitVec 16) : Except Reject Instr :=
  let p := imm.extractLsb' 0 6
  let w := imm.extractLsb' 6 6
  if imm.extractLsb' 14 2 != 0#2 then .error .badSplit
  else match imm.extractLsb' 12 2 with
    | 0#2 => need (bfxFits w p) .badSplit (.xtz rd ra w p)
    | 1#2 => need (bfxFits w p) .badSplit (.xts rd ra w p)
    | 2#2 => need (bfxFits w p) .badSplit (.ins rd ra w p)
    | _   => .error .badSplit

/-- The MEMO group (R118): fn[4:0] with the observer mask in obs[10:5]. -/
def decodeMemo (rd ra rb : BitVec 5) (obs : BitVec 6) (fn : BitVec 5) : Except Reject Instr :=
  match fn with
  | 0#5 => need (rb == 0#5) .unusedFieldSet (.ldAcq rd ra obs)
  | 1#5 => need (rb == 0#5) .unusedFieldSet (.stRel rd ra obs)
  | 2#5 => need (rd == 0#5 && ra == 0#5 && rb == 0#5) .unusedFieldSet (.fence obs)
  | 3#5 => .ok (.waitNe rd ra rb obs)   | 4#5 => .ok (.waitEq rd ra rb obs)   | 5#5 => .ok (.waitGe rd ra rb obs)
  | 6#5 => .ok (.amoAdd rd ra rb obs)   | 7#5 => .ok (.amoAnd rd ra rb obs)   | 8#5 => .ok (.amoOr rd ra rb obs)
  | 9#5 => .ok (.amoXor rd ra rb obs)   | 10#5 => .ok (.amoMin rd ra rb obs)  | 11#5 => .ok (.amoMax rd ra rb obs)
  | 12#5 => .ok (.amoMinu rd ra rb obs) | 13#5 => .ok (.amoMaxu rd ra rb obs) | 14#5 => .ok (.amoSwap rd ra rb obs)
  | 15#5 => .ok (.amoCas rd ra rb obs)  | 16#5 => .ok (.fredAdd rd ra rb obs) | 17#5 => .ok (.fredMin rd ra rb obs)
  | 18#5 => .ok (.fredMax rd ra rb obs)
  | _ => .error .unassignedFunction

/-- The engine field of the CHN group: imm7[2:0] with imm7[6:3] = 0 (R192). -/
def engOfImm (imm : BitVec 7) : Option Eng :=
  match imm with
  | 0#7 => some .ld | 1#7 => some .st | 2#7 => some .gr | 3#7 => some .mx | 4#7 => some .rt
  | _ => none

/-- The code of an engine (R21). -/
def Eng.code : Eng → BitVec 3
  | .ld => 0 | .st => 1 | .gr => 2 | .mx => 3 | .rt => 4

/-- The SEM group (R119, R192 to R196): semaphores in imm7[5:0], region ids in imm7[4:0]. -/
def decodeSem (rd ra rb : BitVec 5) (imm : BitVec 7) (fn : BitVec 4) : Except Reject Instr :=
  let n := imm.extractLsb' 0 6
  let hi := imm.extractLsb' 6 1 == 0#1
  match fn with
  | 0#4 => need (rd == 0#5 && rb == 0#5 && imm.extractLsb' 5 2 == 0#2) .unusedFieldSet (.semdef ra (imm.extractLsb' 0 5))
  | 1#4 => need (rb == 0#5 && hi) .unusedFieldSet (.semp rd ra n)
  | 2#4 => need (rd == 0#5 && hi) .unusedFieldSet (.semv ra rb n)
  | 3#4 => need (rb == 0#5 && hi) .unusedFieldSet (.semtry rd ra n)
  | 4#4 => need (ra == 0#5 && rb == 0#5 && hi) .unusedFieldSet (.semrd rd n)
  | 5#4 => need (rd == 0#5 && rb == 0#5 && hi) .unusedFieldSet (.semset ra n)
  | _ => .error .unassignedFunction

/-- The BAR group (R119, R197, R199): handles in imm7[3:0]. -/
def decodeBar (rd ra rb : BitVec 5) (imm : BitVec 7) (fn : BitVec 4) : Except Reject Instr :=
  let n := imm.extractLsb' 0 4
  let hi := imm.extractLsb' 4 3 == 0#3
  match fn with
  | 0#4 => need (rd == 0#5 && rb == 0#5 && hi) .unusedFieldSet (.bardef ra n)
  | 1#4 => need (ra == 0#5 && rb == 0#5 && hi) .unusedFieldSet (.bara rd n)
  | 2#4 => need (ra == 0#5 && rb == 0#5 && hi) .unusedFieldSet (.barw rd n)
  | 3#4 => need (ra == 0#5 && rb == 0#5 && hi) .unusedFieldSet (.baraw rd n)
  | _ => .error .unassignedFunction

/-- CHSEL's three modes (R88). -/
def decodeChsel (rd ra rb : BitVec 5) (imm : BitVec 7) : Except Reject Instr :=
  match imm with
  | 0#7 => need (rb == 0#5) .unusedFieldSet (.chselProbe rd ra)
  | 1#7 => need (ra == 0#5 && rb == 0#5) .unusedFieldSet (.chselCur rd)
  | 2#7 => need (ra == 0#5 && rb == 0#5) .unusedFieldSet (.chselAdv rd)
  | _ => .error .badSelector

/-- The CHN group (R119, R200 to R205, R88). -/
def decodeChn (rd ra rb : BitVec 5) (imm : BitVec 7) (fn : BitVec 4) : Except Reject Instr :=
  let withEng (f : Eng → Except Reject Instr) : Except Reject Instr :=
    match engOfImm imm with
    | some e => f e
    | none => .error .badEngine
  match fn with
  | 0#4 => withEng fun e => need (rb == 0#5) .unusedFieldSet (.chain rd ra e)
  | 1#4 => withEng fun e => need (rb == 0#5) .unusedFieldSet (.chwait rd ra e)
  | 2#4 => withEng fun e => need (ra == 0#5 && rb == 0#5) .unusedFieldSet (.chstat rd e)
  | 3#4 => withEng fun e => need (rb == 0#5) .unusedFieldSet (.chkill rd ra e)
  | 4#4 => need (rb == 0#5 && imm.extractLsb' 1 6 == 0#6) .unusedFieldSet (.gcfg rd ra (imm.extractLsb' 0 1))
  | 5#4 =>
    let q := imm.extractLsb' 0 1
    need (rb == 0#5 && imm.extractLsb' 2 5 == 0#5 && (q == 1#1 || ra == 0#5)) .unusedFieldSet
      (.mxlease rd ra (imm.extractLsb' 1 1) q)
  | 6#4 => decodeChsel rd ra rb imm
  | _ => .error .unassignedFunction

/-- The MEMX group (R119, R206 to R210). -/
def decodeMemx (rd ra rb : BitVec 5) (imm : BitVec 7) (fn : BitVec 4) : Except Reject Instr :=
  let z := imm == 0#7
  match fn with
  | 0#4 => need (rb == 0#5 && z) .unusedFieldSet (.pgreq rd ra)
  | 1#4 => need (rb == 0#5 && z) .unusedFieldSet (.resq rd ra)
  | 2#4 => need (rb == 0#5 && z) .unusedFieldSet (.pkrw rd ra)
  | 3#4 => need (ra == 0#5 && rb == 0#5 && z) .unusedFieldSet (.pkrr rd)
  | 4#4 => need (rd == 0#5 && ra == 0#5 && rb == 0#5 && z) .unusedFieldSet .rply
  | 5#4 =>
    let sc := imm.extractLsb' 0 2
    if rd == 0#5 && imm.extractLsb' 2 5 == 0#5 then
      if sc == 3#2 then .error .badSelector
      else need (sc != 2#2 || rb == 0#5) .unusedFieldSet (.tlbinv ra rb sc)
    else .error .unusedFieldSet
  | _ => .error .unassignedFunction

/-- The TIM group (R119, R211, R212). -/
def decodeTim (rd ra rb : BitVec 5) (imm : BitVec 7) (fn : BitVec 4) : Except Reject Instr :=
  match fn with
  | 0#4 => need (ra == 0#5 && rb == 0#5 && imm == 0#7) .unusedFieldSet (.rdtime rd)
  | 1#4 => need (ra == 0#5 && rb == 0#5 && imm == 0#7) .unusedFieldSet (.rdrcc rd)
  | 2#4 => need (rb == 0#5 && imm.extractLsb' 1 6 == 0#6) .unusedFieldSet (.waitt rd ra (imm.extractLsb' 0 1))
  | 3#4 => need (ra == 0#5 && rb == 0#5 && imm == 0#7) .unusedFieldSet (.rdtick rd)
  | _ => .error .unassignedFunction

/-- The SYS group (R119, R120, R213 to R219): MFS, MTS and TRAP take the 12-bit value rb ++ imm7. -/
def decodeSys (rd ra rb : BitVec 5) (imm : BitVec 7) (fn : BitVec 4) : Except Reject Instr :=
  let x : BitVec 12 := rb ++ imm
  let z3 := rd == 0#5 && ra == 0#5 && rb == 0#5
  match fn with
  | 0#4 => if ra == 0#5 then need (sysRegListed x) .unlistedRegister (.mfs rd x) else .error .unusedFieldSet
  | 1#4 => if rd == 0#5 then need (sysRegListed x) .unlistedRegister (.mts ra x) else .error .unusedFieldSet
  | 2#4 => need (rd == 0#5 && ra == 0#5) .unusedFieldSet (.trap x)
  | 3#4 => need z3 .unusedFieldSet (.svc imm)
  | 4#4 => need (z3 && imm == 0#7) .unusedFieldSet .tret
  | 5#4 => need (z3 && imm == 0#7) .unusedFieldSet .idle
  | 6#4 => need z3 .unusedFieldSet (.brk imm)
  | 7#4 => need (z3 && imm == 0#7) .unusedFieldSet .halt
  | 8#4 => if ra == 0#5 && rb == 0#5 then need (decide (imm.toNat < 4)) .badSelector (.rdid rd imm) else .error .unusedFieldSet
  | _ => .error .unassignedFunction

/-- The instruction that a control-core word stands for, or the reason why it traps ILLOP (R113 to R121). -/
def decode (w : InstrWord) : Except Reject Instr :=
  let rd := fRd w
  let ra := fRa w
  let rb := fRb w
  let fn := fFn w
  let imm := fImm w
  let sub7 := fn.extractLsb' 4 7
  let sub4 := fn.extractLsb' 0 4
  match fOp w with
  | 0x01#6 => decodeAlu rd ra rb fn
  | 0x02#6 => .ok (.addi rd ra imm)
  | 0x03#6 => .ok (.andi rd ra imm)
  | 0x04#6 => .ok (.ori rd ra imm)
  | 0x05#6 => .ok (.xori rd ra imm)
  | 0x06#6 => .ok (.slti rd ra imm)
  | 0x07#6 => .ok (.sltiu rd ra imm)
  | 0x08#6 => decodeShi rd ra imm
  | 0x09#6 => .ok (.lih rd ra imm)
  | 0x0A#6 => need (ra == 0#5) .unusedFieldSet (.adpc rd imm)
  | 0x0B#6 => decodeBfx rd ra imm
  | 0x0C#6 => need (fn.extractLsb' 3 8 == 0#8) .badSplit (.lea rd ra rb (fn.extractLsb' 0 3))
  | 0x0D#6 => need (fn.extractLsb' 5 6 == 0#6) .badSplit (.madd rd ra rb (fn.extractLsb' 0 5))
  | 0x10#6 => .ok (.ldb rd ra imm)
  | 0x11#6 => .ok (.ldbu rd ra imm)
  | 0x12#6 => .ok (.ldh rd ra imm)
  | 0x13#6 => .ok (.ldhu rd ra imm)
  | 0x14#6 => .ok (.ldw rd ra imm)
  | 0x15#6 => .ok (.ldwu rd ra imm)
  | 0x16#6 => .ok (.ldd rd ra imm)
  | 0x18#6 => .ok (.stb rd ra imm)
  | 0x19#6 => .ok (.sth rd ra imm)
  | 0x1A#6 => .ok (.stw rd ra imm)
  | 0x1B#6 => .ok (.std rd ra imm)
  | 0x1C#6 => decodeMemo rd ra rb (fn.extractLsb' 5 6) (fn.extractLsb' 0 5)
  | 0x20#6 => .ok (.beq rd ra imm)
  | 0x21#6 => .ok (.bne rd ra imm)
  | 0x22#6 => .ok (.blt rd ra imm)
  | 0x23#6 => .ok (.bge rd ra imm)
  | 0x24#6 => .ok (.bltu rd ra imm)
  | 0x25#6 => .ok (.bgeu rd ra imm)
  | 0x26#6 => .ok (.jal rd (fOff w))
  | 0x27#6 => .ok (.jalr rd ra imm)
  | 0x28#6 => decodeSem rd ra rb sub7 sub4
  | 0x29#6 => decodeBar rd ra rb sub7 sub4
  | 0x2A#6 => decodeChn rd ra rb sub7 sub4
  | 0x2B#6 => decodeMemx rd ra rb sub7 sub4
  | 0x2C#6 => decodeTim rd ra rb sub7 sub4
  | 0x30#6 => decodeSys rd ra rb sub7 sub4
  | _ => .error .unassignedMajor

/-- The word in four bytes, little-endian (R112). -/
def wordOfBytes (b0 b1 b2 b3 : Byte) : InstrWord := b3 ++ b2 ++ b1 ++ b0

/-- Decoding of an instruction's bytes, lowest address first: total on any bytes. -/
def decodeBytes : List Byte → Except Reject (Instr × List Byte)
  | b0 :: b1 :: b2 :: b3 :: rest =>
    match decode (wordOfBytes b0 b1 b2 b3) with
    | .ok i => .ok (i, rest)
    | .error r => .error r
  | _ => .error .shortWord

/-- The instruction of a row of the opcode table whose first `nbits` bits are `w` and whose others are 0. Every
encoded row of the table is one 32-bit word. -/
def decodeTableWord (nbits w : Nat) : Option Instr :=
  let v := BitVec.ofNat 32 (w % 2 ^ nbits)
  match decodeBytes [v.extractLsb' 0 8, v.extractLsb' 8 8, v.extractLsb' 16 8, v.extractLsb' 24 8] with
  | .ok (i, _) => some i
  | .error _ => none

/-! ### The encoder -/

/-- Format RR: op, rd, ra, rb, fn[10:0]. Format EN is the same with sub in place of fn. -/
def packRR (op : BitVec 6) (rd ra rb : BitVec 5) (fn : BitVec 11) : InstrWord := op ++ rd ++ ra ++ rb ++ fn
/-- Format RI, and format BR with (ra, rb, off16) in the same places. -/
def packRI (op : BitVec 6) (rd ra : BitVec 5) (imm : BitVec 16) : InstrWord := op ++ rd ++ ra ++ imm
/-- Format JL. -/
def packJL (op : BitVec 6) (rd : BitVec 5) (off : BitVec 21) : InstrWord := op ++ rd ++ off
/-- Format MO: obs[10:5] and fn[4:0]. -/
def packMO (fn : BitVec 5) (rd ra rb : BitVec 5) (obs : BitVec 6) : InstrWord := packRR 0x1C rd ra rb (obs ++ fn)
/-- Format EN: imm7 = sub[10:4], fn = sub[3:0]. -/
def packEN (op : BitVec 6) (fn : BitVec 4) (rd ra rb : BitVec 5) (imm : BitVec 7) : InstrWord :=
  packRR op rd ra rb (imm ++ fn)

/-- The engine field of an engine (R192). -/
def Eng.imm7 (e : Eng) : BitVec 7 := 0#4 ++ e.code

/-- The word of a control-core instruction. An operation that is no control-core instruction has none. -/
def encode : Instr → Option InstrWord
  | .add rd ra rb => some (packRR 1 rd ra rb 0)    | .sub rd ra rb => some (packRR 1 rd ra rb 1)
  | .and rd ra rb => some (packRR 1 rd ra rb 2)    | .or rd ra rb => some (packRR 1 rd ra rb 3)
  | .xor rd ra rb => some (packRR 1 rd ra rb 4)    | .andn rd ra rb => some (packRR 1 rd ra rb 5)
  | .sll rd ra rb => some (packRR 1 rd ra rb 6)    | .srl rd ra rb => some (packRR 1 rd ra rb 7)
  | .sra rd ra rb => some (packRR 1 rd ra rb 8)    | .slt rd ra rb => some (packRR 1 rd ra rb 9)
  | .sltu rd ra rb => some (packRR 1 rd ra rb 10)  | .min rd ra rb => some (packRR 1 rd ra rb 11)
  | .max rd ra rb => some (packRR 1 rd ra rb 12)   | .minu rd ra rb => some (packRR 1 rd ra rb 13)
  | .maxu rd ra rb => some (packRR 1 rd ra rb 14)  | .mul rd ra rb => some (packRR 1 rd ra rb 15)
  | .mulh rd ra rb => some (packRR 1 rd ra rb 16)  | .mulhu rd ra rb => some (packRR 1 rd ra rb 17)
  | .div rd ra rb => some (packRR 1 rd ra rb 18)   | .divu rd ra rb => some (packRR 1 rd ra rb 19)
  | .rem rd ra rb => some (packRR 1 rd ra rb 20)   | .remu rd ra rb => some (packRR 1 rd ra rb 21)
  | .clz rd ra => some (packRR 1 rd ra 0 22)       | .ctz rd ra => some (packRR 1 rd ra 0 23)
  | .popc rd ra => some (packRR 1 rd ra 0 24)      | .bswap rd ra => some (packRR 1 rd ra 0 25)
  | .addw rd ra rb => some (packRR 1 rd ra rb 26)  | .subw rd ra rb => some (packRR 1 rd ra rb 27)
  | .mulw rd ra rb => some (packRR 1 rd ra rb 28)  | .cmovnz rd ra rb => some (packRR 1 rd ra rb 29)
  | .cmovz rd ra rb => some (packRR 1 rd ra rb 30)
  | .addi rd ra i => some (packRI 2 rd ra i)       | .andi rd ra i => some (packRI 3 rd ra i)
  | .ori rd ra i => some (packRI 4 rd ra i)        | .xori rd ra i => some (packRI 5 rd ra i)
  | .slti rd ra i => some (packRI 6 rd ra i)       | .sltiu rd ra i => some (packRI 7 rd ra i)
  | .slli rd ra n => some (packRI 8 rd ra (0#8 ++ 0#2 ++ n)) | .srli rd ra n => some (packRI 8 rd ra (0#8 ++ 1#2 ++ n))
  | .srai rd ra n => some (packRI 8 rd ra (0#8 ++ 2#2 ++ n)) | .rori rd ra n => some (packRI 8 rd ra (0#8 ++ 3#2 ++ n))
  | .lih rd ra i => some (packRI 9 rd ra i)        | .adpc rd i => some (packRI 0x0A rd 0 i)
  | .xtz rd ra w p => some (packRI 0x0B rd ra (0#2 ++ 0#2 ++ w ++ p))
  | .xts rd ra w p => some (packRI 0x0B rd ra (0#2 ++ 1#2 ++ w ++ p))
  | .ins rd ra w p => some (packRI 0x0B rd ra (0#2 ++ 2#2 ++ w ++ p))
  | .lea rd ra rb s => some (packRR 0x0C rd ra rb (0#8 ++ s))
  | .madd rd ra rb rc => some (packRR 0x0D rd ra rb (0#6 ++ rc))
  | .ldb rd ra i => some (packRI 0x10 rd ra i)     | .ldbu rd ra i => some (packRI 0x11 rd ra i)
  | .ldh rd ra i => some (packRI 0x12 rd ra i)     | .ldhu rd ra i => some (packRI 0x13 rd ra i)
  | .ldw rd ra i => some (packRI 0x14 rd ra i)     | .ldwu rd ra i => some (packRI 0x15 rd ra i)
  | .ldd rd ra i => some (packRI 0x16 rd ra i)     | .stb rd ra i => some (packRI 0x18 rd ra i)
  | .sth rd ra i => some (packRI 0x19 rd ra i)     | .stw rd ra i => some (packRI 0x1A rd ra i)
  | .std rd ra i => some (packRI 0x1B rd ra i)
  | .ldAcq rd ra m => some (packMO 0 rd ra 0 m)    | .stRel rd ra m => some (packMO 1 rd ra 0 m)
  | .fence m => some (packMO 2 0 0 0 m)
  | .waitNe rd ra rb m => some (packMO 3 rd ra rb m) | .waitEq rd ra rb m => some (packMO 4 rd ra rb m)
  | .waitGe rd ra rb m => some (packMO 5 rd ra rb m) | .amoAdd rd ra rb m => some (packMO 6 rd ra rb m)
  | .amoAnd rd ra rb m => some (packMO 7 rd ra rb m) | .amoOr rd ra rb m => some (packMO 8 rd ra rb m)
  | .amoXor rd ra rb m => some (packMO 9 rd ra rb m) | .amoMin rd ra rb m => some (packMO 10 rd ra rb m)
  | .amoMax rd ra rb m => some (packMO 11 rd ra rb m) | .amoMinu rd ra rb m => some (packMO 12 rd ra rb m)
  | .amoMaxu rd ra rb m => some (packMO 13 rd ra rb m) | .amoSwap rd ra rb m => some (packMO 14 rd ra rb m)
  | .amoCas rd ra rb m => some (packMO 15 rd ra rb m) | .fredAdd c ra rb m => some (packMO 16 c ra rb m)
  | .fredMin c ra rb m => some (packMO 17 c ra rb m) | .fredMax c ra rb m => some (packMO 18 c ra rb m)
  | .beq ra rb o => some (packRI 0x20 ra rb o)     | .bne ra rb o => some (packRI 0x21 ra rb o)
  | .blt ra rb o => some (packRI 0x22 ra rb o)     | .bge ra rb o => some (packRI 0x23 ra rb o)
  | .bltu ra rb o => some (packRI 0x24 ra rb o)    | .bgeu ra rb o => some (packRI 0x25 ra rb o)
  | .jal rd o => some (packJL 0x26 rd o)           | .jalr rd ra i => some (packRI 0x27 rd ra i)
  | .semdef ra n => some (packEN 0x28 0 0 ra 0 (0#2 ++ n))
  | .semp rd ra n => some (packEN 0x28 1 rd ra 0 (0#1 ++ n))
  | .semv ra rb n => some (packEN 0x28 2 0 ra rb (0#1 ++ n))
  | .semtry rd ra n => some (packEN 0x28 3 rd ra 0 (0#1 ++ n))
  | .semrd rd n => some (packEN 0x28 4 rd 0 0 (0#1 ++ n))
  | .semset ra n => some (packEN 0x28 5 0 ra 0 (0#1 ++ n))
  | .bardef ra n => some (packEN 0x29 0 0 ra 0 (0#3 ++ n))
  | .bara rd n => some (packEN 0x29 1 rd 0 0 (0#3 ++ n))
  | .barw rd n => some (packEN 0x29 2 rd 0 0 (0#3 ++ n))
  | .baraw rd n => some (packEN 0x29 3 rd 0 0 (0#3 ++ n))
  | .chain rd ra e => some (packEN 0x2A 0 rd ra 0 e.imm7)
  | .chwait rd ra e => some (packEN 0x2A 1 rd ra 0 e.imm7)
  | .chstat rd e => some (packEN 0x2A 2 rd 0 0 e.imm7)
  | .chkill rd ra e => some (packEN 0x2A 3 rd ra 0 e.imm7)
  | .gcfg rd ra s => some (packEN 0x2A 4 rd ra 0 (0#6 ++ s))
  | .mxlease rd ra y q => some (packEN 0x2A 5 rd ra 0 (0#5 ++ y ++ q))
  | .chselProbe rd ra => some (packEN 0x2A 6 rd ra 0 0)
  | .chselCur rd => some (packEN 0x2A 6 rd 0 0 1)
  | .chselAdv rd => some (packEN 0x2A 6 rd 0 0 2)
  | .pgreq rd ra => some (packEN 0x2B 0 rd ra 0 0)
  | .resq rd ra => some (packEN 0x2B 1 rd ra 0 0)
  | .pkrw rd ra => some (packEN 0x2B 2 rd ra 0 0)
  | .pkrr rd => some (packEN 0x2B 3 rd 0 0 0)
  | .rply => some (packEN 0x2B 4 0 0 0 0)
  | .tlbinv ra rb s => some (packEN 0x2B 5 0 ra rb (0#5 ++ s))
  | .rdtime rd => some (packEN 0x2C 0 rd 0 0 0)
  | .rdrcc rd => some (packEN 0x2C 1 rd 0 0 0)
  | .waitt rd ra t => some (packEN 0x2C 2 rd ra 0 (0#6 ++ t))
  | .rdtick rd => some (packEN 0x2C 3 rd 0 0 0)
  | .mfs rd x => some (packEN 0x30 0 rd 0 (x.extractLsb' 7 5) (x.extractLsb' 0 7))
  | .mts ra x => some (packEN 0x30 1 0 ra (x.extractLsb' 7 5) (x.extractLsb' 0 7))
  | .trap x => some (packEN 0x30 2 0 0 (x.extractLsb' 7 5) (x.extractLsb' 0 7))
  | .svc x => some (packEN 0x30 3 0 0 0 x)
  | .tret => some (packEN 0x30 4 0 0 0 0)
  | .idle => some (packEN 0x30 5 0 0 0 0)
  | .brk x => some (packEN 0x30 6 0 0 0 x)
  | .halt => some (packEN 0x30 7 0 0 0 0)
  | .rdid rd x => some (packEN 0x30 8 rd 0 0 x)
  | _ => none

end Sys2Proof
end

