-- ==== Sys2Proof/Machine/State.lean ====
section
/-! DEFINITION. The state of the whole device as plain data, its faults and refusals, and the state after reset.
What a count or a clock has accumulated is kept as a base and the tick at which it was taken, so that the passing of
time changes only the scalars at the end of `State`. -/
namespace Sys2Proof.Machine

/-! ### Causes, events and outcomes -/

/-- The trap causes of R408. `none` is code 0x00, which names no trap cause. -/
inductive Cause where
  | none | illop | align | badaddr | prot | poison | cbformat | patchoor | slip | hazard | crystal | semgen | waitto
  | trap | brk | svc
deriving DecidableEq, Repr

/-- An event that a source of a tile has raised and whose action has not been taken (R409, R410). SRC is 0 for the
core and 1 to 5 for ld, st, gr, mx and rt, `ptile` the tile on which it was raised, and `seqno` its number once the arbiter has
recorded it: an action word names the source by that tile. While the source's task is switched out, `action` keeps the supervisor's
action (0 none, else the code of R413) and `reply` the values of s4 and s5 that a service leaves (R422). -/
structure Event where
  src      : BitVec 3
  cause    : Cause
  val      : Word
  loc      : Word
  since    : Nat
  recorded : Bool
  ptile    : TileId
  seqno    : Word
  action   : BitVec 3
  reply    : Option (Word × Option Word)
deriving DecidableEq, Repr

/-- What a target returns for an access (R171, R181). `busy` is a request that a peer has not answered (R239). -/
inductive AccOut where
  | value (v : Word)
  | done
  | zeroFill
  | parked
  | busy
  | trap (c : Cause)
deriving DecidableEq, Repr

/-- What a request of a control core asks of its target (R169, R183 to R190). `store` and `load` carry their size in
bytes; a wait's condition is 0 NE, 1 EQ, 2 GE; an atomic's operation is fn − 6 and a reduction's fn − 16. -/
inductive ReqOp where
  | load (size : Nat) (signed : Bool)
  | store (size : Nat) (v : Nat)
  | acq
  | rel (v : Word)
  | wait (cond : BitVec 2) (b : Word)
  | amo (op : BitVec 4) (b expect : Word)
  | fred (op : BitVec 2) (ctl : BitVec 5) (b : Word)
deriving DecidableEq, Repr

/-- A request of a control core: its destination register, effective address, operation, observer mask, the PKR in force
at its issue (R99) and its tag (R188, R394). -/
structure Request where
  rd  : BitVec 5
  ea  : Word
  op  : ReqOp
  obs : BitVec 6
  pkr : Word
  tag : Option (BitVec 16)
deriving DecidableEq, Repr

/-- A request of a control core that has left it and has not completed, with its reply once the target has returned one
(R171, R188). -/
structure Flight where
  req   : Request
  reply : Option AccOut
deriving DecidableEq, Repr

/-! ### Agents and what their releases carry -/

/-- An agent of R376, or a walker of a compute die, which R378 reaches with its die. A Siphon is named by the tile whose control block it
serves (R378), a host requester by the HDM range through which it reaches the package, and a network peer by the queue pair of a context.
(DESIGN CHOICE, log entry 91: the names of host requesters and of peers.) -/
inductive Agent where
  | core (P : TileId)
  | engine (P : TileId) (e : Eng)
  | siphon (P : TileId)
  | supervisor (c : BitVec 6)
  | walker (d : BitVec 2)
  | saver (d : BitVec 2)
  /-- The command processors, taken as one agent. -/
  | launch
  /-- The receive and transmit paths of die 4. -/
  | paths
  | host (r : BitVec 8)
  | peer (ctx : BitVec 12) (qp : BitVec 24)
deriving DecidableEq, Repr

/-- A vector clock over the compute dies (R386). -/
abbrev Clock := Vector Nat 4

/-- A release that a location's value carries (R379, R386): the agent that released, its mask, and the clock that an acquirer
must cover. -/
structure Rel where
  agent : Agent
  mask  : BitVec 6
  clock : Clock
deriving DecidableEq, Repr

/-! ### The control core -/

/-- Why the instruction at PC has not completed. -/
inductive WaitKind where
  /-- The request is on its way (R171). -/
  | flight
  /-- The request is parked at its owner (R175). -/
  | parked
  /-- The fetch of the word at PC is parked (R167). -/
  | fetchPark
  /-- WAIT.* until the line changes (R186). -/
  | memChange
  /-- SEMP in the queue of its semaphore (R194). -/
  | sem
  /-- BARW before the release of its epoch (R199). -/
  | bar
  /-- CHAIN or GCFG before a queue place is free (R200, R204). -/
  | queue
  /-- CHWAIT before the chain has ended (R201). -/
  | chain
  /-- CHSEL ADV before the record can be formed (R87). -/
  | phase
  /-- PGREQ before the supervisor's answer (R206). -/
  | pgreq
  /-- SVC before the supervisor's action (R215). -/
  | svc
  /-- WAITT before its target (R212). -/
  | time
  /-- IDLE (R217). -/
  | idle
  /-- A record-mode log ring is full (R464). -/
  | log
  /-- An outbound request of a PAIR tile waits in the compare buffer (R434). -/
  | pair
deriving DecidableEq, Repr

/-- What a control core is doing. -/
inductive CoreRun where
  /-- No task has started it. -/
  | off
  /-- It issues instructions. -/
  | running
  /-- The instruction `i` at PC waits since tick `since`. -/
  | waiting (i : Instr) (k : WaitKind) (since : Nat)
  /-- It has raised a cause for the supervisor and issues nothing further (R409). -/
  | event
  /-- It has executed HALT (R218). -/
  | halted
deriving DecidableEq, Repr

/-- The control core of a tile: the registers of R94 and R95, the tag that a pre-emption saves (R189), the count of
RDTIME (R464), the request in flight, the lines of the instruction cache (R167), the tick from which the next instruction may
issue and the registers whose values are not ready before a tick (R151), whether a BARAW at PC has made its arrival (R220) and the count of completed instructions
(R460). CID, VTID and CMODE are views of
the tile's task. -/
structure Core where
  regs      : Vector Word 32
  pc        : Word
  trapvec   : Word
  trappc    : Word
  trapcause : Byte
  trapval   : Word
  fmode     : BitVec 6
  wto       : Word
  resf      : BitVec 2
  semov     : Word
  pkr       : Word
  leaseq    : BitVec 7
  phase     : BitVec 32
  run       : CoreRun
  atomTag   : Option (BitVec 16)
  flight    : Option Flight
  icache    : List (Nat × List Byte)
  timeReads : BitVec 32
  busy      : Nat
  ready     : KMap Nat
  barw      : Bool
  instrs    : Word
deriving DecidableEq, Repr

/-! ### Semaphores, regions, barriers -/

/-- Who waits on a semaphore: the core, an engine's header wait, or an engine's ring-slot acquisition. -/
inductive WaitWho where
  | core
  | header (e : Eng)
  | ring (tile : TileId) (e : Eng)
deriving DecidableEq, Repr

/-- One wait in a semaphore's queue (R103). -/
structure Waiter where
  sem   : BitVec 6
  who   : WaitWho
  count : BitVec 32
deriving DecidableEq, Repr

/-- A region descriptor (R34). -/
structure RegionDesc where
  base     : BitVec 19
  slotb    : BitVec 20
  nslot    : BitVec 5
  full     : BitVec 6
  free     : BitVec 6
  obs      : BitVec 6
  gen      : BitVec 32
  byteMode : Bool
  init     : Bool
deriving DecidableEq, Repr

/-- A slot that a CB holds: the engine and tile that hold it, the CB and the fill number it saw (R35, R284). -/
structure SlotHold where
  slot     : BitVec 4
  tile     : TileId
  eng      : Eng
  cb       : Word
  fill     : BitVec 32
  producer : Bool
deriving DecidableEq, Repr

/-- The state of a bound region (R35, R443). -/
structure Region where
  desc    : RegionDesc
  f       : BitVec 32
  c       : BitVec 32
  tags    : Vector Byte 16
  pending : BitVec 16
  holds   : List SlotHold
deriving DecidableEq, Repr

/-- A bound barrier handle (R104). `epoch` is the epoch of the tile's arrival. -/
structure BarHandle where
  unit    : BarKey
  count   : BitVec 11
  arrived : Bool
  epoch   : BitVec 32
deriving DecidableEq, Repr

/-- A barrier unit of a task (R198): arrivals and pending bytes of the current epoch, and arrivals that belong to
the next one, and the clocks that the arrivals carry (R391). -/
structure BarUnit where
  count    : BitVec 11
  arrivals : Nat
  next     : Nat
  epoch    : BitVec 32
  pending  : BitVec 32
  clock    : Clock
deriving DecidableEq, Repr

/-! ### Control blocks and engines -/

/-- A full window (R29, R30). -/
structure Window where
  base : Word
  str  : Vector (BitVec 32) 6
  fmt  : Byte
  wfl  : Byte
  rgn  : BitVec 16
  ext  : Vector (BitVec 16) 4
  pad  : BitVec 32
deriving DecidableEq, Repr

/-- A compact scale window (R33). -/
structure ScaleWindow where
  base   : Word
  kstr   : BitVec 32
  rowstr : BitVec 32
deriving DecidableEq, Repr

/-- A control block as its 256 bytes lay it out (R25). -/
structure CB where
  op     : Byte
  flg    : Byte
  wsem   : Byte
  ssem   : Byte
  wcnt   : BitVec 16
  scnt   : BitVec 16
  rwin   : Byte
  rlvl   : Byte
  rrole  : Byte
  genx   : Byte
  pcnt   : BitVec 16
  opa    : BitVec 16
  tstart : Word
  sobs   : BitVec 32
  opb    : BitVec 32
  bnd    : Vector (BitVec 32) 6
  depth  : Byte
  ii     : Byte
  rsv3a  : BitVec 16
  opc    : BitVec 32
  w0     : Window
  w1     : Window
  w2     : Window
  w3     : ScaleWindow
  w4     : ScaleWindow
  plist  : Word
  parm   : BitVec 32
deriving DecidableEq, Repr

/-- A fetched control block: its address, the shape entry that an RT CB names (R356), and the fault its fetch or its check
met, if any (R27, R42). -/
structure Fetched where
  addr  : Word
  cb    : CB
  shape : List Byte
  fault : Option (Cause × Word)
deriving DecidableEq, Repr

/-- An issued chain (R105, R200). `next` is the address of the next CB to fetch, `last` says that the LAST CB has been
fetched, `image` is the slot of a chain that GCFG formed (R204), `modes` counts its MODE CBs (R464), and `need` is the clock that
its accesses must see (R387). -/
structure Chain where
  num   : BitVec 32
  head  : Word
  next  : Word
  last  : Bool
  patch : BitVec 16
  mode  : BitVec 6
  pkr   : Word
  gen   : Word
  image : Option (BitVec 1)
  modes : BitVec 32
  need  : Clock
deriving DecidableEq, Repr

/-- Where an engine is in the steps of R44 for its current CB. -/
inductive Stage where
  /-- No current CB. -/
  | idle
  /-- The CB is current and its timed start has not passed (R281). -/
  | timed
  /-- Its header wait is queued (step 1). -/
  | header
  /-- Its loop nest runs (step 2). -/
  | body
  /-- Its result word is formed and its patch list is due (step 4). -/
  | patch
  /-- RESW and the header signal are due (steps 5 and 6). -/
  | signal
deriving DecidableEq, Repr

/-- What holds an engine within its stage (R202, R285). -/
inductive Block where
  | none
  /-- A parked access of the current iteration, of the fetch or of the patch list. -/
  | parked
  /-- The ring slot's semaphore (R37). -/
  | ring
  /-- A cause raised for the supervisor (R409). -/
  | event
  /-- The cause of a run of the grid that has faulted, which is not resumed (R351). -/
  | dead
  /-- The slot is refetch-pending (R443). -/
  | refetch
  /-- The target chain of the patch list does not exist yet (R293). -/
  | patchTarget (head : Word) (e : Eng)
  /-- A peer has not answered (R239). -/
  | peer
  /-- An outbound request waits in the compare buffer (R434). -/
  | pair
deriving DecidableEq, Repr

/-- The slot that the current CB holds through its ring window: the physical tile and region, the slot, its fill
number, and how many slots the CB has acquired before it (R37, R39). -/
structure RingPos where
  tile    : TileId
  rid     : BitVec 5
  slot    : BitVec 4
  fill    : BitVec 32
  checked : Bool
deriving DecidableEq, Repr

/-- A refetch record (R442), with the number of its CB's chain (R444). -/
structure Refetch where
  chain  : BitVec 32
  cbaddr : Word
  rtile  : BitVec 10
  rid    : BitVec 5
  slot   : BitVec 4
  fill   : BitVec 32
  idx    : Vector (BitVec 32) 6
  gen    : Word
  pkr    : Word
  mode   : BitVec 6
deriving DecidableEq, Repr

/-- A staged line of ST.RED with the tag of its combine request (R302). -/
structure Staged where
  addr : Word
  data : List Byte
  tag  : BitVec 16
deriving DecidableEq, Repr

/-- A 32-byte port entry with its residency mask (R280). -/
structure PortEntry where
  data : BitVec 256
  mask : Byte
deriving DecidableEq, Repr

/-- A piece of a line that an iteration writes (R279): its place in the line, its bytes, whether a mark travels with them (R440), the
iteration with the generator at its start (R267), the region that its window names, and the tile whose region that is (R31). -/
structure Piece where
  off  : Nat
  data : List Byte
  lost : Bool
  idx  : Vector (BitVec 32) 6
  gen  : Word
  rgn  : BitVec 16
  home : TileId
deriving DecidableEq, Repr

/-- A 64-byte line that iterations in flight share (R279): its address, what its one read has returned, each byte with whether it
came from a non-resident zero-fill page, and whether a mark travels with it (R440), the number of the iteration that made the read,
whether an iteration of the present step has read it, and the pieces that its one write holds. -/
structure LineBuf where
  line : Word
  got  : Option (List (Byte × Bool) × Bool)
  turn : Nat
  used : Bool
  put  : List Piece
deriving DecidableEq, Repr

/-- One engine of a tile (R105): the chain queue, the numbers of killed chains (R201), the prefetch buffer, the current
CB with its stage and loop-index stack, the result and hash in progress, the lateness counters (R461), the ring
position, whether its phase has met a POISON and has written into a byte-mode region (R441), the refetch records (R442), the port hold buffer and partial entries (R280, R286), the staging buffer (R302)
the bytes that a resumed load drops, the iterations that it delivers again and the generator at the start of its loop nest
(R267, R337), the entries that its CB has delivered to its port, the bytes of a partial entry at the start of its slot, whether
its slot is read and not yet in the grid's hands, whether its patch list has been applied (R286), whether the loop nest has ended while bytes for a port remain, the bytes of
the iteration's row that are in place, the index that chose the row and whether it was lost on its way, whether the staged lines are being
sent (R298, R302), the lines that the iterations in flight share (R279), and the tick before which a trailing engine does not go on
(R85). -/
structure Engine where
  queue     : List Chain
  issued    : BitVec 32
  killed    : List (BitVec 32)
  ahead     : List Fetched
  cur       : Option Fetched
  stage     : Stage
  block     : Block
  idx       : Vector (BitVec 32) 6
  started   : Bool
  acquired  : Bool
  elastic   : Bool
  onTime    : Bool
  since     : Nat
  result    : Word
  hash      : Word
  count     : Nat
  slots     : BitVec 32
  slotGen   : Word
  ring      : Option RingPos
  resw      : BitVec 5
  poisoned  : Bool
  byteWrites : Bool
  lateCount : BitVec 32
  lateSum   : Word
  refetch   : List Refetch
  hold      : Vector (List PortEntry) 2
  partIn    : List (Byte × Bool)
  staging   : List Staged
  skip      : BitVec 32
  redo      : Nat
  bodyGen   : Word
  pushed    : Nat
  carry     : List (Byte × Bool)
  slotOver  : Bool
  patched   : Bool
  tail      : Bool
  rowDone   : Nat
  rowIdx    : Option (Int × Bool)
  sending   : Bool
  slipped   : Bool
  lines     : List LineBuf
  lag       : Nat
  readySince : Option Nat
  need      : Clock
deriving DecidableEq, Repr

/-! ### The grid -/

/-- One fabric element (R107): registers of eight 32-bit lanes, predicates and one generator for each lane. -/
structure Fe where
  v   : Vector (BitVec 256) 16
  q   : Vector Byte 4
  gen : Vector Word 8
deriving DecidableEq, Repr

/-- A checked configuration image (R131, R327): the bundles that are not zero, keyed by 64·FE + bundle, and the routing
table. Every other byte of such an image is fixed by the checks of R132. -/
structure Image where
  femask  : BitVec 16
  bundles : KMap (BitVec 128)
  redmask : BitVec 16
  edge    : Byte
  porten  : Byte
  shuftab : Vector (BitVec 24) 32
deriving DecidableEq, Repr

/-- Where a result lands: a vector register, a predicate. -/
inductive Dest where
  | vec (r : BitVec 4)
  | pred (q : BitVec 2)
deriving DecidableEq, Repr

/-- A result in flight (R334): it lands at the end of grid cycle `at_` in the lanes of `lanes`. `rank` orders results
of one cycle: by issue cycle, then X before Y before Z. -/
structure Landing where
  cycle : Nat
  fe    : BitVec 4
  dest  : Dest
  lanes : Byte
  value : BitVec 256
  rank  : Nat
deriving DecidableEq, Repr

/-- A GR.RUN in progress (R330 to R334): the grid cycle, counted from the start of step 2 or from the resume, the
first iteration of this start, the iterations whose entries are reserved, the drain flag and its fault, the results in
flight, the incoming link registers of each FE (north, east, south, west), the link writes of this cycle, and the
the entries of each input and output port, which hold data inside a run only (R107), the entries reserved at each input port (for
each of them, in the order in which they stand there, the iteration that it is reserved for) and at each output port, with its CB
and its slot. `orphan` says that the chain has been
killed and only the started iterations go on (R352). -/
structure GridRun where
  cb       : CB
  slot     : BitVec 1
  orphan   : Bool
  cycle    : Nat
  base     : Nat
  begun    : Nat
  drain    : Bool
  fault    : Option (Cause × Word)
  mode     : BitVec 6
  landings : List Landing
  links    : Vector (Vector (BitVec 256) 4) 16
  sends    : List (Nat × BitVec 256 × Byte)
  inp      : Vector (List PortEntry) 4
  outp     : Vector (List PortEntry) 2
  inHeld   : Vector (List Nat) 4
  outHeld  : Vector Nat 2
  result   : Word
  hash     : Word
deriving DecidableEq, Repr

/-- The grid of a tile (R107, R328). -/
structure Grid where
  fes    : Vector Fe 16
  slot0  : Option Image
  slot1  : Option Image
  active : BitVec 1
  run    : Option GridRun
deriving DecidableEq, Repr

/-- What has arrived at a semaphore in the tick `at_`: its value and its SEMOV bit before, and the counts added since (R103). -/
structure SemTick where
  at_  : Nat
  base : BitVec 32
  ovr  : Bool
  adds : List (BitVec 32)
deriving DecidableEq, Repr

/-- A tile: its core, semaphore file, regions, barrier handles, engines and grid, the SAT flag (R106), the count of
unacknowledged remote-write bytes (R198), the arrivals of one tick at each semaphore (R103), the events it has raised, the task it runs for and as which virtual tile and
copy, the clock that its later loads must see covered (R386), whether something that ends IDLE has happened since
IDLE began (R217), and the counts of the lease that a pre-emption ended (R91, R424). -/
structure Tile where
  task     : Option Nat
  vt       : BitVec 10
  copy     : Bool
  trailing : Bool
  stopped  : Bool
  core     : Core
  sems     : Vector (BitVec 32) 64
  waiters  : List Waiter
  regions  : Vector (Option Region) 32
  bars     : Vector (Option BarHandle) 16
  eng      : Vector Engine 5
  grid     : Grid
  sat      : Bool
  pending  : BitVec 32
  events   : List Event
  needK    : Clock
  semK     : KMap Clock
  semTick  : KMap SemTick
  wake     : Bool
  leaseCbs   : Nat
  leaseTicks : Nat
deriving DecidableEq, Repr

/-! ### Quads, clusters, dies -/

/-- The lease of a quad array (R91). -/
inductive Lease where
  | idle
  | held (t : BitVec 2) (since : Nat) (cbs : Nat)
  | switch (next : BitVec 2) (since : Nat)
deriving DecidableEq, Repr

/-- One weight plane of a quad (R92, R308): its record, its rebuild-failure mark, whether an MX.WLOAD of it has
started and not completed (R310), and where its parity bits, one for each 64 cell groups of each row, do not fit what the row holds:
the row and which of its groups of 64 (R308, R311). Its bytes are in memory. -/
structure Plane where
  record  : Option (Word × Byte × BitVec 9)
  mark    : Option (Cause × Word)
  loading : Bool
  upset   : List (BitVec 9 × BitVec 3)
deriving DecidableEq, Repr

/-- A quad array: the lease, the requesting positions, the tile that must yield, and the planes. -/
structure Quad where
  lease  : Lease
  wants  : BitVec 4
  yield  : Bool
  planes : Vector Plane 4
deriving DecidableEq, Repr

/-- An event record (R410). -/
structure EventRec where
  seqno : Word
  cause : Byte
  src   : BitVec 3
  ptile : TileId
  ctx   : BitVec 12
  val   : Word
  loc   : Word
deriving DecidableEq, Repr

/-- A cluster (R410, R411, R439): the unconsumed records of its event queue, the 32-byte records of the ring in the supervisor's
memory, the next sequence number, when the last event was numbered and its place in the order of one tick, and the suspect mark with
the number of times it was set since reset and the number of suite runs in a row that it has passed since. -/
structure Cluster where
  queue   : List EventRec
  ring    : KMap (List Byte)
  seqno   : Word
  last    : Option (Nat × Nat)
  suspect : Bool
  marks   : Nat
  passes  : Nat
deriving DecidableEq, Repr

/-- A TLB entry (R230): the context, the page's first virtual address, and the leaf, which gives the page's size and frame. -/
structure TlbEntry where
  ctx  : BitVec 12
  page : Word
  leaf : Word
deriving DecidableEq, Repr

/-- A parked request (R236, R418): what its park record holds, and the requester. SRC 7 is a host or network request; a write of
the host through CXL.mem keeps its host physical address and its data. -/
structure Parked where
  token : Nat
  va    : Word
  ctx   : BitVec 12
  kind  : AccKind
  src   : BitVec 3
  tile  : TileId
  task  : Option Nat
  vt    : BitVec 10
  time  : Word
  host  : Option (Word × List Byte)
deriving DecidableEq, Repr

/-- A line of a remote-line cache (R224): its context and virtual line address, what the owner returned with it, the owner's
line, by which the owner records its holders, the task and copy that see it when it was read for a TWIN task (R436), the KEYID of
its page, and the owner's clock at its last update. -/
structure RlcLine where
  ctx  : BitVec 12
  line : Word
  home : Nat
  view : Option (Nat × Bool)
  key  : Byte
  ver  : Nat
  r    : Bool
  pkey : BitVec 5
  data : List Byte
deriving DecidableEq, Repr

/-- A stamped update or bare stamp on its way to a die (R386). An update names the owner's line, the KEYID it was written
under, and the new data. -/
structure ClockMsg where
  owner : BitVec 2
  stamp : Clock
  upd   : Option (Nat × Byte × List Byte)
deriving DecidableEq, Repr

/-- An entry of a completed-request table (R188, R394). `vt` is the virtual tile whose memory the request went to, if it went to
tile memory: such an entry goes with that tile when a resumed task finds it on another die (R189). `trailing` says that a tile of the
trailing cluster of a PAIR applied it in its own cluster (R434). -/
structure DoneReq where
  src   : ReqSrc
  trailing : Bool
  tag   : BitVec 16
  vt    : Option (BitVec 10)
  reply : AccOut
deriving DecidableEq, Repr

/-- The counter line of a crypto page (R243). -/
structure CtrLine where
  major  : Word
  minors : KMap (BitVec 7)
deriving DecidableEq, Repr

/-- The counts of a telemetry page (R462), in the order of that rule: resynchronisations of the five kinds of voted
unit, scrub corrections, poison marks, tag mismatches, quarantines, flit retries, retrains and throttle steps. -/
structure Telemetry where
  resync      : Vector Word 5
  corrections : Word
  marks       : Word
  tagMiss     : Word
  quarantines : Word
  flitRetries : Word
  retrains    : Word
  throttle    : Word
  temp        : BitVec 16
deriving DecidableEq, Repr

/-- The Siphon of a compute die (R354): the tile it serves, the tile it served last, and the clock that its accesses must see. -/
structure Siphon where
  serving : Option TileId
  last    : TileId
  need    : Clock
deriving DecidableEq, Repr

/-- A compute die: context root table, TLB, park queue with the requests held for a place and the park records by token, remote-line cache and its
clocks and messages (R386), key table and metadata-key generation (R242), counter lines, line tags, node and root tags
that differ from those of the reset tree (R243 to R246), the metadata lines that its controllers have verified and hold (R246),
quarantined subtrees (R249), page requests to its supervisor
(R206), reports on their way to its die lead with the tick of each (R412), Siphon, completed-request table, throttle level with the steps since reset, whether its power or temperature is past its limit and since when both have been 5 % below (R467), telemetry, and the number of page-table
frames that its supervisor has laid down for Gallery allocations (R417). -/
structure Die where
  powered    : Bool
  crt        : KMap Word
  tlb        : List TlbEntry
  park       : List Parked
  parkHeld   : List Parked
  parkRecs   : KMap Parked
  token      : Nat
  rlc        : List RlcLine
  k          : Clock
  a          : Clock
  inbox      : List ClockMsg
  keys       : KMap (BitVec 256)
  metaGen    : Nat
  ctrs       : KMap CtrLine
  lineTags   : KMap (BitVec 56)
  treeTags   : KMap (BitVec 56)
  metaCache  : List Nat
  quarantine : List (Nat × Nat)
  reports    : List (EventRec × Nat)
  siphon     : Siphon
  doneReqs   : List DoneReq
  throttle   : BitVec 3
  steps      : List (Nat × BitVec 3)
  past       : Bool
  coolFrom   : Option Nat
  lastStep   : Nat
  telemetry  : Telemetry
  tables     : Nat
deriving DecidableEq, Repr

/-! ### Tasks -/

/-- Task classes (R12). -/
inductive Class where
  | deadline | interactive | bulk
deriving DecidableEq, Repr

/-- Redundancy (R12). -/
inductive Redun where
  | none | pair | twin
deriving DecidableEq, Repr

/-- Fault domains (R12). -/
inductive FaultDomain where
  | task | region | context
deriving DecidableEq, Repr

/-- The states of a task (R82). -/
inductive TaskState where
  | waiting | ready | loading | running | saving | done
deriving DecidableEq, Repr

/-- One node of a task's RCB path with the caps it sets (R15, R18): its address, the place of its bytes in the device, and the 128
bytes that acceptance took. -/
structure CapNode where
  rcb   : Word
  place : Option Nat
  bytes : List Byte
  tiles : Option Nat
  galb  : Option Nat
  hbws  : Option Nat
  quant : Option Nat
deriving DecidableEq, Repr

/-- The record of one schedule phase (R87). -/
structure PhaseRec where
  phase : BitVec 32
  cls   : Byte
  ovr   : Bool
deriving DecidableEq, Repr

/-- What the device keeps of a kernel image at acceptance (R19 to R24, R86). -/
structure KernelImage where
  kmode    : Bool
  entry    : Word
  vgrid    : Nat
  sizemax  : List Word
  safetab  : Word
  nsafe    : Nat
  shapetab : Word
  nshape   : Nat
  argb     : Nat
  sizeva   : Word
deriving DecidableEq, Repr

/-- The counters of R460 that are not kept elsewhere. -/
structure Counters where
  instr   : Word
  cbdone  : Vector Word 5
  sbytes  : Word
  leasew  : Word
  latecnt : Word
  latesum : Word
  preempt : BitVec 32
  diverg  : BitVec 32
  parity  : BitVec 32
deriving DecidableEq, Repr

/-- A shadow block of a TWIN copy (R436): the copy, the block's virtual address, its owner's frame address. -/
structure Shadow where
  copy  : Bool
  block : Word
  frame : Nat
deriving DecidableEq, Repr

/-- An outbound request in a compare buffer (R434): its virtual tile and the path by which it comes (the SRC of the requester, or that
plus 8 for its fetches), whether the leading cluster issued it, the request's target, data, size, mask and tag as one list, and
since when it waits. -/
structure PairReq where
  vt      : BitVec 10
  path    : Nat
  leading : Bool
  what    : List Nat
  since   : Nat
deriving DecidableEq, Repr

/-- A region that an image declares and Mladman binds at task start (R110, R144). -/
structure RegionDecl where
  vt   : Option (BitVec 10)
  id   : BitVec 5
  desc : RegionDesc
deriving DecidableEq, Repr

/-- An addition to a semaphore of a virtual tile, of copy 0 or 1, that is not on a tile that runs: it is made when its task runs (R72). What the
addition lets a waiter see is its clock (R390). -/
structure SemLater where
  vt    : BitVec 10
  copy  : Bool
  sem   : BitVec 6
  count : BitVec 32
  clock : Clock
deriving DecidableEq, Repr

/-- A task (R14 to R18, R63, R76 to R93, R419 to R421): what acceptance resolved, its place in the schedule, its tile
map, its region cycle counter and quantum as a base and the tick since which they advance, with the counter one tick before that, its barrier units, its
saved tiles, its tags, allocations and shadow frames, the clock that its accesses must see when a tile starts or resumes
(R392, R397), the node of its path that supplied its FDOM, and how it is to end and since which tick (R82). -/
structure Task where
  queue     : BitVec 11
  seq       : BitVec 16
  index     : BitVec 32
  compl     : Word
  tacc      : Word
  rcb       : Word
  save      : Word
  ctx       : BitVec 12
  cls       : Class
  prio      : BitVec 3
  fdom      : FaultDomain
  fnode     : Nat
  redun     : Redun
  static    : Bool
  debug     : Bool
  path      : List CapNode
  tilecap   : Nat
  quantum   : Nat
  deadline  : Word
  image     : KernelImage
  size      : Word
  home      : BitVec 2
  state     : TaskState
  ranOnce   : Bool
  order     : Nat
  readyAt   : Nat
  placedAt  : Nat
  tileMap   : KMap (BitVec 16)
  tileMap1  : KMap (BitVec 16)
  regions   : List RegionDecl
  phases    : List PhaseRec
  runBase   : Nat
  runSince  : Nat
  quantSince : Nat
  quantDone : Bool
  rccBase   : Nat
  rccSince  : Nat
  rccPrev   : Nat
  slipHold  : List (TileId × Eng)
  slipSince : Option Nat
  slipFrom  : Nat
  slips     : BitVec 32
  bars      : List (BarKey × BarUnit)
  ctr       : Counters
  saved     : KMap Tile
  semAdds   : List SemLater
  spentAt   : Option Nat
  tags      : KMap (BitVec 16)
  allocs    : List (Word × Nat)
  shadows   : List Shadow
  clock     : Clock
  compare   : List PairReq
  mismatch  : Option (BitVec 10)
  recMode   : Byte
  ending    : Option (BitVec 16 × BitVec 32)
  endTick   : Nat
deriving DecidableEq, Repr

/-! ### The I/O die -/

/-- The state of a queue (R54). -/
inductive QueueState where
  | disabled | active | error
deriving DecidableEq, Repr

/-- What an accepted entry that has not completed asks for (R60 to R62). A CANCEL that has run holds the tasks that it ends. -/
inductive EntryKind where
  | launch (task : Nat)
  | mark
  | drain
  | cancel (target : Word) (tasks : Option (List Nat))
deriving DecidableEq, Repr

/-- An accepted entry of a queue that has not completed: its index and sequence number, its number among the entries since
the ENABLE of its era, the numbers of the predecessors that lie since that ENABLE (R61), and whether it still waits for them. -/
structure Entry where
  index : BitVec 32
  seq   : BitVec 16
  era   : Nat
  ord   : Nat
  preds : List Nat
  ctx   : BitVec 12
  compl : Word
  tacc  : Word
  kind  : EntryKind
  waits : Bool
deriving DecidableEq, Repr

/-- A queue (R52 to R57): its descriptor, the device's indices and state, the index of the next entry to read, the accepted
entries that have not completed, and the statuses of completed ones by era and number. `era` counts the ENABLEs and `count`
the entries taken since the last one. -/
structure Queue where
  state    : QueueState
  hdr      : Word
  nent     : Nat
  cls      : Class
  prio     : BitVec 3
  ctx      : BitVec 12
  head     : BitVec 32
  tail     : BitVec 32
  err      : Byte
  errIdx   : BitVec 32
  expected : BitVec 16
  entries  : List Entry
  finished : List (Nat × Nat × BitVec 16)
  count    : Nat
  next     : BitVec 32
  era      : Nat
deriving DecidableEq, Repr

/-- A receive or transmit ring (R71, R74): its 64-byte entry, and the device's indices, frame number and drops. -/
structure Ring where
  base    : Word
  slotsz  : BitVec 32
  nslot   : BitVec 32
  civa    : Word
  piva    : Word
  ctx     : BitVec 12
  ports   : BitVec 4
  obs     : BitVec 6
  vtile   : BitVec 16
  sem     : BitVec 6
  etype   : BitVec 16
  vlan    : BitVec 16
  udpp    : BitVec 16
  pi      : BitVec 32
  ci      : BitVec 32
  fseq    : BitVec 32
  drops   : Word
  owner   : Option Nat
deriving DecidableEq, Repr

/-- A network window (R239). An outbound one names its peer; an inbound one is named by its remote key. -/
structure NetWindow where
  ctx     : BitVec 12
  owner   : Option Nat
  port    : BitVec 2
  gid     : BitVec 128
  qp      : BitVec 24
  rkey    : BitVec 32
  base    : Word
  len     : Word
  r       : Bool
  w       : Bool
  atomic  : Bool
  pkr     : Word
deriving DecidableEq, Repr

/-- A RoCEv2 request that the device has sent through an outbound window (R239, R396): the source and the generic address that ask,
what the packet names, and the peer's answer once it has come. Until then it is sent again with the same PSN. -/
structure OutReq where
  src   : ReqSrc
  va    : Word
  port  : BitVec 2
  gid   : BitVec 128
  qp    : BitVec 24
  psn   : BitVec 24
  rkey  : BitVec 32
  raddr : Word
  op    : RoceOp
  ans   : Option (List Byte)
deriving DecidableEq, Repr

/-- An HDM range (R240). -/
structure HdmRange where
  hpa  : Word
  size : Word
  die  : BitVec 2
  pa   : Nat
  key  : Byte
deriving DecidableEq, Repr

/-- An entry of the record descriptor table (R463). -/
structure RecDesc where
  mode  : Byte
  logva : Word
  nrec  : BitVec 32
  idxva : Word
deriving DecidableEq, Repr

/-- A firmware image: what its header says, its payload, and all its bytes (R472). -/
structure Firmware where
  kind    : BitVec 16
  svn     : BitVec 32
  digest  : BitVec 384
  payload : List Byte
  image   : List Byte
deriving DecidableEq, Repr

/-- An identity key pair (R474): RSA-3072, or SLH-DSA-SHA2-256s, the measurements of the management firmware and of the Prapisen image that
it is derived from, and its public key. -/
structure KeyPair where
  slh        : Bool
  management : BitVec 384
  prapisen   : BitVec 384
  pub        : List Byte
deriving DecidableEq, Repr

/-- The command register of the host queues or of the supervisor queues (R51, R53). -/
structure QCmd where
  op   : BitVec 2
  busy : Bool
  res  : BitVec 2
  qidx : BitVec 10
deriving DecidableEq, Repr

/-- Die 4: BAR0 (R49 to R51), the PTP clock's registers (R70), the queues and their tables, rings and windows, the
address translation cache (R238), HDM ranges, the record table, the firmware and its fused minima (R472 to R476), the identity key pairs (R474), the
reset stages that have completed and whether one has failed (R471), the answers of the management transports and the messages
of the present attestation (R475, R476), the frames sent, each with the port of its ring (R74), the place in each context's frame area (R464), the answers to BAR0 reads, host accesses and peers'
requests, the packet sequence numbers of the queue pairs (R393), the requests sent to peers (R239, R396), the writes that its agents know of (R392), and the counts and
divergences of logged locations (R464, R465). -/
structure IoDie where
  qtbase   : Word
  ready    : Bool
  lost     : Bool
  qcmd     : QCmd
  supcmd   : QCmd
  ptpfreq  : BitVec 32
  ptpLatch : BitVec 32
  queues   : KMap Queue
  qtable   : Nat
  suptable : KMap (List Byte)
  lastTurn : KMap Nat
  rxRings  : KMap Ring
  txRings  : KMap Ring
  portDrop : Vector Word 4
  outWins  : KMap NetWindow
  inWins   : KMap NetWindow
  peerDone : List DoneReq
  inPsn    : KMap (BitVec 24)
  outPsn   : KMap (BitVec 24)
  outReqs  : List OutReq
  orders   : List (BitVec 12 × Word × Nat)
  diverged : List (BitVec 12 × Word)
  atc      : List (BitVec 12 × Word × Bool × Bool)
  hostHeld : List Nat
  pri      : List Parked
  hdm      : List HdmRange
  recTable : KMap RecDesc
  sent     : List (BitVec 4 × List Byte)
  staged   : List Firmware
  running  : List Firmware
  svnMin   : KMap (BitVec 32)
  identity : List KeyPair
  stage    : Nat
  failed   : Bool
  mgmt     : List (List Byte)
  spdm     : List Byte
  frameOff : KMap Nat
  known    : Clock
  answers  : List (List Byte)
deriving DecidableEq, Repr

/-! ### The device -/

/-- A write of an engine to a line of the memory of another tile between its issue and its acknowledgement (R198, R279, R287): the tile
and engine that issued it with its CB, the line's address, the tile where its bytes go, its pieces, its tag if it crosses a link (R394),
and the barrier units that count its bytes. -/
structure Transit where
  tile    : TileId
  eng     : Eng
  loc     : Word
  line    : Word
  target  : TileId
  pieces  : List Piece
  tag     : Option (BitVec 16)
  arrived : Bool
  units   : List BarKey
deriving DecidableEq, Repr

/-- What the outside world and the free choices of the device's agents do next: an operation of the machine, the
passing of ticks, a store by the host to its own memory, the answer of a host page table or of a peer, an
instruction of the core of a tile, a mark or an error that memory finds, a transfer that fails its check after link retry, a line of a remote-line cache or an entry of a TLB that fails its parity, what the supervisor firmware writes (context roots,
keys, page tables, tables of die 4, loader records, runs of the crystal suite, action words) and its RPLY, a die's temperature, or a read of
BAR0 by the host. -/
inductive Act where
  | op (i : Instr)
  | elapse (n : Nat)
  | issue (P : TileId)
  | hostStore (va : Word) (data : List Byte)
  | hostPage (ctx : BitVec 12) (page : Word) (present r w : Bool)
  | peerReply (qp : BitVec 24) (psn : BitVec 24) (data : List Byte)
  | fabric (holds : Bool)
  | eccMark (line : Nat)
  | transferFail (line : Nat)
  | planeParity (g : BitVec 8) (pos : BitVec 2) (row : BitVec 9) (grp : BitVec 3)
  | contextRoot (d : BitVec 2) (ctx : BitVec 12) (v : Word)
  | installKey (d : BitVec 2) (slot : Byte) (k : BitVec 256)
  | dieStore (d : BitVec 2) (pa : Nat) (data : List Byte)
  | supTable (q : BitVec 4) (desc : List Byte)
  | recordMode (ctx : BitVec 12) (r : RecDesc)
  | hdmRange (r : HdmRange)
  | rply (d : BitVec 2)
  | parkService (d : BitVec 2) (token : Nat) (frame : Option (BitVec 36))
  | alterCounter (d : BitVec 2) (page : Nat) (line : CtrLine)
  | alterTag (d : BitVec 2) (lvl : Nat) (c : BitVec 1) (n : Nat) (tag : BitVec 56)
  | reinit (d : BitVec 2) (lvl : BitVec 2) (c : BitVec 1) (n : Nat)
  /-- Parity fails at the k-th line of a die's remote-line cache (R224). -/
  | rlcParity (d : BitVec 2) (k : Nat)
  /-- Parity fails at the k-th entry of a die's TLB (R230). -/
  | tlbParity (d : BitVec 2) (k : Nat)
  | loader (ctx : BitVec 12) (kimg : Word) (decls : List RegionDecl)
  | suiteRun (c : BitVec 6) (pass : Bool)
  | actionPort (c : BitVec 6) (w : Word)
  | temperature (d : BitVec 2) (sixteenths : BitVec 16)
  /-- A die's power or temperature passes its limit or not, or both are 5 % below their limits (R467). -/
  | limits (d : BitVec 2) (past cool : Bool)
  | bar0Read (off : BitVec 32)
  /-- The host reads a word of the configuration space (R471). -/
  | configRead (off : BitVec 12)
  /-- The flash source of a firmware image changes (R473). -/
  | flashWrite (image : List Byte)
  /-- An SPDM request that the device does not support (R475). -/
  | spdmOther (request : List Byte)
deriving DecidableEq, Repr

/-- The whole device. `mem` is every byte of HBM, Gallery, Cavern, tile memory, accumulator quarters, weight planes and
host memory, keyed by one global address. `cur` is the tile whose core issues next, `holds` says that the fabric keeps
requests on their way, `loader` the loader records of images (R144), `agenda` is what the outside world and the free choices of the agents do next, and `turn` is even when
a core issues next and odd when another agent acts. `timePrev` is TIME as it read one tick ago (R281). `poison` lists the poisoned 64-byte lines of the same address space,
`failing` those whose next transfer fails its check on the way (R250, R251),
and `rels` the releases that the present value of an 8-byte location carries (R379). -/
structure State where
  mem      : List Host.Cell
  poison   : List Nat
  failing  : List Nat
  tiles    : KMap Tile
  quads    : KMap Quad
  clusters : KMap Cluster
  dies     : KMap Die
  io       : IoDie
  tasks    : KMap Task
  nextTask : Nat
  transit  : List Transit
  freezes  : List FreezeCause
  resync   : List VotedUnit
  hostPages : List (BitVec 12 × Word × Bool × Bool × Bool)
  loader   : List (BitVec 12 × Word × List RegionDecl)
  cur      : TileId
  holds    : Bool
  agenda   : List Act
  turn     : Nat
  tick     : Nat
  timeNs   : Word
  timeFrac : Nat
  timePrev : Word
  rels     : List (Nat × List Rel)
  free     : Nat
deriving DecidableEq, Repr

/-- Why the machine stops with a fault. (DESIGN CHOICE, log entry 64: a step without power.) -/
inductive Fault where
  /-- Raised by `step` when dies 0 to 3 have lost power after a thermal trip (R468): only a cold reset goes on, and
  none is on the agenda. Safe: no state follows. -/
  | poweredDown
deriving DecidableEq, Repr

/-- Why an operation has no meaning in a state. -/
inductive Refusal where
  /-- Raised by `exec` for an operation that has no meaning yet. Safe: nothing follows. -/
  | notModelled (mnemonic : String)
  /-- Raised by an operation of an agent other than a control core, in a state in which the manual does not let that
  operation happen. Safe: nothing follows. -/
  | notEnabled (what : String)
deriving DecidableEq, Repr

/-! ### Reset -/

/-- The clock of R386 before any write. -/
def Clock.zero : Clock := Vector.replicate 4 0

/-- A control core that no task has started: every register 0, LEASEQ 16 (R95, R110). -/
def Core.reset : Core :=
  { regs := Vector.replicate 32 0, pc := 0, trapvec := 0, trappc := 0, trapcause := 0, trapval := 0, fmode := 0,
    wto := 0, resf := 0, semov := 0, pkr := 0, leaseq := 16, phase := 0, run := .off, atomTag := none, flight := none,
    icache := [], timeReads := 0, busy := 0, ready := [], barw := false, instrs := 0 }

/-- An engine with an empty queue (R110). -/
def Engine.reset : Engine :=
  { queue := [], issued := 0, killed := [], ahead := [], cur := none, stage := .idle, block := .none,
    idx := Vector.replicate 6 0, started := false, acquired := false, elastic := false, onTime := false, since := 0,
    result := 0, hash := 0, count := 0, slots := 0, slotGen := 0, ring := none, resw := 0, poisoned := false, byteWrites := false,
    lateCount := 0, lateSum := 0, refetch := [], hold := Vector.replicate 2 [], partIn := [], staging := [], skip := 0, redo := 0,
    bodyGen := 0, pushed := 0, carry := [], slotOver := false, patched := false, tail := false, rowDone := 0, rowIdx := none, sending := false,
    slipped := false, lines := [], lag := 0, readySince := none, need := Clock.zero }

/-- A fabric element with every register and generator 0 (R110). -/
def Fe.reset : Fe :=
  { v := Vector.replicate 16 0, q := Vector.replicate 4 0, gen := Vector.replicate 8 0 }

/-- A grid with both slots empty (R110). -/
def Grid.reset : Grid :=
  { fes := Vector.replicate 16 Fe.reset, slot0 := none, slot1 := none, active := 0, run := none }

/-- A tile that no task holds: the values of R110 for semaphores, regions, handles, engines and grid.
(DESIGN CHOICE, log entry 15: the values before a task starts.) -/
def Tile.reset : Tile :=
  { task := none, vt := 0, copy := false, trailing := false, stopped := false, core := Core.reset,
    sems := Vector.replicate 64 0, waiters := [], regions := Vector.replicate 32 none,
    bars := Vector.replicate 16 none, eng := Vector.replicate 5 Engine.reset, grid := Grid.reset, sat := false,
    pending := 0, events := [], needK := Clock.zero, semK := [], semTick := [], wake := false, leaseCbs := 0, leaseTicks := 0 }

/-- A weight plane with no record (R110). -/
def Plane.reset : Plane := { record := none, mark := none, loading := false, upset := [] }

/-- A quad array with no lease (R91). -/
def Quad.reset : Quad :=
  { lease := .idle, wants := 0, yield := false, planes := Vector.replicate 4 Plane.reset }

/-- A cluster after reset: sequence number 0 and no suspect mark (R410, R439). -/
def Cluster.reset : Cluster := { queue := [], ring := [], seqno := 0, last := none, suspect := false, marks := 0, passes := 0 }

/-- Telemetry counts since reset (R462). -/
def Telemetry.reset : Telemetry :=
  { resync := Vector.replicate 5 0, corrections := 0, marks := 0, tagMiss := 0, quarantines := 0, flitRetries := 0,
    retrains := 0, throttle := 0, temp := 0 }

/-- A compute die after reset (R386, R470). -/
def Die.reset : Die :=
  { powered := true, crt := [], tlb := [], park := [], parkHeld := [], parkRecs := [], token := 0, rlc := [],
    k := Clock.zero, a := Clock.zero, inbox := [], keys := [], metaGen := 0, ctrs := [],
    lineTags := [], treeTags := [], metaCache := [], quarantine := [], reports := [], siphon := { serving := none, last := 0, need := Clock.zero },
    doneReqs := [], throttle := 0, steps := [], past := false, coolFrom := none, lastStep := 0, telemetry := Telemetry.reset, tables := 0 }

/-- A queue that is DISABLED (R470). -/
def Queue.reset : Queue :=
  { state := .disabled, hdr := 0, nent := 2, cls := .bulk, prio := 0, ctx := 0, head := 0, tail := 0, err := 0,
    errIdx := 0, expected := 0, entries := [], finished := [], count := 0, next := 0, era := 0 }

/-- A command register after reset (R51). -/
def QCmd.reset : QCmd := { op := 0, busy := false, res := 0, qidx := 0 }

/-- Die 4 after reset, before stage 1 (R49 to R51, R470, R471). (DESIGN CHOICE, log entry 16: TIME, PTPFREQ and the tables.) -/
def IoDie.reset : IoDie :=
  { qtbase := 0, ready := false, lost := false, qcmd := QCmd.reset, supcmd := QCmd.reset, ptpfreq := 0, ptpLatch := 0,
    queues := [], qtable := 0, suptable := [], lastTurn := [], rxRings := [], txRings := [],
    portDrop := Vector.replicate 4 0, outWins := [], inWins := [], peerDone := [], inPsn := [], outPsn := [], outReqs := [], orders := [], diverged := [], atc := [],
    hostHeld := [], pri := [], hdm := [], recTable := [], sent := [], staged := [], running := [], svnMin := [], identity := [],
    stage := 0, failed := false, mgmt := [], spdm := [], frameOff := [], known := Clock.zero, answers := [] }

/-- The device right after reset (R470): memory zero, no poison, no mapping, no key, no queue, no task. -/
def State.reset : State :=
  { mem := [], poison := [], failing := [], tiles := [], quads := [], clusters := [], dies := [], io := IoDie.reset, tasks := [],
    nextTask := 0, transit := [], freezes := [], resync := [], hostPages := [], loader := [], cur := 0, holds := false, agenda := [],
    turn := 0, tick := 0, timeNs := 0, timeFrac := 0, timePrev := 0, rels := [], free := 0 }

end Sys2Proof.Machine
end

