-- ==== Sys2Proof/Machine/Ops.lean ====
section
/-! DEFINITION. The named operations over the state that every meaning uses: keyed data, memory bytes, tiles and
registers, the passing of time, completing an instruction, raising an event for the supervisor, and taking and
returning from a task trap. -/
namespace Sys2Proof.Machine

/-- The outcome of one operation. -/
abbrev Res := Host.Outcome State Fault Refusal

/-! ### Keyed data -/

/-- The value of key `k`, or `d` when it is not listed. -/
def kget {α : Type} (d : α) : KMap α → Nat → α
  | [], _ => d
  | (j, v) :: r, k => if j = k then v else kget d r k

/-- The value of key `k`, if it is listed. -/
def kfind {α : Type} : KMap α → Nat → Option α
  | [], _ => none
  | (j, v) :: r, k => if j = k then some v else kfind r k

/-- Key `k` now holds `v`. Keys stay in rising order. -/
def kset {α : Type} : KMap α → Nat → α → KMap α
  | [], k, v => [(k, v)]
  | (j, w) :: r, k, v => if k < j then (k, v) :: (j, w) :: r else if j = k then (k, v) :: r else (j, w) :: kset r k v

/-- Key `k` is no longer listed. -/
def kdel {α : Type} (m : KMap α) (k : Nat) : KMap α := m.filter fun p => p.1 != k

/-! ### Memory bytes -/

/-- What an address that memory does not list reads as (R470). (DESIGN CHOICE, log entry 12: 0 for host memory and accumulators.) -/
def unlisted : Byte := 0

/-- The byte at a global address. -/
def memGet : List Host.Cell → Nat → Byte
  | [], _ => unlisted
  | (k, b) :: r, a => if k = a then b else if a < k then unlisted else memGet r a

/-- Store one byte, keeping addresses rising and listing no byte equal to what an unlisted address reads as. -/
def memSet : List Host.Cell → Nat → Byte → List Host.Cell
  | [], a, v => if v = unlisted then [] else [(a, v)]
  | (k, b) :: r, a, v =>
    if a < k then (if v = unlisted then (k, b) :: r else (a, v) :: (k, b) :: r)
    else if k = a then (if v = unlisted then r else (a, v) :: r)
    else (k, b) :: memSet r a v

/-- The `n` bytes from `a` upwards. -/
def memRead (m : List Host.Cell) (a n : Nat) : List Byte := (List.range n).map fun i => memGet m (a + i)

/-- Store the bytes of `bs` from `a` upwards. -/
def memWrite : List Host.Cell → Nat → List Byte → List Host.Cell
  | m, _, [] => m
  | m, a, b :: bs => memWrite (memSet m a b) (a + 1) bs

/-- The canonical form of memory: addresses strictly rising from `lo`, no byte equal to what an unlisted address
reads as. -/
def memSorted : Nat → List Host.Cell → Bool
  | _, [] => true
  | lo, (k, b) :: r => decide (lo ≤ k) && decide (b ≠ unlisted) && memSorted (k + 1) r

/-- The canonical form of memory. -/
def Memory.wf (m : List Host.Cell) : Bool := memSorted 0 m

/-- Memory with every byte of [a, a + n) back to what an unlisted address reads as. -/
def memZero (m : List Host.Cell) (a n : Nat) : List Host.Cell := m.filter fun c => c.1 < a || a + n ≤ c.1

/-- The cells of [src, src + n), moved to [dst, dst + n). -/
def memSpan (m : List Host.Cell) (src dst n : Nat) : List Host.Cell :=
  (m.filter fun c => src ≤ c.1 && c.1 < src + n).map fun c => (c.1 - src + dst, c.2)

/-- Memory with the bytes of [src, src + n) copied to [dst, dst + n). -/
def memCopy (m : List Host.Cell) (src dst n : Nat) : List Host.Cell :=
  let clear := memZero m dst n
  (clear.filter fun c => c.1 < dst) ++ memSpan m src dst n ++ (clear.filter fun c => dst ≤ c.1)

/-- Little-endian: the number that bytes stand for, lowest address first (R5). -/
def leNat : List Byte → Nat
  | [] => 0
  | b :: r => b.toNat + 256 * leNat r

/-- The `n` bytes of a number, lowest address first (R5). -/
def leBytes : Nat → Nat → List Byte
  | 0, _ => []
  | n + 1, v => BitVec.ofNat 8 v :: leBytes n (v / 256)

/-! ### Global addresses -/

/-- The address of byte `pa` of compute die `d` (R221). -/
def gDie (d pa : Nat) : Nat := d * 2 ^ 48 + pa
/-- The address of host byte VA[52:0] (R238). -/
def gHost (va : Nat) : Nat := 2 ^ 56 + va
/-- The address of byte `off` of the tile memory of physical tile `P` (R101). -/
def gTile (P off : Nat) : Nat := 2 ^ 57 + P * 2 ^ 19 + off
/-- The address of byte `off` of the accumulator quarter of physical tile `P` (R106). -/
def gAcc (P off : Nat) : Nat := 2 ^ 58 + P * 2 ^ 16 + off
/-- The address of byte `off` of the plane at position `pos` of quad `g` (R304). -/
def gPlane (g pos off : Nat) : Nat := 2 ^ 59 + (4 * g + pos) * 2 ^ 18 + off

/-- The 64-byte line of a global address. -/
def lineOf (g : Nat) : Nat := g / 64

/-- A line carries a poison mark (R250). -/
def State.poisoned (s : State) (line : Nat) : Bool := s.poison.contains line

/-- Some byte of [g, g + n) lies in a poisoned line. -/
def State.poisonIn (s : State) (g n : Nat) : Bool :=
  n != 0 && s.poison.any fun l => lineOf g ≤ l && l ≤ lineOf (g + n - 1)

/-- The compute dies with no copy of a line in their remote-line caches (R224). -/
def dropCopies (dies : KMap Die) (home : Nat) : KMap Die :=
  if dies.any fun p => p.2.rlc.any fun l => l.home == home then
    dies.map fun p => (p.1, { p.2 with rlc := p.2.rlc.filter fun l => l.home != home })
  else dies

/-- A line gets a poison mark. No remote-line cache holds it any more (R224). -/
def State.mark (s : State) (line : Nat) : State :=
  if s.poisoned line then s else { s with poison := line :: s.poison, dies := dropCopies s.dies line }

/-- A line's mark is cleared. -/
def State.unmark (s : State) (line : Nat) : State := { s with poison := s.poison.filter fun l => l != line }

/-- The bytes at a global address. -/
def State.bytes (s : State) (g n : Nat) : List Byte := memRead s.mem g n

/-- The little-endian number at a global address. -/
def State.num (s : State) (g n : Nat) : Nat := leNat (s.bytes g n)

/-- The releases of the locations that [g, g + n) does not touch: a write of another kind ends the release sequence of its
location (R379). -/
def relsOutside (rels : List (Nat × List Rel)) (g n : Nat) : List (Nat × List Rel) :=
  rels.filter fun x => 8 * x.1 + 8 ≤ g || g + n ≤ 8 * x.1

/-- Store bytes at a global address. -/
def State.putBytes (s : State) (g : Nat) (bs : List Byte) : State :=
  { s with mem := memWrite s.mem g bs, rels := relsOutside s.rels g bs.length }

/-! ### Parts of the device -/

/-- Tile P. -/
def State.tile (s : State) (P : TileId) : Tile := kget Tile.reset s.tiles P.toNat
/-- Tile P becomes `t`. -/
def State.setTile (s : State) (P : TileId) (t : Tile) : State := { s with tiles := kset s.tiles P.toNat t }
/-- Tile P changes by `f`. -/
def State.modTile (s : State) (P : TileId) (f : Tile → Tile) : State := s.setTile P (f (s.tile P))
/-- The core of tile P. -/
def State.core (s : State) (P : TileId) : Core := (s.tile P).core
/-- The core of tile P changes by `f`. -/
def State.modCore (s : State) (P : TileId) (f : Core → Core) : State :=
  s.modTile P fun t => { t with core := f t.core }
/-- Compute die d. -/
def State.die (s : State) (d : Nat) : Die := kget Die.reset s.dies d
/-- Compute die d becomes `x`. -/
def State.setDie (s : State) (d : Nat) (x : Die) : State := { s with dies := kset s.dies d x }
/-- Compute die d changes by `f`. -/
def State.modDie (s : State) (d : Nat) (f : Die → Die) : State := s.setDie d (f (s.die d))
/-- Quad g. -/
def State.quad (s : State) (g : Nat) : Quad := kget Quad.reset s.quads g
/-- Quad g changes by `f`. -/
def State.modQuad (s : State) (g : Nat) (f : Quad → Quad) : State := { s with quads := kset s.quads g (f (s.quad g)) }
/-- Cluster c. -/
def State.cluster (s : State) (c : Nat) : Cluster := kget Cluster.reset s.clusters c
/-- Cluster c changes by `f`. -/
def State.modCluster (s : State) (c : Nat) (f : Cluster → Cluster) : State :=
  { s with clusters := kset s.clusters c (f (s.cluster c)) }
/-- Task t, if it exists. -/
def State.task? (s : State) (t : Nat) : Option Task := kfind s.tasks t
/-- Task t becomes `x`. -/
def State.setTask (s : State) (t : Nat) (x : Task) : State := { s with tasks := kset s.tasks t x }
/-- Task t changes by `f`. -/
def State.modTask (s : State) (t : Nat) (f : Task → Task) : State :=
  match s.task? t with
  | some x => s.setTask t (f x)
  | none => s
/-- The task of tile P. -/
def State.taskOf (s : State) (P : TileId) : Option Task :=
  match (s.tile P).task with
  | some t => s.task? t
  | none => none
/-- The task of tile P changes by `f`. -/
def State.modTaskOf (s : State) (P : TileId) (f : Task → Task) : State :=
  match (s.tile P).task with
  | some t => s.modTask t f
  | none => s

/-- The die of tile P (R83). -/
def dieOf (P : TileId) : Nat := P.toNat / 256
/-- The cluster of tile P, numbered over the package. -/
def clusterOf (P : TileId) : Nat := P.toNat / 16
/-- The quad of tile P, numbered over the package. -/
def quadOf (P : TileId) : Nat := P.toNat / 4
/-- The position of tile P in its quad. -/
def posOf (P : TileId) : BitVec 2 := P.extractLsb' 0 2

/-- The index of an engine in a tile, in the order ld, st, gr, mx, rt. -/
def engIx (e : Eng) : Fin 5 :=
  match e with
  | .ld => 0 | .st => 1 | .gr => 2 | .mx => 3 | .rt => 4
/-- SRC of an engine (R410). -/
def engSrc (e : Eng) : BitVec 3 := e.code + 1
/-- The engine of a SRC, if it names one. -/
def srcEng (x : BitVec 3) : Option Eng :=
  match x with
  | 1#3 => some .ld | 2#3 => some .st | 3#3 => some .gr | 4#3 => some .mx | 5#3 => some .rt
  | _ => none
/-- Engine e of tile P. -/
def State.engine (s : State) (P : TileId) (e : Eng) : Engine := (s.tile P).eng[engIx e]
/-- Engine e of tile P changes by `f`. -/
def State.modEngine (s : State) (P : TileId) (e : Eng) (f : Engine → Engine) : State :=
  s.modTile P fun t => { t with eng := t.eng.set (engIx e) (f t.eng[engIx e]) }

/-! ### Registers -/

/-- s[r]: s0 reads as zero (R94). -/
def Core.rd (c : Core) (r : BitVec 5) : Word := if r = 0 then 0 else c.regs[r.toNat]'r.isLt
/-- s[r] := v: a write to s0 is discarded (R94). What made an earlier value of the register late holds its readers no more (R151). -/
def Core.wr (c : Core) (r : BitVec 5) (v : Word) : Core :=
  if r = 0 then c else { c with regs := c.regs.set r.toNat v r.isLt, ready := kdel c.ready r.toNat }
/-- s[r] of the current core. -/
def State.reg (s : State) (r : BitVec 5) : Word := (s.core s.cur).rd r
/-- PC of the current core. -/
def State.pc (s : State) : Word := (s.core s.cur).pc
/-- A register of the current core is written. -/
def State.setReg (s : State) (r : BitVec 5) (v : Word) : State := s.modCore s.cur fun c => c.wr r v

/-! ### Time -/

/-- The denominator of the fraction of TIME: one tick is 10/13 ns at PTPFREQ 0 (R3, R70). -/
def timeDen : Nat := 13 * 2 ^ 16 * 1000000000
/-- PTPFREQ as it acts, in units of 2^-16 ppb: clamped to 32,768 ppb either way (R70). -/
def ptpRate (f : BitVec 32) : Int := max (-(32768 * 65536)) (min (32768 * 65536) f.toInt)
/-- What one tick adds to TIME, over `timeDen` (R70). -/
def timeStep (f : BitVec 32) : Nat := (10 * ((2 ^ 16 * 1000000000 : Int) + ptpRate f)).toNat
/-- `n` ticks pass; TIME as it read one tick ago is kept (R281). -/
def State.elapse (s : State) (n : Nat) : State :=
  let x := s.timeFrac + n * timeStep s.io.ptpfreq
  let y := s.timeFrac + (n - 1) * timeStep s.io.ptpfreq
  { s with
    tick := s.tick + n, timeNs := s.timeNs + BitVec.ofNat 64 (x / timeDen), timeFrac := x % timeDen,
    timePrev := if n = 0 then s.timePrev else s.timeNs + BitVec.ofNat 64 (y / timeDen) }

/-- The ticks before tick `x` that are not held at a level: the first ticks of every 16 are held (R467).
(DESIGN CHOICE, log entry 21: which ticks of every 16.) -/
def unheld (level x : Nat) : Nat := x / 16 * (16 - level) + (x % 16 - level)

/-- The unheld ticks before tick `x` of a die that has made these steps, the last one first: each with its tick and the level from then on. -/
def unheldTo : List (Nat × BitVec 3) → Nat → Nat
  | [], x => x
  | (t, l) :: r, x => if x ≤ t then unheldTo r x else unheldTo r t + (unheld l.toNat x - unheld l.toNat t)

/-- The unheld ticks of die d from tick `a` up to tick `b` (R467). -/
def State.between (s : State) (d a b : Nat) : Nat := unheldTo (s.die d).steps b - unheldTo (s.die d).steps a

/-- A bound of `n` ticks has passed on die d since tick `since`: it counts unheld ticks (R467). -/
def State.passed (s : State) (d since n : Nat) : Bool := decide (n ≤ s.between d since s.tick)

/-- The agents of die d are held in this tick (R467). -/
def State.heldDie (s : State) (d : Nat) : Bool := decide (s.tick % 16 < (s.die d).throttle.toNat)

/-- The ticks in which `n` unheld ones pass at a throttle level: l of every 16 ticks are held (R467). -/
def throttledAt (l n : Nat) : Nat := (16 * n + (15 - l)) / (16 - l)

/-- The ticks in which `n` unheld ones pass on die d. -/
def State.throttled (s : State) (d n : Nat) : Nat := throttledAt (s.die d).throttle.toNat n

/-- Core P is occupied for `n` unheld ticks more: it issues nothing before they have passed (R151).
(DESIGN CHOICE, log entry 5: which times are kept.) -/
def State.occupy (s : State) (P : TileId) (n : Nat) : State :=
  let k := s.throttled (dieOf P) n
  s.modCore P fun c => { c with busy := max c.busy s.tick + k }

/-! ### Completing an instruction -/

/-- The instruction at PC completes: PC becomes `next` and the core goes on. -/
def Core.goto (c : Core) (next : Word) : Core := { c with pc := next, run := .running, barw := false, instrs := c.instrs + 1 }

/-- Core P writes `v` to `rd` and goes on at PC + 4. -/
def State.completeAt (s : State) (P : TileId) (rd : BitVec 5) (v : Word) : State :=
  s.modCore P fun c => (c.wr rd v).goto (c.pc + 4)

/-- The current core writes `v` to `rd` and goes on at PC + 4, `n` ticks later (R150, R151). -/
def State.finish (s : State) (rd : BitVec 5) (v : Word) (n : Nat) : State := (s.completeAt s.cur rd v).occupy s.cur n

/-- The instruction writes `v` to `rd` and occupies the core for `n` ticks. -/
def writeRd (s : State) (rd : BitVec 5) (v : Word) (n : Nat) : Res := .next (s.finish rd v n)

/-- The instruction writes no register and occupies the core for `n` ticks. -/
def stepOver (s : State) (n : Nat) : Res := .next ((s.modCore s.cur fun c => c.goto (c.pc + 4)).occupy s.cur n)

/-- The instruction sets NextPC and occupies the core for `n` ticks. -/
def jumpTo (s : State) (t : Word) (n : Nat) : Res := .next ((s.modCore s.cur fun c => c.goto t).occupy s.cur n)

/-- The instruction at PC of the current core waits (R182). -/
def waitFor (s : State) (i : Instr) (k : WaitKind) : Res :=
  .next (s.modCore s.cur fun c => { c with run := .waiting i k s.tick })

/-! ### Exceptions -/

/-- The code of a cause (R408). -/
def Cause.code : Cause → Byte
  | .none => 0x00 | .illop => 0x01 | .align => 0x02 | .badaddr => 0x03 | .prot => 0x04 | .poison => 0x05
  | .cbformat => 0x06 | .patchoor => 0x07 | .slip => 0x08 | .hazard => 0x09 | .crystal => 0x0A | .semgen => 0x0B
  | .waitto => 0x0C | .trap => 0x10 | .brk => 0x11 | .svc => 0x12

/-- A source of tile P raises a cause for the supervisor (R100, R409): the task's trap registers keep their values, and
the cause, its value and its place wait for the event arbiter. -/
def State.raise (s : State) (P : TileId) (src : BitVec 3) (c : Cause) (val loc : Word) : State :=
  s.modTile P fun t =>
    { t with events := t.events ++
        [{ src, cause := c, val, loc, since := s.tick, recorded := false, ptile := P, seqno := 0, action := 0, reply := none }] }

/-- Core P raises a cause at its PC and issues nothing further (R409). -/
def State.raiseCore (s : State) (P : TileId) (c : Cause) (val : Word) : State :=
  (s.raise P 0 c val (s.core P).pc).modCore P fun k => { k with run := .event, flight := none }

/-- Engine e of tile P raises a cause at its current CB (R409). -/
def State.raiseEng (s : State) (P : TileId) (e : Eng) (c : Cause) (val loc : Word) : State :=
  (s.raise P (engSrc e) c val loc).modEngine P e fun x => { x with block := .event }

/-- Trap(cause, value) of the current core for a cause that the supervisor handles (R150). -/
def trapTo (s : State) (c : Cause) (val : Word) : Res := .next (s.raiseCore s.cur c val)

/-- TRAP and BRK delivered to the task (R100, R214): TRAPPC takes PC, TRAPCAUSE the cause, TRAPVAL the value, and the
core goes on at TRAPVEC. -/
def Core.takeTrap (c : Core) (cause : Cause) (val : Word) : Core :=
  { c with trappc := c.pc, trapcause := cause.code, trapval := val, pc := c.trapvec, run := .running,
           instrs := c.instrs + 1 }

/-- TRET (R216): NextPC is TRAPPC, and TRAPCAUSE and TRAPVAL become 0. -/
def Core.trapReturn (c : Core) : Core :=
  { c with pc := c.trappc, trapcause := 0, trapval := 0, run := .running, instrs := c.instrs + 1 }

/-- TRAP and BRK: to TRAPVEC, or to the supervisor when TRAPVEC is 0 (R100, R214). -/
def softTrap (s : State) (cause : Cause) (val : Word) : Res :=
  if (s.core s.cur).trapvec = 0 then trapTo s cause val
  else .next ((s.modCore s.cur fun c => c.takeTrap cause val).occupy s.cur 6)

/-- The task of the current tile runs in K mode (R108). A tile without a task counts as U mode. -/
def State.kmode (s : State) : Bool :=
  match s.taskOf s.cur with
  | some k => k.image.kmode
  | none => false

/-- An operation that the manual does not let happen in this state. (DESIGN CHOICE, log entry 3: such an operation is refused.) -/
def notNow (what : String) : Res := .refused (.notEnabled what)

end Sys2Proof.Machine
end

