-- ==== Sys2Proof/Machine/Flags.lean ====
section
/-! DEFINITION. The flags and the packed fields of the system registers (R95 to R99), and the words that report state: RESF, SEMOV
(R98, R103), the residency result of RESQ (R207) and CHSTAT's result (R202). -/
namespace Sys2Proof.Machine

/-- RESF.CORE is set on tile P (R98). -/
def State.setResfCore (s : State) (P : TileId) : State := s.modCore P fun c => { c with resf := c.resf ||| 1 }
/-- RESF.ENG is set on tile P (R98). -/
def State.setResfEng (s : State) (P : TileId) : State := s.modCore P fun c => { c with resf := c.resf ||| 2 }
/-- SEMOV bit n (R103). -/
def semovBit (n : BitVec 6) : Word := BitVec.ofNat 64 (2 ^ n.toNat)
/-- WTO.TICKS (R97). -/
def Core.wtoTicks (c : Core) : Nat := (c.wto.extractLsb' 0 32).toNat
/-- WTO.TRAPW (R97). -/
def Core.wtoTraps (c : Core) : Bool := c.wto.getLsbD 63
/-- The bits of WTO that a write keeps: its reserved field reads as zero (R95, R97). -/
def wtoOf (v : Word) : Word := v &&& 0x80000000FFFFFFFF
/-- The value that a write of LEASEQ stores (R95). -/
def leaseqOf (v : Word) : BitVec 7 :=
  let x := v.extractLsb' 0 7
  if x.toNat = 0 ∨ 64 < x.toNat then 16 else x
/-- RND of an FMODE value is reserved (R96). -/
def rndReserved (v : Word) : Bool := v.extractLsb' 0 3 == 6#3 || v.extractLsb' 0 3 == 7#3
/-- CMODE (R95, R108). -/
def cmodeOf (k : Bool) : Word := if k then 1 else 0
/-- The packing of a CHSTAT result (R202). -/
def chstatWord (oldest : BitVec 32) (block : Byte) (qn : Nat) : Word :=
  oldest ++ (0 : BitVec 8) ++ block ++ (0 : BitVec 11) ++ BitVec.ofNat 5 qn

end Sys2Proof.Machine
end

