-- ==== Sys2Proof/Machine/Crypto.lean ====
section
/-! DEFINITION. Line encryption and integrity of a compute die (R242 to R249, R479): AES-256 and GMAC as the cited
standards give them, counter lines, line tags and the tag tree, and the CRC-64 of R478. -/
namespace Sys2Proof.Machine

/-! ### AES-256 (FIPS 197) -/

/-- Multiplication by x in GF(2^8) modulo x^8 + x^4 + x^3 + x + 1. -/
def xtime (b : Byte) : Byte := (b <<< 1) ^^^ (if b.getLsbD 7 then 0x1B else 0)

/-- The product in GF(2^8), over the low `n` bits of the second factor. -/
def gmul : Nat → Byte → Byte → Byte
  | 0, _, _ => 0
  | n + 1, a, b => (if b.getLsbD 0 then a else 0) ^^^ gmul n (xtime a) (b >>> 1)

/-- a^(2^n - 2) by squaring, which is the inverse for n = 8. -/
def ginvAux : Nat → Byte → Byte → Byte
  | 0, _, acc => acc
  | n + 1, a, acc => let q := gmul 8 a a; ginvAux n q (gmul 8 acc q)

/-- The S-box: the inverse in GF(2^8), then the affine map. -/
def sbox (b : Byte) : Byte :=
  let i := ginvAux 7 b 1
  i ^^^ i.rotateLeft 1 ^^^ i.rotateLeft 2 ^^^ i.rotateLeft 3 ^^^ i.rotateLeft 4 ^^^ 0x63

/-- Bytewise exclusive or. -/
def xorBytes : List Byte → List Byte → List Byte := List.zipWith (· ^^^ ·)

/-- A 32-bit word of the key schedule as four bytes. -/
abbrev KeyWord := List Byte

/-- The key schedule: words are appended to `ws`, newest first, until `n` more are there. `i` is the next index. -/
def keyExpand : Nat → Nat → Byte → List KeyWord → List KeyWord
  | 0, _, _, ws => ws
  | n + 1, i, rcon, ws =>
    let prev := ws.getD 0 []
    let back := ws.getD 7 []
    let t :=
      if i % 8 = 0 then
        match (prev.rotateLeft 1).map sbox with
        | b :: r => (b ^^^ rcon) :: r
        | [] => []
      else if i % 8 = 4 then prev.map sbox
      else prev
    keyExpand n (i + 1) (if i % 8 = 0 then xtime rcon else rcon) (xorBytes back t :: ws)

/-- `n` groups of `k` elements. -/
def chunks {α : Type} (k : Nat) : Nat → List α → List (List α)
  | 0, _ => []
  | n + 1, l => l.take k :: chunks k n (l.drop k)

/-- A number in `n` bytes, highest first. -/
def beBytes (n v : Nat) : List Byte := (leBytes n v).reverse
/-- The number of bytes, highest first. -/
def beNat (l : List Byte) : Nat := leNat l.reverse

/-- The fifteen round keys of a 256-bit key. -/
def roundKeys (key : BitVec 256) : List (List Byte) :=
  let w := (keyExpand 52 8 1 (chunks 4 8 (beBytes 32 key.toNat)).reverse).reverse
  chunks 16 15 w.flatten

/-- ShiftRows on a block in column order. -/
def shiftRows (b : List Byte) : List Byte := (List.range 16).map fun i => b.getD ((i + 4 * (i % 4)) % 16) 0

/-- MixColumns on one column. -/
def mixColumn : List Byte → List Byte
  | [a, b, c, d] =>
    [xtime a ^^^ (xtime b ^^^ b) ^^^ c ^^^ d, a ^^^ xtime b ^^^ (xtime c ^^^ c) ^^^ d,
     a ^^^ b ^^^ xtime c ^^^ (xtime d ^^^ d), (xtime a ^^^ a) ^^^ b ^^^ c ^^^ xtime d]
  | l => l

/-- The rounds after the first key addition. -/
def aesRounds : List (List Byte) → List Byte → List Byte
  | [], b => b
  | [k], b => xorBytes (shiftRows (b.map sbox)) k
  | k :: ks, b => aesRounds ks (xorBytes ((chunks 4 4 (shiftRows (b.map sbox))).map mixColumn).flatten k)

/-- AES-256 of one 16-byte block. -/
def aes (key : BitVec 256) (block : List Byte) : List Byte :=
  match roundKeys key with
  | k0 :: ks => aesRounds ks (xorBytes block k0)
  | [] => block

/-! ### GMAC (SP 800-38D) -/

/-- The product in GF(2^128) with the bit order of GCM: `n` bits of x from the top, v the running multiple of y. -/
def ghashMul : Nat → BitVec 128 → BitVec 128 → BitVec 128 → BitVec 128
  | 0, _, _, z => z
  | n + 1, x, v, z =>
    ghashMul n (x <<< 1) ((v >>> 1) ^^^ (if v.getLsbD 0 then 0xE1000000000000000000000000000000 else 0))
      (if x.getLsbD 127 then z ^^^ v else z)

/-- GHASH over 16-byte blocks. -/
def ghash (h : BitVec 128) (blocks : List (List Byte)) : BitVec 128 :=
  blocks.foldl (fun y b => ghashMul 128 (y ^^^ BitVec.ofNat 128 (beNat b)) h 0) 0

/-- GMAC of additional data, a multiple of 16 bytes, under a 128-bit initialisation vector. -/
def gmac (key : BitVec 256) (iv : BitVec 128) (ad : List Byte) : List Byte :=
  let h := BitVec.ofNat 128 (beNat (aes key (List.replicate 16 0)))
  let j0 := ghash h [beBytes 16 iv.toNat, beBytes 16 128]
  let y := ghash h (chunks 16 (ad.length / 16) ad ++ [beBytes 8 (8 * ad.length) ++ beBytes 8 0])
  xorBytes (aes key (beBytes 16 j0.toNat)) (beBytes 16 y.toNat)

/-- The leftmost 56 bits of a GMAC, first byte in the low bits (R245, R246). -/
def tag56 (key : BitVec 256) (iv : BitVec 128) (ad : List Byte) : BitVec 56 :=
  BitVec.ofNat 56 (leNat ((gmac key iv ad).take 7))

/-! ### Lines and counters (R243 to R249) -/

/-- The identity of data line i of a crypto page (R244). -/
def lineId (major : Word) (minor : BitVec 7) (d pa : Nat) (u : Byte) : BitVec 128 :=
  let line : BitVec 48 := BitVec.ofNat 48 ((d % 8) * 2 ^ 31 + (pa / 64) % 2 ^ 31)
  major ++ minor.zeroExtend 8 ++ line ++ u

/-- Minor counter i of a counter line. -/
def CtrLine.minor (c : CtrLine) (i : Nat) : BitVec 7 := kget 0 c.minors i
/-- The counter line of a page after reset. -/
def CtrLine.zero : CtrLine := { major := 0, minors := [] }
/-- The counter line of a crypto page, numbered PA / 4,096 (R243). -/
def Die.ctr (x : Die) (page : Nat) : CtrLine := kget CtrLine.zero x.ctrs page
/-- A data line that has not been written under a key since its counters were zeroed (R479). -/
def CtrLine.fresh (c : CtrLine) (i : Nat) : Bool := c.major == 0 && c.minor i == 0
/-- The 64 bytes of a counter line (R243). -/
def CtrLine.bytes (c : CtrLine) : List Byte :=
  leBytes 8 c.major.toNat ++
    leBytes 56 ((List.range 64).foldl (fun acc i => acc + (c.minor i).toNat * 2 ^ (7 * i)) 0)

/-- Counter mode over one line (R244). -/
def cryptLine (key : BitVec 256) (c : CtrLine) (d pa : Nat) (data : List Byte) : List Byte :=
  let m := c.minor (pa / 64 % 64)
  let ks := (List.range 4).map fun u => aes key (beBytes 16 (lineId c.major m d pa (BitVec.ofNat 8 u)).toNat)
  xorBytes data ks.flatten

/-- The tag of a ciphertext line (R245). -/
def dataTag (key : BitVec 256) (c : CtrLine) (d pa : Nat) (cipher : List Byte) : BitVec 56 :=
  let iv := lineId c.major (c.minor (pa / 64 % 64)) d pa 0x80
  tag56 key iv (cipher ++ beBytes 16 iv.toNat)

/-- [pa, pa + n) lies in the HBM of a compute die (R221). -/
def inHbm (pa n : Nat) : Bool := decide (pa + n ≤ 0x1800000000)
/-- The HBM controller of a physical address (R221). -/
def ctrlOf (pa : Nat) : Nat := pa / 4096 % 2
/-- The page index of a physical address within its controller (R246). -/
def pageIx (pa : Nat) : Nat := pa / 8192
/-- The key of a metadata line in `treeTags`: level, controller and index. -/
def treeKey (lvl c n : Nat) : Nat := (lvl * 2 + c) * 2 ^ 40 + n
/-- The initialisation vector of a metadata line (R246). -/
def metaIv (d lvl c n : Nat) : BitVec 128 :=
  BitVec.ofNat 56 (c * 8 + d % 8) ++ BitVec.ofNat 8 lvl ++ BitVec.ofNat 64 n

/-- The tag of a metadata line (R246). -/
def metaTag (x : Die) (d lvl c n : Nat) (bytes : List Byte) : BitVec 56 :=
  tag56 (Config.metadataKey d x.metaGen) (metaIv d lvl c n) bytes

/-- The 64 bytes of a node from the tags in its slots (R246). -/
def nodeBytes (tags : List (BitVec 56)) : List Byte := (tags.map fun t => leBytes 7 t.toNat).flatten ++ List.replicate 8 0

/-- The tag of line n of a level in the tree over counter lines that are all zero, as reset builds it (R470). -/
def zeroTag (x : Die) (d c : Nat) : Nat → Nat → BitVec 56
  | 0, n => metaTag x d 0 c n (List.replicate 64 0)
  | l + 1, n => metaTag x d (l + 1) c n (nodeBytes ((List.range 8).map fun j => zeroTag x d c l (8 * n + j)))

/-- The stored tag of line n of a level. -/
def storedTag (x : Die) (d lvl c n : Nat) : BitVec 56 :=
  match kfind x.treeTags (treeKey lvl c n) with
  | some t => t
  | none => zeroTag x d c lvl n

/-- The tag that line n of a node level has now, from the stored tags of its slots. -/
def nodeTag (x : Die) (d lvl c n : Nat) : BitVec 56 :=
  metaTag x d lvl c n (nodeBytes ((List.range 8).map fun j => storedTag x d (lvl - 1) c (8 * n + j)))

/-- The controller trusts a metadata line: it is in its cache of verified lines (R246). -/
def Die.trusts (x : Die) (lvl c n : Nat) : Bool := x.metaCache.contains (treeKey lvl c n)

/-- The verification of a page's counter line from a level upwards, `fuel` levels at most, up to a trusted line or the root
(R249): the level of a mismatch if there is one, and the lines that it verifies. -/
def verifyUp (x : Die) (d c m : Nat) : Nat → Nat → Option Nat × List Nat
  | 0, _ => (none, [])
  | fuel + 1, lvl =>
    let n := m / 8 ^ lvl
    let tag := if lvl = 0 then metaTag x d 0 c m (x.ctr (2 * m + c)).bytes else nodeTag x d lvl c n
    if x.trusts lvl c n then (none, [])
    else if tag != storedTag x d lvl c n then (some lvl, [])
    else
      let (e, l) := verifyUp x d c m fuel (lvl + 1)
      (e, treeKey lvl c n :: l)

/-- The level of the first line of a page's path, from a level upwards, that does not verify: every line that the controller does not hold
is verified against the slot above it before a write recomputes its tags (R247, R249). -/
def verifyPath (x : Die) (d c m : Nat) : Nat → Nat → Option Nat
  | 0, _ => none
  | fuel + 1, lvl =>
    let n := m / 8 ^ lvl
    let tag := if lvl = 0 then metaTag x d 0 c m (x.ctr (2 * m + c)).bytes else nodeTag x d lvl c n
    if x.trusts lvl c n then verifyPath x d c m fuel (lvl + 1)
    else if tag != storedTag x d lvl c n then some lvl
    else verifyPath x d c m fuel (lvl + 1)

/-- The level at which a write's verification of a page's counter line and nodes fails, if it does. -/
def verifyWrite (x : Die) (d pa : Nat) : Option Nat := verifyPath x d (ctrlOf pa) (pageIx pa) 4 0

/-- The level at which the verification of a page's counter line fails, if it does (R249). -/
def verifyCtr (x : Die) (d pa : Nat) : Option Nat := (verifyUp x d (ctrlOf pa) (pageIx pa) 4 0).1

/-- The lines of a controller's cache of 4,096 metadata lines with some more (R246); the oldest leave it. -/
def Die.cacheMeta (x : Die) (c : Nat) (l : List Nat) : Die :=
  let mine (k : Nat) : Bool := k / 2 ^ 40 % 2 == c
  { x with metaCache := (l ++ x.metaCache.filter fun k => mine k && !l.contains k).take 4096 ++
                        x.metaCache.filter fun k => !mine k }

/-- A page's counter line has been verified: its path is trusted from now on (R246). -/
def Die.trust (x : Die) (d pa : Nat) : Die :=
  match (verifyUp x d (ctrlOf pa) (pageIx pa) 4 0).2 with
  | [] => x
  | l => x.cacheMeta (ctrlOf pa) l

/-- An address lies beneath metadata line n of a level of a controller. -/
def beneathMeta (lvl c n pa : Nat) : Bool := inHbm pa 1 && c == ctrlOf pa && n == pageIx pa / 8 ^ lvl

/-- The line lies beneath a quarantined counter line or node: it is poisoned until the subtree is reinitialised (R249, R250). -/
def Die.quarantined (x : Die) (pa : Nat) : Bool := x.quarantine.any fun q => beneathMeta (q.1 % 4) (q.1 / 4) q.2 pa

/-- The counter line of a page changes, and the tags of its path are recomputed (R247); the controller holds the lines of the path. -/
def Die.setCtr (x : Die) (d pa : Nat) (line : CtrLine) : Die :=
  let c := ctrlOf pa
  let m := pageIx pa
  let put (y : Die) (lvl n : Nat) (t : BitVec 56) : Die := { y with treeTags := kset y.treeTags (treeKey lvl c n) t }
  let y := { x with ctrs := kset x.ctrs (pa / 4096) line }
  let y := put y 0 m (metaTag y d 0 c m line.bytes)
  let y := put y 1 (m / 8) (nodeTag y d 1 c (m / 8))
  let y := put y 2 (m / 64) (nodeTag y d 2 c (m / 64))
  let y := put y 3 (m / 512) (nodeTag y d 3 c (m / 512))
  y.cacheMeta c ((List.range 4).map fun lvl => treeKey lvl c (m / 8 ^ lvl))

/-- A count of a telemetry page goes up by one and saturates (R462). -/
def bump (w : Word) : Word := if w = BitVec.allOnes 64 then w else w + 1

/-- The dies with no copy of a line of die d that a predicate on its address holds for (R224). -/
def dropHomes (dies : KMap Die) (d : Nat) (f : Nat → Bool) : KMap Die :=
  let gone (l : RlcLine) : Bool := decide (gDie d 0 ≤ 64 * l.home ∧ 64 * l.home < gDie (d + 1) 0) && f (64 * l.home - gDie d 0)
  dies.map fun p => (p.1, { p.2 with rlc := p.2.rlc.filter fun l => !gone l })

/-- A mismatch at a counter line or node of level `lvl`: everything beneath is quarantined and reported, and no remote-line cache holds
a line of it (R224, R249, R412). -/
def State.quarantineAt (s : State) (d pa lvl : Nat) : State :=
  let s := { s with dies := dropHomes s.dies d (beneathMeta lvl (ctrlOf pa) (pageIx pa / 8 ^ lvl)) }
  s.modDie d fun x =>
    let report : EventRec :=
      { seqno := 0, cause := 0, src := 7, ptile := BitVec.ofNat 10 (256 * d), ctx := 0,
        val := BitVec.ofNat 64 (pa / 64 * 64), loc := BitVec.ofNat 64 lvl }
    { x with
      quarantine := (4 * ctrlOf pa + lvl, pageIx pa / 8 ^ lvl) :: x.quarantine,
      reports := x.reports ++ [(report, s.tick)],
      telemetry := { x.telemetry with quarantines := bump x.telemetry.quarantines } }

/-- A data line gets a poison mark after a tag mismatch (R249). -/
def State.tagMismatch (s : State) (d line : Nat) : State :=
  (s.mark line).modDie d fun x => { x with telemetry := { x.telemetry with tagMiss := bump x.telemetry.tagMiss } }

/-- The plaintext of the line at `pa` under a key, or none when it reads as poison (R249, R250). A line that has not been written
since its counters were zeroed reads as zeros whatever is stored (R479). The second
component of the answer says that the mark was found on the line, and not set by this read (R440). -/
def State.readCrypt (s : State) (d pa : Nat) (key : BitVec 256) : State × Option (List Byte) × Bool :=
  let pa := pa / 64 * 64
  let g := gDie d pa
  let x := s.die d
  if x.quarantined pa then (s, none, true)
  else match verifyCtr x d pa with
    | some lvl => (s.quarantineAt d pa lvl, none, false)
    | none =>
      let s := if (verifyUp x d (ctrlOf pa) (pageIx pa) 4 0).2.isEmpty then s else s.modDie d fun y => y.trust d pa
      let c := x.ctr (pa / 4096)
      if c.fresh (pa / 64 % 64) then (s, some (List.replicate 64 0), false)
      else if s.poisoned (lineOf g) then (s, none, true)
      else
        let cipher := s.bytes g 64
        if dataTag key c d pa cipher = kget 0 x.lineTags (pa / 64) then (s, some (cryptLine key c d pa cipher), false)
        else (s.tagMismatch d (lineOf g), none, false)

/-- The ciphertext and tag of a plaintext line take their place under the present counters. -/
def State.storeCrypt (s : State) (d pa : Nat) (key : BitVec 256) (plain : List Byte) : State :=
  let c := (s.die d).ctr (pa / 4096)
  let cipher := cryptLine key c d pa plain
  (s.putBytes (gDie d pa) cipher).modDie d fun x =>
    { x with lineTags := kset x.lineTags (pa / 64) (dataTag key c d pa cipher) }

/-- What a line of a page held before a re-encryption: its plaintext, or none when it fails its tag. -/
def oldLine (s : State) (c : CtrLine) (d page i : Nat) (key : BitVec 256) : Option (List Byte) :=
  let pa := page * 4096 + 64 * i
  if c.fresh i then some (List.replicate 64 0)
  else if s.poisoned (lineOf (gDie d pa)) then none
  else
    let cipher := s.bytes (gDie d pa) 64
    if dataTag key c d pa cipher = kget 0 (s.die d).lineTags (pa / 64) then some (cryptLine key c d pa cipher) else none

/-- The lines of a page take their place under its new counters; a line that failed its tag stays poisoned (R248). -/
def putLines (d page : Nat) (key : BitVec 256) : List (Nat × Option (List Byte)) → State → State
  | [], s => s
  | (i, some p) :: r, s => putLines d page key r (s.storeCrypt d (page * 4096 + 64 * i) key p)
  | (i, none) :: r, s =>
    putLines d page key r ((s.storeCrypt d (page * 4096 + 64 * i) key (List.replicate 64 0)).mark
      (lineOf (gDie d (page * 4096 + 64 * i))))

/-- ReencryptPage (R248): MAJOR goes up by one, every minor becomes 0, and all 64 lines are re-encrypted. A line that fails its tag is
marked and counted (R249, R462). -/
def State.reencrypt (s : State) (d page : Nat) (key : BitVec 256) : State :=
  let c := (s.die d).ctr page
  let old := (List.range 64).map fun i => (i, oldLine s c d page i key)
  let line (i : Nat) : Nat := lineOf (gDie d (page * 4096 + 64 * i))
  let s := (old.filter fun x => x.2.isNone && !s.poisoned (line x.1)).foldl (fun (s : State) x => s.tagMismatch d (line x.1)) s
  let s := s.modDie d fun x => x.setCtr d (page * 4096) { major := c.major + 1, minors := [] }
  putLines d page key old s

/-- What a write to an encrypted line comes to: it is applied, it parks because MAJOR cannot grow (R248), or the
merge meets a line that reads as poison. -/
inductive CryptWrite where
  | applied | parks | poison
deriving DecidableEq, Repr

/-- How many bytes the pieces of a write to one line hold. -/
def segBytes (segs : List (Nat × List Byte)) : Nat := segs.foldl (fun (n : Nat) x => n + x.2.length) 0

/-- The bytes of a line with the pieces of a write in their places. -/
def overlay (segs : List (Nat × List Byte)) (line : List Byte) : List Byte :=
  segs.foldl (fun l x => l.take x.1 ++ x.2 ++ l.drop (x.1 + x.2.length)) line

/-- A write of pieces of the line at `base`, which do not overlap, under a key: one access (R247, R279). A write of a whole line clears
its mark (R250); a partial write to a poisoned or quarantined line completes and changes nothing (R174, R249). -/
def State.writeCryptSegs (s : State) (d base : Nat) (key : BitVec 256) (segs : List (Nat × List Byte)) : State × CryptWrite :=
  let line := lineOf (gDie d base)
  let whole := segBytes segs == 64
  let x := s.die d
  if x.quarantined base then (s, .applied)
  else match verifyWrite x d base with
    | some lvl => (s.quarantineAt d base lvl, .applied)
    | none =>
      let page := base / 4096
      let i := base / 64 % 64
      let c := x.ctr page
      if c.minor i = 127 ∧ c.major = BitVec.allOnes 64 then (s, .parks)
      else
        let s := if c.minor i = 127 then s.reencrypt d page key else s
        let (s, old, _) := if whole then (s, some (List.replicate 64 0), false) else s.readCrypt d base key
        match old with
        | none => (s, .applied)
        | some o =>
          let merged := overlay segs o
          let c := (s.die d).ctr page
          let s := s.modDie d fun y => y.setCtr d base { c with minors := kset c.minors i (c.minor i + 1) }
          let s := s.storeCrypt d base key merged
          ((if whole then s.unmark line else s), .applied)

/-- A write of `bs` at `pa` within one line under a key. -/
def State.writeCrypt (s : State) (d pa : Nat) (key : BitVec 256) (bs : List Byte) : State × CryptWrite :=
  s.writeCryptSegs d (pa / 64 * 64) key [(pa % 64, bs)]

/-! ### Quarantine lifted, and alterations (R249) -/

/-- The pages beneath metadata line n of a level of a controller, by PA / 4,096. -/
def pagesBeneath (lvl c n : Nat) : List Nat := (List.range (8 ^ lvl)).map fun i => 2 * (n * 8 ^ lvl + i) + c

/-- A page's lines are zero and unmarked, with no copy left, and its counter line is zero (R249, R479). -/
def State.clearPage (s : State) (d page : Nat) : State :=
  let g := gDie d (page * 4096)
  let within (line : Nat) : Bool := decide (lineOf g ≤ line ∧ line < lineOf g + 64)
  let s := { s with mem := memZero s.mem g 4096, rels := relsOutside s.rels g 4096, poison := s.poison.filter fun l => !within l,
                    dies := s.dies.map fun (p : Nat × Die) => (p.1, { p.2 with rlc := p.2.rlc.filter fun l => !within l.home }) }
  s.modDie d fun x =>
    { x with ctrs := kdel x.ctrs page, lineTags := x.lineTags.filter fun t => !(t.1 / 64 == page) }

/-- Prapisen reinitialises the subtree beneath metadata line n of a level: its lines and counters are zero, its tags and those above
it are right again, and its quarantine is lifted (R249). -/
def State.reinit (s : State) (d lvl c n : Nat) : State :=
  let s := (pagesBeneath lvl c n).foldl (fun (s : State) page => s.clearPage d page) s
  let beneath (k : Nat) : Bool :=
    let l := k / 2 ^ 41
    k / 2 ^ 40 % 2 == c && decide (l ≤ lvl) && k % 2 ^ 40 / 8 ^ (lvl - l) == n
  s.modDie d fun x =>
    let x := { x with treeTags := x.treeTags.filter (fun t => !beneath t.1), metaCache := x.metaCache.filter fun k => !beneath k,
                      quarantine := x.quarantine.filter fun q =>
                        !(q.1 / 4 == c && decide (q.1 % 4 ≤ lvl) && q.2 / 8 ^ (lvl - q.1 % 4) == n) }
    (List.range 4).foldl (fun (x : Die) l =>
      if l ≤ lvl then x
      else { x with treeTags := kset x.treeTags (treeKey l c (n / 8 ^ (l - lvl))) (nodeTag x d l c (n / 8 ^ (l - lvl))) }) x

/-- A counter line or a node's slot in HBM is altered from outside; a line that the controller holds is not read again (R246).
`lvl` is the level of the line whose tag the slot holds. (DESIGN CHOICE, log entry 75.) -/
def State.alterTag (s : State) (d lvl c n : Nat) (t : BitVec 56) : State :=
  if 3 ≤ lvl ∨ (s.die d).trusts (lvl + 1) c (n / 8) then s
  else s.modDie d fun x => { x with treeTags := kset x.treeTags (treeKey lvl c n) t }

/-- A page's counter line in HBM is altered from outside. -/
def State.alterCounter (s : State) (d page : Nat) (line : CtrLine) : State :=
  if (s.die d).trusts 0 (page % 2) (page / 2) then s
  else s.modDie d fun x => { x with ctrs := kset x.ctrs page line }

/-! ### CRC-64 (R478) -/

/-- One step of CRC-64 for each of `n` bits, most significant bit first. -/
def crcBits : Nat → Word → Word
  | 0, c => c
  | n + 1, c => crcBits n ((c <<< 1) ^^^ (if c.getLsbD 63 then 0x42F0E1EBA9EA3693 else 0))

/-- CRC-64 (ECMA-182) of bytes in the order listed (R478). -/
def crc64 (bs : List Byte) : Word :=
  bs.foldl (fun (c : Word) (b : Byte) => crcBits 8 (c ^^^ (b ++ (0 : BitVec 56)))) 0

end Sys2Proof.Machine
end

