-- ==== Sys2Proof/Machine/Clocks.lean ====
section
/-! DEFINITION. The order of accesses of several agents: what a mask reaches (R378), the vector clocks that keep the copies of
remote-line caches in order (R386), and releases and acquires (R379 to R383, R388, R391, R392). Writes are applied at their
owners at once; only a copy in a remote-line cache can be older than its owner's line. (DESIGN CHOICE, log entry 6.) -/
namespace Sys2Proof.Machine

/-! ### Reads at an owner -/

/-- What a read returns. `poison true` is a mark found on the line, `poison false` one that this read set (R440). -/
inductive Got where
  | bytes (l : List Byte)
  | zero
  | park (d : Nat)
  | trap (c : Cause)
  | poison (found : Bool)
  | busy
deriving DecidableEq, Repr

/-- `n` bytes within one line of unencrypted memory. -/
def State.readPlain (s : State) (g n : Nat) : Got := if s.poisonIn g n then .poison true else .bytes (s.bytes g n)

/-- `n` bytes within one line of a compute die's memory, under a KEYID (R225, R242). A quarantined line reads as poison under KEYID 0
too: it carries a mark (R249, R250). -/
def State.readKeyed (s : State) (d pa n : Nat) (key : Byte) : State × Got :=
  if key = 0 then (s, if (s.die d).quarantined pa then .poison true else s.readPlain (gDie d pa) n)
  else match s.readCrypt d pa (kget 0 (s.die d).keys key.toNat) with
    | (s, some line, _) => (s, .bytes ((line.drop (pa % 64)).take n))
    | (s, none, found) => (s, .poison found)

/-! ### Clocks (R386) -/

/-- The greatest of two clocks, entry by entry (R386). -/
def clockMax (a b : Clock) : Clock := Vector.ofFn fun i => max a[i] b[i]

/-- The entry of a vector of four. -/
def at4 {α : Type} (v : Vector α 4) (i : Nat) : α := v[i % 4]'(Nat.mod_lt _ (by decide))
/-- The entry of a vector of four becomes `x`. -/
def set4 {α : Type} (v : Vector α 4) (i : Nat) (x : α) : Vector α 4 := v.set (i % 4) x (Nat.mod_lt _ (by decide))

/-- The updates that a die has applied cover a clock (R386). -/
def Die.covers (x : Die) (c : Clock) : Bool := (List.range 4).all fun i => at4 c i ≤ at4 x.a i

/-- Die h learns a clock (R386). -/
def State.learn (s : State) (h : Nat) (c : Clock) : State :=
  if clockMax (s.die h).k c = (s.die h).k then s else s.modDie h fun x => { x with k := clockMax x.k c }

/-- The agents of die 4, the host and the peers learn a clock (R392). -/
def State.learnIo (s : State) (c : Clock) : State := { s with io := { s.io with known := clockMax s.io.known c } }

/-- A reply or an acknowledgement of die o carries its clock to the requester's die, or to die 4 for an agent without a
tile (R386). -/
def State.learnClock (s : State) (P : Option TileId) (o : Nat) : State :=
  match P with
  | some P => if dieOf P = o then s else s.learn (dieOf P) (s.die o).k
  | none => s.learnIo (s.die o).k

/-- Owner o has applied a write, under a KEYID, to a line of its memory: if another die holds the line, the owner's clock goes
up and every other die gets a message, holders with the new data (R386). The owner has applied its own write.
(DEDUCED, log entry 38: the owner's own clock.) -/
def State.tellHolders (s : State) (o pa : Nat) (key : Byte) : State :=
  let home := lineOf (gDie o pa)
  let holds (h : Nat) : Bool := h != o && (s.die h).rlc.any fun l => l.home == home
  if (List.range 4).any holds then
    let s := s.modDie o fun x => { x with k := set4 x.k o (at4 x.k o + 1), a := set4 x.a o (at4 x.k o + 1) }
    let (s, data) := match s.readKeyed o (pa / 64 * 64) 64 key with
      | (s, .bytes l) => (s, l)
      | (s, _) => (s, [])
    let send (s : State) (h : Nat) : State :=
      if h = o then s
      else s.modDie h fun x =>
        { x with inbox := x.inbox ++ [{ owner := BitVec.ofNat 2 o, stamp := (s.die o).k,
                                        upd := if holds h then some (home, key, data) else none }] }
    (List.range 4).foldl send s
  else s

/-- The lines of [pa, pa + 64 n) of a die have been written under KEYID 0. -/
def State.tellLines (s : State) (o pa n : Nat) : State :=
  (List.range n).foldl (fun (s : State) i => s.tellHolders o (pa + 64 * i) 0) s

/-- A copy meets the n-th update of its owner: one that it was filled after leaves it as it is, new data under its own KEYID takes its
place, and otherwise it is evicted (R224, R386). (DEDUCED, log entry 38: copies under another KEYID.) -/
def RlcLine.update (l : RlcLine) (n : Nat) (upd : Option (Nat × Byte × List Byte)) : Option RlcLine :=
  match upd with
  | none => some l
  | some (home, key, data) =>
    if l.home ≠ home ∨ n ≤ l.ver then some l
    else if l.key = key ∧ data.length = 64 then some { l with data, ver := n }
    else none

/-- A die applies a message of an owner: new data for a line that it holds, and the clocks (R386). -/
def Die.applyMsg (x : Die) (m : ClockMsg) : Die :=
  { x with
    a := clockMax x.a m.stamp, k := clockMax x.k m.stamp,
    rlc := x.rlc.filterMap fun l => l.update (at4 m.stamp m.owner.toNat) m.upd }

/-- A die applies, in the order in which they were sent, the messages on their way to it that a clock covers. -/
def Die.drain (c : Clock) : List ClockMsg → Die → Die
  | [], x => x
  | m :: r, x =>
    if at4 m.stamp m.owner.toNat ≤ at4 c m.owner.toNat then Die.drain c r (x.applyMsg m)
    else
      let y := Die.drain c r x
      { y with inbox := m :: y.inbox }

/-- Die h has applied every message that a clock covers. -/
def State.applyUpTo (s : State) (c : Clock) (h : Nat) : State :=
  if (s.die h).inbox.any fun m => at4 m.stamp m.owner.toNat ≤ at4 c m.owner.toNat then
    s.modDie h fun x => Die.drain c x.inbox { x with inbox := [] }
  else s

/-! ### Reach (R378) -/

/-- The compute die of an agent. -/
def Agent.die : Agent → Option Nat
  | .core P => some (dieOf P)
  | .engine P _ => some (dieOf P)
  | .siphon P => some (dieOf P)
  | .supervisor c => some (c.toNat / 16)
  | .walker d => some d.toNat
  | .saver d => some d.toNat
  | .launch => none
  | .paths => none
  | .host _ => none
  | .peer _ _ => none

/-- The tile of an agent; a Siphon's is that of the CB it serves. -/
def Agent.tile : Agent → Option TileId
  | .core P => some P
  | .engine P _ => some P
  | .siphon P => some P
  | _ => none

/-- The cluster of an agent; a Siphon's is that of the tile whose CB it serves. -/
def Agent.cluster : Agent → Option Nat
  | .supervisor c => some c.toNat
  | X => X.tile.map clusterOf

/-- The agent is a control core or an ld, st, gr or mx engine. -/
def Agent.ofTile : Agent → Bool
  | .core _ => true
  | .engine _ _ => true
  | _ => false

/-- The agent is the supervisor core of a cluster. -/
def Agent.isSupervisor : Agent → Bool
  | .supervisor _ => true
  | _ => false

/-- The agent is a host requester. -/
def Agent.isHost : Agent → Bool
  | .host _ => true
  | _ => false

/-- The agent is a network peer. -/
def Agent.isPeer : Agent → Bool
  | .peer _ _ => true
  | _ => false

/-- The agent is on the package: neither a host requester nor a peer. -/
def Agent.inside (X : Agent) : Bool := !(X.isHost || X.isPeer)

/-- A mask of agent X reaches agent Y (R378): TL its tile, CL its cluster, DI its die, PK dies 0 to 4, HO and NW the host requesters and
the peers, or the package from them. -/
def reaches (m : BitVec 6) (X Y : Agent) : Bool :=
  (m.getLsbD 0 && Y.ofTile && X.tile.isSome && X.tile == Y.tile) ||
  (m.getLsbD 1 && (Y.ofTile || Y.isSupervisor) && X.cluster.isSome && X.cluster == Y.cluster) ||
  (m.getLsbD 2 && Y.inside && X.inside && X.die == Y.die) ||
  (m.getLsbD 3 && Y.inside) ||
  (m.getLsbD 4 && (if X.isHost then Y.inside else Y.isHost)) ||
  (m.getLsbD 5 && (if X.isPeer then Y.inside else Y.isPeer))

/-- The agent of an engine: an rt engine's work is the Siphon's (R376). -/
def agentOf (P : TileId) (e : Eng) : Agent := if e = .rt then .siphon P else .engine P e

/-- The agent of a source of tile P: 0 is its core, 1 to 5 its engines. -/
def agentSrc (P : TileId) (src : BitVec 3) : Agent :=
  match srcEng src with
  | some e => agentOf P e
  | none => .core P

/-! ### What an agent must see -/

/-- The clock that the later accesses of an agent must see. -/
def State.needOf (s : State) : Agent → Clock
  | .core P => (s.tile P).needK
  | .engine P e => (s.engine P e).need
  | .siphon P => (s.die (dieOf P)).siphon.need
  | .supervisor c => (s.die (c.toNat / 16)).k
  | .walker d => (s.die d.toNat).k
  | .saver d => (s.die d.toNat).k
  | .launch => s.io.known
  | .paths => s.io.known
  | .host _ => s.io.known
  | .peer _ _ => s.io.known

/-- The later accesses of an agent must see a clock too, and its die knows of it (R386). -/
def State.mustSee (s : State) (Y : Agent) (c : Clock) : State :=
  if c = Clock.zero then s
  else match Y with
    | .core P => (s.learn (dieOf P) c).modTile P fun t => { t with needK := clockMax t.needK c }
    | .engine P e => (s.learn (dieOf P) c).modEngine P e fun x => { x with need := clockMax x.need c }
    | .siphon P =>
      (s.learn (dieOf P) c).modDie (dieOf P) fun x => { x with siphon := { x.siphon with need := clockMax x.siphon.need c } }
    | .supervisor g => s.learn (g.toNat / 16) c
    | .walker d => s.learn d.toNat c
    | .saver d => s.learn d.toNat c
    | .launch => s.learnIo c
    | .paths => s.learnIo c
    | .host _ => s.learnIo c
    | .peer _ _ => s.learnIo c

/-- What agent Y must see follows what agent X has seen: an edge of one tile (R387). -/
def State.follows (s : State) (Y X : Agent) : State := s.mustSee Y (s.needOf X)

/-! ### Releases (R179, R383, R386) -/

/-- The mask reaches agents beyond the compute die of a releaser. -/
def maskLeaves (m : BitVec 6) : Bool := m.extractLsb' 3 3 != 0

/-- The clock that a release carries: what its agent must see, and beyond its die all that its die knows of (R386). -/
def State.carried (s : State) (X : Agent) (m : BitVec 6) : Clock :=
  match X.die with
  | none => s.io.known
  | some d => if maskLeaves m then clockMax (s.needOf X) (s.die d).k else s.needOf X

/-- A release of agent X to a mask that carries clock c: no die with an agent that the mask reaches keeps an older copy of a
write that it orders (R383). -/
def State.releaseOf (s : State) (X : Agent) (m : BitVec 6) (c : Clock) : State :=
  let pk : Bool := m.getLsbD 3 || (m.getLsbD 4 && X.isHost) || (m.getLsbD 5 && X.isPeer)
  let s := if maskLeaves m && X.die.isSome then s.learnIo c else s
  if pk then (List.range 4).foldl (State.applyUpTo · c) s
  else match X.die with
    | some d => if m.extractLsb' 0 3 = 0 then s else s.applyUpTo c d
    | none => s

/-- A release of agent X to a mask (R179, R383). -/
def State.release (s : State) (X : Agent) (m : BitVec 6) : State :=
  if m = 0 then s else s.releaseOf X m (s.carried X m)

/-! ### Locations (R377, R379) -/

/-- The releases that the value of a location carries; `loc` is a global address. -/
def State.relsAt (s : State) (loc : Nat) : List Rel :=
  match s.rels.find? fun x => x.1 == loc / 8 with
  | some x => x.2
  | none => []

/-- The value of a location carries releases. -/
def State.setRels (s : State) (loc : Nat) (l : List Rel) : State :=
  let rest := s.rels.filter fun x => x.1 != loc / 8
  { s with rels := if l.isEmpty then rest else (loc / 8, l) :: rest }

/-- An acquire of agent Y from a mask synchronises with those of some releases that reach Y and whose agent the mask reaches
(R379). -/
def State.acquireFrom (s : State) (Y : Agent) (m : BitVec 6) (l : List Rel) : State :=
  (l.filter fun r => reaches r.mask r.agent Y && reaches m Y r.agent).foldl (fun (s : State) r => s.mustSee Y r.clock) s

/-- An acquire that reads a location: every release of its release sequence counts (R379). -/
def State.acquireAt (s : State) (Y : Agent) (m : BitVec 6) (loc : Nat) : State := s.acquireFrom Y m (s.relsAt loc)

/-- Agent X writes a location as a release to a mask: the value begins a release sequence (R379, R380). A clock of zeros
orders nothing and is not kept. -/
def State.beginRel (s : State) (X : Agent) (m : BitVec 6) (c : Clock) (loc : Nat) : State :=
  s.setRels loc (if m = 0 ∨ c = Clock.zero then [] else [{ agent := X, mask := m, clock := c }])

/-- An atomic goes on with the release sequence of its location, and adds its own release (R379). -/
def State.goOnRel (s : State) (old : List Rel) (X : Agent) (m : BitVec 6) (c : Clock) (loc : Nat) : State :=
  s.setRels loc (if m = 0 ∨ c = Clock.zero then old else { agent := X, mask := m, clock := c } :: old)

/-! ### Semaphores (R388) -/

/-- The clock that the signals applied to a semaphore have left for its waiters. -/
def State.semClock (s : State) (P : TileId) (n : BitVec 6) : Clock := kget Clock.zero (s.tile P).semK n.toNat

/-- A signal of agent X leaves its clock for the waiters of a semaphore that its mask reaches (R388). -/
def State.leaveClock (s : State) (X : Agent) (m : BitVec 6) (P : TileId) (n : BitVec 6) : State :=
  let c := s.carried X m
  if reaches m X (.core P) && c != Clock.zero then
    s.modTile P fun t => { t with semK := kset t.semK n.toNat (clockMax (kget Clock.zero t.semK n.toNat) c) }
  else s

/-- A wait of agent Y on a semaphore completes: it synchronises with the signals that have reached it (R388). -/
def State.acquireSem (s : State) (Y : Agent) (P : TileId) (n : BitVec 6) : State := s.mustSee Y (s.semClock P n)

end Sys2Proof.Machine
end

