-- ==== Sys2Proof/Machine/Memory.lean ====
section
/-! DEFINITION. Addresses and translation: generic addresses and the local checks (R101, R170), the tile map (R84), page
table entries and walks (R226 to R232), protection (R234), non-resident pages (R235), and the place an access reaches
at its owner (R225, R238, R239). -/
namespace Sys2Proof.Machine

/-! ### Generic addresses -/

/-- The tag of a generic address. -/
def tagOf (a : Word) : Byte := a.extractLsb' 56 8
/-- VA[55:53], the owner of a virtual address. -/
def ownerOf (a : Word) : Nat := (a.extractLsb' 53 3).toNat
/-- The virtual tile of a tag 0xF1 address. -/
def vtOf (a : Word) : BitVec 10 := a.extractLsb' 40 10
/-- The tile-memory offset of a tag 0xF0 or 0xF1 address. -/
def offOf (a : Word) : Nat := (a.extractLsb' 0 19).toNat

/-- The tag is one of R101. -/
def tagKnown (a : Word) : Bool := tagOf a == 0x00 || tagOf a == 0xF0 || tagOf a == 0xF1 || tagOf a == 0xF2

/-- Every span that must be 0 for the tag of `a` is 0 (R101). -/
def spansZero (a : Word) : Bool :=
  if tagOf a = 0xF0 then a.extractLsb' 19 37 == 0
  else if tagOf a = 0xF1 then a.extractLsb' 50 6 == 0 && a.extractLsb' 19 21 == 0
  else if tagOf a = 0xF2 then a.extractLsb' 16 40 == 0
  else true

/-- The physical tile of virtual tile v in a copy of a task, unless R84 refuses it. -/
def Task.mapped (k : Task) (copy : Bool) (v : BitVec 10) : Option TileId :=
  let e := kget 0 (if copy then k.tileMap1 else k.tileMap) v.toNat
  if v.toNat < k.image.vgrid ∧ e.getLsbD 15 = true then some (e.extractLsb' 0 10) else none

/-- The physical tile of virtual tile v as tile P sees it (R84). -/
def State.mapTile (s : State) (P : TileId) (v : BitVec 10) : Option TileId :=
  match s.taskOf P with
  | some k => k.mapped ((s.tile P).copy || (s.tile P).trailing) v
  | none => none

/-- The tile whose memory an address names, for tags 0xF0 and 0xF1. -/
def State.tileAt (s : State) (P : TileId) (a : Word) : Option TileId :=
  if tagOf a = 0xF0 then some P else if tagOf a = 0xF1 then s.mapTile P (vtOf a) else none

/-- The checks that the core of tile P makes before an access leaves it, in the order of R170. -/
def State.localCheck (s : State) (P : TileId) (ea : Word) (size : Nat) : Option Cause :=
  if !tagKnown ea then some .badaddr
  else if !spansZero ea then some .badaddr
  else if ea.toNat % size != 0 then some .align
  else if tagOf ea == 0xF1 && (s.mapTile P (vtOf ea)).isNone then some .badaddr
  else if tagOf ea == 0x00 && decide (6 ≤ ownerOf ea) then some .badaddr
  else none

/-! ### Page-table entries (R227) -/

/-- PTE.V. -/
def pteV (p : Word) : Bool := p.getLsbD 0
/-- PTE.R. -/
def pteR (p : Word) : Bool := p.getLsbD 1
/-- PTE.W. -/
def pteW (p : Word) : Bool := p.getLsbD 2
/-- PTE.D. -/
def pteD (p : Word) : Bool := p.getLsbD 4
/-- PTE.ZF. -/
def pteZF (p : Word) : Bool := p.getLsbD 5
/-- PTE.PKEY. -/
def ptePkey (p : Word) : BitVec 5 := p.extractLsb' 7 5
/-- PTE.KEYID. -/
def pteKey (p : Word) : Byte := p.extractLsb' 12 8
/-- PTE.SIZE. -/
def pteSize (p : Word) : BitVec 2 := p.extractLsb' 20 2
/-- PTE.PFN. -/
def ptePfn (p : Word) : Nat := (p.extractLsb' 22 36).toNat

/-- The bytes of a page of a leaf SIZE code. -/
def pageBytes (sz : BitVec 2) : Nat := if sz = 0 then 65536 else if sz = 1 then 2097152 else 1073741824
/-- The level at which a leaf SIZE code may stand (R228). -/
def leafLevel (sz : BitVec 2) : Nat := if sz = 0 then 3 else if sz = 1 then 2 else 1

/-- [pa, pa + n) lies in the Cavern. -/
def inCavern (pa n : Nat) : Bool := decide (0x2000000000 ≤ pa ∧ pa + n ≤ 0x2004000000)
/-- [pa, pa + n) lies in one Gallery. -/
def inGallery (pa n : Nat) : Bool :=
  decide (0x2100000000 ≤ pa ∧ pa < 0x2108000000 ∧ (pa - 0x2100000000) % 0x800000 + n ≤ 0x800000)
/-- [pa, pa + n) lies wholly inside one range of R221. -/
def oneRange (pa n : Nat) : Bool := inHbm pa n || inCavern pa n || inGallery pa n

/-- AD of a key in a PKR (R99). -/
def pkrAD (pkr : Word) (k : BitVec 5) : Bool := pkr.getLsbD (2 * k.toNat)
/-- WD of a key in a PKR (R99). -/
def pkrWD (pkr : Word) (k : BitVec 5) : Bool := pkr.getLsbD (2 * k.toNat + 1)

/-- Permitted(p, kind, pkr) (R234). -/
def permitted (p : Word) (kind : AccKind) (pkr : Word) : Bool :=
  let ad := pkrAD pkr (ptePkey p)
  let wd := pkrWD pkr (ptePkey p)
  match kind with
  | .read => pteR p && !ad
  | .fetch => pteR p && !ad
  | .write => pteW p && !ad && !wd
  | .rmw => pteR p && pteW p && !ad && !wd

/-- The address of the 64-byte line that holds an address. -/
def lineVa (va : Word) : Word := BitVec.ofNat 64 (va.toNat / 64 * 64)

/-! ### The walk (R228, R232) -/

/-- What a walk returns. A leaf carries the address of its entry's page. -/
inductive Walk where
  | nomap
  | malformed
  | poisoned
  | nonres (p : Word)
  | denied (p : Word)
  | leaf (p : Word)
deriving DecidableEq, Repr

/-- The table index of a level (R228). -/
def walkIndex (va : Word) (lvl : Nat) : Nat :=
  if lvl = 0 then (va.extractLsb' 39 9).toNat
  else if lvl = 1 then (va.extractLsb' 30 9).toNat
  else if lvl = 2 then (va.extractLsb' 21 9).toNat
  else (va.extractLsb' 16 5).toNat

/-- The leaf with A set, and D for a write (R232). -/
def pteTouch (p : Word) (kind : AccKind) : Word :=
  if kind = .write ∨ kind = .rmw then p ||| 0x18 else p ||| 0x08

/-- A walk from level `lvl` on, with `n` levels left: what it finds, the physical address of the entry it ends at, and
the number of table reads. -/
def walkAt (s : State) (d : Nat) (va : Word) : Nat → Nat → Nat → Walk × Nat × Nat
  | 0, _, lvl => (.malformed, 0, lvl)
  | n + 1, t, lvl =>
    let a := t + 8 * walkIndex va lvl
    let p : Word := BitVec.ofNat 64 (s.num (gDie d a) 8)
    if s.poisoned (lineOf (gDie d a)) || (s.die d).quarantined a then (.poisoned, a, lvl + 1)
    else if p.getLsbD 6 then (.malformed, a, lvl + 1)
    else if pteSize p = 3 then
      if lvl = 3 ∨ p.extractLsb' 1 19 ≠ 0 then (.malformed, a, lvl + 1)
      else if !pteV p then (.nomap, a, lvl + 1)
      else if !inHbm (ptePfn p * 4096) 4096 then (.malformed, a, lvl + 1)
      else walkAt s d va n (ptePfn p * 4096) (lvl + 1)
    else if lvl ≠ leafLevel (pteSize p) then (.malformed, a, lvl + 1)
    else if ptePfn p % (pageBytes (pteSize p) / 4096) ≠ 0 then (.malformed, a, lvl + 1)
    else if !oneRange (ptePfn p * 4096) (pageBytes (pteSize p)) then (.malformed, a, lvl + 1)
    else if pteKey p ≠ 0 ∧ !inHbm (ptePfn p * 4096) (pageBytes (pteSize p)) then (.malformed, a, lvl + 1)
    else if !pteV p then (if pteR p || pteW p then (.nonres p, a, lvl + 1) else (.nomap, a, lvl + 1))
    else (.leaf p, a, lvl + 1)

/-- The walk of a virtual address before any permission (R228). -/
def State.findPte (s : State) (d : Nat) (ctx : BitVec 12) (va : Word) : Walk × Nat × Nat :=
  let c := kget 0 (s.die d).crt ctx.toNat
  if !c.getLsbD 0 then (.nomap, 0, 0) else walkAt s d va 4 ((c.extractLsb' 12 36).toNat * 4096) 0

/-- Walk(ctx, va, kind, pkr) (R228): A and D are set by a compare-and-swap, which cannot fail within one step. The third
component is the time the walk takes (R229). -/
def State.walk (s : State) (d : Nat) (ctx : BitVec 12) (va : Word) (kind : AccKind) (pkr : Word) :
    State × Walk × Nat :=
  match s.findPte d ctx va with
  | (.leaf p, a, n) =>
    if !permitted p kind pkr then (s, .denied p, 150 * n)
    else
      let q := pteTouch p kind
      if q = p then (s, .leaf p, 150 * n)
      else ((s.putBytes (gDie d a) (leBytes 8 q.toNat)).tellHolders d a 0, .leaf q, 150 * n + 150)
  | (w, _, n) => (s, w, 150 * n)

/-! ### The TLB (R230) -/

/-- A TLB entry maps a virtual address of a context. -/
def TlbEntry.hits (e : TlbEntry) (ctx : BitVec 12) (va : Word) : Bool :=
  e.ctx == ctx && e.page.toNat == va.toNat / pageBytes (pteSize e.leaf) * pageBytes (pteSize e.leaf)

/-- The entry of a virtual address that an access of the kind may use: a write through an entry with D = 0 walks. -/
def Die.tlbFind (x : Die) (ctx : BitVec 12) (va : Word) (kind : AccKind) : Option TlbEntry :=
  x.tlb.find? fun e => e.hits ctx va && (pteD e.leaf || (kind != .write && kind != .rmw))

/-- A resident, permitted leaf enters the TLB; the oldest entry leaves a full one. -/
def Die.tlbAdd (x : Die) (ctx : BitVec 12) (va leaf : Word) : Die :=
  let page : Word := BitVec.ofNat 64 (va.toNat / pageBytes (pteSize leaf) * pageBytes (pteSize leaf))
  { x with tlb := ({ ctx, page, leaf } :: x.tlb.filter fun e => !e.hits ctx va).take 16384 }

/-! ### Requesters and places -/

/-- Who makes an access: its tile and task if it has one, its context, virtual tile and copy, its PKR, and its source as
a park record names it. -/
structure Who where
  tile : Option TileId
  task : Option Nat
  ctx  : BitVec 12
  vt   : BitVec 10
  copy : Bool
  pkr  : Word
  src  : BitVec 3
deriving DecidableEq, Repr

/-- The requester of tile P's source `src` under a PKR. A tile without a task has context 0. -/
def State.who (s : State) (P : TileId) (src : BitVec 3) (pkr : Word) : Who :=
  let t := s.tile P
  { tile := some P, task := t.task, ctx := (match s.taskOf P with | some k => k.ctx | none => 0), vt := t.vt,
    copy := t.copy, pkr, src }

/-- An agent that reads under a context with no key check (R17, R63). -/
def agentWho (ctx : BitVec 12) : Who :=
  { tile := none, task := none, ctx, vt := 0, copy := false, pkr := 0, src := 7 }

/-- Where an access ends up. -/
inductive Place where
  /-- Bytes with no encryption. -/
  | plain (g : Nat)
  /-- A compute die's memory through a leaf. -/
  | die (d pa : Nat) (leaf : Word)
  /-- A zero-fill page (R235). -/
  | zero
  /-- The request parks at this owner; 4 is die 4 (R236, R238). -/
  | park (d : Nat)
  /-- The request is refused. -/
  | trap (c : Cause)
  /-- A peer behind an outbound window (R239). -/
  | peer (w : Nat)
deriving DecidableEq, Repr

/-- The key slot that a leaf names is filled, or it is plaintext (R242). -/
def Die.keyReady (x : Die) (leaf : Word) : Bool := pteKey leaf == 0 || (kfind x.keys (pteKey leaf).toNat).isSome

/-- The leaf that gives an access a KEYID, and nothing else. -/
def keyLeaf (key : Byte) : Word := key.zeroExtend 64 <<< 12

/-- The key of a leaf. -/
def Die.keyOf (x : Die) (leaf : Word) : BitVec 256 := kget 0 x.keys (pteKey leaf).toNat

/-- The shadow frame of a block for a copy of a TWIN task (R436). -/
def Task.shadowOf (k : Task) (copy : Bool) (va : Word) : Option Nat :=
  match k.shadows.find? fun x => x.copy == copy && x.block.toNat == va.toNat / 65536 * 65536 with
  | some x => some x.frame
  | none => none

/-- The place of a resident, permitted leaf: for a TWIN task, a block goes to its shadow frame once written, and the
first write to it parks (R436). -/
def State.leafPlace (s : State) (d : Nat) (who : Who) (va : Word) (kind : AccKind) (leaf : Word) : Place :=
  let pa := ptePfn leaf * 4096 + va.toNat % pageBytes (pteSize leaf)
  match who.task with
  | none => .die d pa leaf
  | some t =>
    match s.task? t with
    | none => .die d pa leaf
    | some k =>
      if k.redun = .twin then
        match k.shadowOf who.copy va with
        | some f => .die d (f + va.toNat % 65536) leaf
        | none => if kind = .write ∨ kind = .rmw then .park d else .die d pa leaf
      else .die d pa leaf

/-- Steps 1 to 4 of R225 at compute die d. `zf` says that the access takes a zero-fill page as such (R235). The third
component is the time of a walk. -/
def State.locateDie (s : State) (d : Nat) (who : Who) (va : Word) (kind : AccKind) (zf : Bool) : State × Place × Nat :=
  if va.extractLsb' 48 5 ≠ 0 then (s, .trap .badaddr, 0)
  else match (s.die d).tlbFind who.ctx va kind with
    | some e =>
      if !permitted e.leaf kind who.pkr then (s, .trap .prot, 0)
      else if !(s.die d).keyReady e.leaf then (s, .trap .prot, 0)
      else (s, s.leafPlace d who va kind e.leaf, 0)
    | none =>
      match s.walk d who.ctx va kind who.pkr with
      | (s, .nomap, n) => (s, .trap .badaddr, n)
      | (s, .malformed, n) => (s, .trap .badaddr, n)
      | (s, .poisoned, n) => (s, .trap .poison, n)
      | (s, .denied _, n) => (s, .trap .prot, n)
      | (s, .nonres p, n) =>
        if !permitted p kind who.pkr || !(s.die d).keyReady p then (s, .trap .prot, n)
        else if zf && pteZF p then (s, .zero, n)
        else (s, .park d, n)
      | (s, .leaf p, n) =>
        let s := s.modDie d fun x => x.tlbAdd who.ctx va p
        if !(s.die d).keyReady p then (s, .trap .prot, n) else (s, s.leafPlace d who va kind p, n)

/-- The rights of a host page with key 0 (R238). -/
def hostPermits (r w : Bool) (kind : AccKind) (pkr : Word) : Bool :=
  match kind with
  | .read => r && !pkrAD pkr 0
  | .fetch => false
  | .write => w && !pkrAD pkr 0 && !pkrWD pkr 0
  | .rmw => r && w && !pkrAD pkr 0 && !pkrWD pkr 0

/-- The task of a requester runs as a TWIN. -/
def State.isTwin (s : State) (who : Who) : Bool :=
  match who.task with
  | some t => (match s.task? t with | some k => decide (k.redun = .twin) | none => false)
  | none => false

/-- Owner 4 (R238): through die 4's translation cache, or the host's page table.
(DEDUCED, log entry 62: pages that nothing has named.) -/
def State.locateHost (s : State) (who : Who) (va : Word) (kind : AccKind) : State × Place × Nat :=
  let io := (va.extractLsb' 0 53).toNat
  let page : Word := BitVec.ofNat 64 (io / 4096 * 4096)
  if s.isTwin who && (kind == .write || kind == .rmw) then (s, .trap .prot, 0)
  else match s.io.atc.find? fun e => e.1 == who.ctx && e.2.1 == page with
    | some e => (s, if hostPermits e.2.2.1 e.2.2.2 kind who.pkr then .plain (gHost io) else .trap .prot, 0)
    | none =>
      match s.hostPages.find? fun e => e.1 == who.ctx && e.2.1 == page && e.2.2.1 with
      | some e =>
        let s := { s with io := { s.io with atc := ((who.ctx, page, e.2.2.2.1, e.2.2.2.2) :: s.io.atc).take 1024 } }
        (s, if hostPermits e.2.2.2.1 e.2.2.2.2 kind who.pkr then .plain (gHost io) else .trap .prot, 0)
      | none => (s, .park 4, 0)

/-- Owner 5 (R239): through an outbound window. `cas` says that an atomic is a fetch-add or a compare-and-swap. -/
def State.locatePeer (s : State) (who : Who) (va : Word) (kind : AccKind) : State × Place × Nat :=
  let w := (va.extractLsb' 45 8).toNat
  if s.isTwin who && (kind == .write || kind == .rmw) then (s, .trap .prot, 0)
  else match kfind s.io.outWins w with
    | none => (s, .trap .badaddr, 0)
    | some x =>
      if x.ctx != who.ctx || decide (x.len.toNat ≤ (va.extractLsb' 0 45).toNat) then (s, .trap .badaddr, 0)
      else
        let ok := match kind with
          | .read => x.r
          | .write => x.w
          | .rmw => x.atomic
          | .fetch => false
        (s, if ok then .peer w else .trap (if kind = .fetch then .badaddr else .prot), 0)

/-- The place that an access with a well-formed generic address reaches (R101, R225, R238, R239). -/
def State.locate (s : State) (who : Who) (va : Word) (kind : AccKind) (zf : Bool) : State × Place × Nat :=
  if tagOf va = 0x00 then
    if ownerOf va < 4 then s.locateDie (ownerOf va) who va kind zf
    else if ownerOf va = 4 then s.locateHost who va kind
    else if ownerOf va = 5 then s.locatePeer who va kind
    else (s, .trap .badaddr, 0)
  else match who.tile with
    | none => (s, .trap .badaddr, 0)
    | some P =>
      if tagOf va = 0xF0 then (s, .plain (gTile P.toNat (offOf va)), 0)
      else if tagOf va = 0xF2 then (s, .plain (gAcc P.toNat (va.extractLsb' 0 16).toNat), 0)
      else if tagOf va = 0xF1 then
        match s.mapTile P (vtOf va) with
        | some Q => (s, .plain (gTile Q.toNat (offOf va)), 0)
        | none => (s, .trap .badaddr, 0)
      else (s, .trap .badaddr, 0)

/-! ### Parking (R236, R418) -/

/-- The code of an access kind in a park record (R418). -/
def kindCode : AccKind → Nat
  | .read => 0 | .write => 1 | .rmw => 2 | .fetch => 3

/-- The 32 bytes of a park record (R418). -/
def Parked.bytes (p : Parked) : List Byte :=
  leBytes 8 p.va.toNat ++ leBytes 2 p.ctx.toNat ++ leBytes 1 (kindCode p.kind) ++ leBytes 1 p.src.toNat ++
  leBytes 2 p.vt.toNat ++ [0, 0] ++ leBytes 8 p.token ++ leBytes 8 p.time.toNat

/-- A request takes an entry of the park queue, and its record is written (R236). -/
def Die.takeEntry (x : Die) (p : Parked) (time : Word) : Die :=
  let p := { p with token := x.token, time }
  { x with park := x.park ++ [p], token := x.token + 1, parkRecs := kset x.parkRecs x.token p }

/-- A request of a requester that parks. -/
def parkedBy (who : Who) (va : Word) (kind : AccKind) (host : Option (Word × List Byte)) : Parked :=
  { token := 0, va, ctx := who.ctx, kind, src := who.src, tile := who.tile.getD 0, task := who.task, vt := who.vt, time := 0, host }

/-- A request takes an entry of the park queue of its owner, or is held while the queue is full (R236). -/
def State.parkReq (s : State) (d : Nat) (p : Parked) : State :=
  if d = 4 then { s with io := { s.io with pri := s.io.pri ++ [{ p with time := s.timeNs }] } }
  else s.modDie d fun x =>
    if x.park.length < 1024 then x.takeEntry p s.timeNs else { x with parkHeld := x.parkHeld ++ [p] }

/-- An access of a requester parks at an owner (R236). -/
def State.parkAt (s : State) (d : Nat) (who : Who) (va : Word) (kind : AccKind) : State :=
  s.parkReq d (parkedBy who va kind none)

/-- Held requests take the entries that are free, in arrival order, with no retry (R236). -/
def Die.refill (x : Die) (time : Word) : Nat → Die
  | 0 => x
  | n + 1 =>
    match x.parkHeld with
    | [] => x
    | p :: r => if x.park.length < 1024 then Die.refill ({ x with parkHeld := r }.takeEntry p time) time n else x

/-- The parked requests of a source of a tile leave the queue; their records stay for the supervisor to read (R237). -/
def State.unpark (s : State) (P : TileId) (src : BitVec 3) : State :=
  let keep (p : Parked) : Bool := !(p.tile == P && p.src == src)
  let one (s : State) (d : Nat) : State :=
    s.modDie d fun x =>
      Die.refill { x with park := x.park.filter keep, parkHeld := x.parkHeld.filter keep } s.timeNs x.parkHeld.length
  let s := one (one (one (one s 0) 1) 2) 3
  { s with io := { s.io with pri := s.io.pri.filter keep } }

/-- The park records of a task that has been ended are dropped, with their park-queue entries (R416, R418). -/
def State.dropParks (s : State) (t : Nat) : State :=
  let keep (p : Parked) : Bool := p.task != some t
  let one (s : State) (d : Nat) : State :=
    if ((s.die d).park ++ (s.die d).parkHeld ++ (s.die d).parkRecs.map fun r => r.2).all keep then s
    else s.modDie d fun x =>
      Die.refill { x with park := x.park.filter keep, parkHeld := x.parkHeld.filter keep,
                          parkRecs := x.parkRecs.filter fun r => keep r.2 } s.timeNs x.parkHeld.length
  let s := one (one (one (one s 0) 1) 2) 3
  { s with io := { s.io with pri := s.io.pri.filter keep } }

end Sys2Proof.Machine
end

