-- ==== Sys2Proof/Machine/Access.lean ====
section
/-! DEFINITION. Reads, writes and read-modify-writes at their targets (R171, R173, R174, R181): memory with its poison and
encryption, the remote-line caches and their clocks (R224, R386), the times of R222, the completed-request tables
(R394) and the record log (R464). -/
namespace Sys2Proof.Machine

/-- What a write comes to. -/
inductive Put where
  | done
  | zero
  | park (d : Nat)
  | trap (c : Cause)
  | busy
deriving DecidableEq, Repr

/-! ### Reading and writing at a place -/

/-- A line goes over a link: whether its transfer fails its check even after link retry (R250, R251). -/
def State.transfer (s : State) (line : Nat) : State × Bool :=
  if s.failing.contains line then ({ s with failing := s.failing.erase line }, true) else (s, false)

/-- What is read of a line after its transfer: a failed one delivers it with a mark that the line does not carry at its owner, unless the
line was found marked there (R447). -/
def State.readOver (s : State) (line : Nat) (got : Got) : State × Got :=
  match s.transfer line, got with
  | (s, true), .poison found => (s, .poison found)
  | (s, true), _ => (s, .poison false)
  | (s, false), got => (s, got)

/-- A line that has been written takes a mark when its data failed a check on the way (R251, R440). -/
def State.wroteOver (s : State) (line : Nat) : State :=
  match s.transfer line with
  | (s, true) => s.mark line
  | (s, false) => s

/-- `n` bytes within one line of a compute die's memory through a leaf (R225). -/
def State.readDie (s : State) (d pa n : Nat) (leaf : Word) : State × Got := s.readKeyed d pa n (pteKey leaf)

/-- Bytes within one line of unencrypted memory are stored; a whole line clears its mark (R174, R250). -/
def State.writePlain (s : State) (g : Nat) (bs : List Byte) : State :=
  let s := s.putBytes g bs
  if bs.length = 64 ∧ g % 64 = 0 then s.unmark (lineOf g) else s

/-- A line of a die has been written under a KEYID: its holders are told, and where the write re-encrypted its page, from the counters
`before`, those of every line of the page (R248, R386). -/
def State.tellWritten (s : State) (before : Word) (d pa : Nat) (key : Byte) : State :=
  if ((s.die d).ctr (pa / 4096)).major = before then s.tellHolders d pa key
  else (List.range 64).foldl (fun (s : State) i => s.tellHolders d (pa / 4096 * 4096 + 64 * i) key) s

/-- Bytes within one line of a compute die's memory are stored, through its encryption engine (R225, R247); under KEYID 0 a quarantined
line takes none (R249). -/
def State.writeDie (s : State) (d pa : Nat) (leaf : Word) (bs : List Byte) : State × Put :=
  if pteKey leaf = 0 then
    (if (s.die d).quarantined pa then s else (s.writePlain (gDie d pa) bs).tellHolders d pa 0, .done)
  else match s.writeCrypt d pa ((s.die d).keyOf leaf) bs with
    | (t, .applied) => (t.tellWritten ((s.die d).ctr (pa / 4096)).major d pa (pteKey leaf), .done)
    | (s, .parks) => (s, .park d)
    | (s, .poison) => (s, .done)

/-- Pieces of one line, which do not overlap, are written in one access (R279). -/
def State.writePlainSegs (s : State) (g : Nat) (segs : List (Nat × List Byte)) : State :=
  let s := segs.foldl (fun (s : State) x => s.putBytes (g + x.1) x.2) s
  if segBytes segs = 64 then s.unmark (lineOf g) else s

/-- Pieces of one line of a compute die's memory are written in one access, with one new counter (R247, R279). -/
def State.writeDieSegs (s : State) (d pa : Nat) (leaf : Word) (segs : List (Nat × List Byte)) : State × Put :=
  if pteKey leaf = 0 then
    (if (s.die d).quarantined pa then s else (s.writePlainSegs (gDie d pa) segs).tellHolders d pa 0, .done)
  else match s.writeCryptSegs d pa ((s.die d).keyOf leaf) segs with
    | (t, .applied) => (t.tellWritten ((s.die d).ctr (pa / 4096)).major d pa (pteKey leaf), .done)
    | (s, .parks) => (s, .park d)
    | (s, .poison) => (s, .done)

/-! ### Remote-line caches (R224) -/

/-- The view under which a requester's copies are held: a copy of a TWIN task has its own (R436). -/
def State.viewOf (s : State) (who : Who) : Option (Nat × Bool) :=
  if s.isTwin who then who.task.map fun t => (t, who.copy) else none

/-- A cached line is that of a requester's address. -/
def RlcLine.serves (l : RlcLine) (ctx : BitVec 12) (view : Option (Nat × Bool)) (va : Word) : Bool :=
  l.ctx == ctx && l.view == view && l.line.toNat == va.toNat / 64 * 64

/-- The copy that the cache of tile P's die holds of a line, if the access may hit it: R and the key allow it, and the die has
applied every update that the requester's acquires require (R386). -/
def State.rlcHit (s : State) (P : TileId) (who : Who) (va : Word) : Option (List Byte) :=
  let x := s.die (dieOf P)
  if x.covers (s.needOf (agentSrc P who.src)) then
    match x.rlc.find? fun l => l.serves who.ctx (s.viewOf who) va with
    | some l => if l.r && !pkrAD who.pkr l.pkey then some l.data else none
    | none => none
  else none

/-- A line enters the cache of die h, which holds 8 MiB. -/
def State.rlcFill (s : State) (h : Nat) (l : RlcLine) : State :=
  s.modDie h fun x => { x with rlc := (l :: x.rlc.filter fun y => !y.serves l.ctx l.view l.line).take 131072 }

/-- Die h drops its copies of an owner's line, and of a requester's address, after an access of its own tiles at the owner: a line
may be evicted at any time (R224), and the later loads of that core may not see older contents (R172). -/
def State.rlcDrop (s : State) (h home : Nat) (who : Who) (va : Word) : State :=
  let old (l : RlcLine) : Bool := l.home == home || l.serves who.ctx (s.viewOf who) va
  if (s.die h).rlc.any old then s.modDie h fun x => { x with rlc := x.rlc.filter fun l => !old l } else s

/-- A requester's die drops its copies of a line of another die before it writes it (R172). -/
def State.rlcClear (s : State) (who : Who) (va : Word) (d pa : Nat) : State :=
  match who.tile with
  | some P => if dieOf P ≠ d then s.rlcDrop (dieOf P) (lineOf (gDie d pa)) who va else s
  | none => s

/-! ### Times (R222) -/

/-- The time to a memory of a compute die, from die h and cluster c (none for an agent of die 4). -/
def dieTicks (P : Option TileId) (d pa : Nat) : Nat :=
  let base :=
    if inHbm pa 1 then 190
    else if inCavern pa 1 then 44
    else match P with
      | some P => if dieOf P = d ∧ clusterOf P % 16 = (pa - 0x2100000000) / 0x800000 then 16 else 36
      | none => 36
  match P with
  | some P => if dieOf P = d then base else base + 90
  | none => base + 90

/-- The time to the tile memory of tile Q from tile P. -/
def tileTicks (P Q : TileId) : Nat :=
  if P = Q then 3
  else if quadOf P = quadOf Q then 10
  else if clusterOf P = clusterOf Q then 14
  else if dieOf P = dieOf Q then 34
  else 34 + 90

/-- The time of an access at a place. -/
def State.ticksTo (s : State) (who : Who) (va : Word) (p : Place) : Nat :=
  match p with
  | .die d pa _ => dieTicks who.tile d pa
  | .peer _ => 260
  | .plain g =>
    match who.tile with
    | none => 134
    | some P =>
      if tagOf va = 0x00 then (if s.io.hostHeld.contains (lineOf g) then 160 else 1100)
      else if tagOf va = 0xF2 then 4
      else if tagOf va = 0xF1 then (match s.mapTile P (vtOf va) with | some Q => tileTicks P Q | none => 3)
      else 3
  | _ => if tagOf va = 0x00 ∧ ownerOf va < 4 then dieTicks who.tile (ownerOf va) 0 else 160

/-- The time of an access to an address, with its translation (R222). -/
def State.timeTo (s : State) (who : Who) (va : Word) (kind : AccKind) : Nat :=
  let (_, place, walk) := s.locate who va kind false
  walk + s.ticksTo who va place

/-! ### Completed-request tables (R188, R394) -/

/-- The table of the die that a generic address's owner lies on; die 4 keeps that of host lines. -/
def State.doneTable (s : State) (o : Nat) : List DoneReq := if o < 4 then (s.die o).doneReqs else s.io.peerDone

/-- The table of an owner becomes `l`. -/
def State.setDone (s : State) (o : Nat) (l : List DoneReq) : State :=
  if o < 4 then s.modDie o fun x => { x with doneReqs := l } else { s with io := { s.io with peerDone := l } }

/-- The owner of the table for an access of tile P to an address (R394). -/
def State.ownerIx (s : State) (P : TileId) (va : Word) : Nat :=
  if tagOf va = 0x00 then min (ownerOf va) 4
  else if tagOf va = 0xF1 then (match s.mapTile P (vtOf va) with | some Q => dieOf Q | none => dieOf P)
  else dieOf P

/-- The virtual tile whose memory an address of tile P names, if it names one. -/
def State.memoryVt (s : State) (P : TileId) (va : Word) : Option (BitVec 10) :=
  if tagOf va = 0xF1 then some (vtOf va) else if tagOf va = 0x00 then none else some (s.tile P).vt

/-- The source id of tile P (R394). -/
def State.srcOf (s : State) (P : TileId) : ReqSrc :=
  let w := s.who P 0 0
  .tile w.ctx w.vt w.copy

/-- A tile still needs the reply of one of its tags: its core's request, an abandoned atomic's, or one of a staged combine. -/
def Tile.needsTag (t : Tile) (tag : BitVec 16) : Bool :=
  (match t.core.flight with | some f => f.req.tag == some tag | none => false) ||
  t.core.atomTag == some tag || t.eng.toList.any fun e => e.staging.any fun x => x.tag == tag

/-- A source still needs the reply of a tag: some tile of it, running or saved, or a write on its way. -/
def State.tagNeeded (s : State) (src : ReqSrc) (tag : BitVec 16) : Bool :=
  (s.transit.any fun x => x.tag == some tag && s.srcOf x.tile == src) ||
  (s.tiles.any fun p => s.srcOf (BitVec.ofNat 10 p.1) == src && p.2.needsTag tag) ||
  s.tasks.any fun k => k.2.saved.any fun p =>
    decide (src = .tile k.2.ctx p.2.vt p.2.copy) && p.2.needsTag tag

/-- A tag of a source is live: it has an entry at some owner, or its source still needs its reply. -/
def State.tagLive (s : State) (src : ReqSrc) (tag : BitVec 16) : Bool :=
  ((List.range 5).any fun o => (s.doneTable o).any fun r => r.src == src && r.tag == tag) || s.tagNeeded src tag

/-- The next tag of a source that is not live, from `t` on (R394). -/
def State.freeTag (s : State) (src : ReqSrc) : Nat → BitVec 16 → BitVec 16
  | 0, t => t
  | n + 1, t => if s.tagLive src t then s.freeTag src n (t + 1) else t

/-- The key of a source's tag counter in its task. -/
def tagKey (vt : BitVec 10) (copy : Bool) : Nat := vt.toNat + (if copy then 1024 else 0)

/-- Take a fresh tag for tile P's source: one counter per source, ascending (R394). -/
def State.takeTag (s : State) (P : TileId) : State × BitVec 16 :=
  match s.taskOf P with
  | none => (s, 0)
  | some k =>
    let key := tagKey (s.tile P).vt (s.tile P).copy
    let t := s.freeTag (s.srcOf P) 20480 (kget 0 k.tags key)
    (s.modTaskOf P fun k => { k with tags := kset k.tags key (t + 1) }, t)

/-- The unacknowledged requests of tile P's source at an owner: those that it has applied, and the writes on their way to it. -/
def State.tagsAt (s : State) (P : TileId) (o : Nat) : Nat :=
  ((s.doneTable o).filter fun r => r.src == s.srcOf P).length +
  (s.transit.filter fun x => x.tag.isSome && !x.arrived && dieOf x.target == o && s.srcOf x.tile == s.srcOf P).length

/-- The request that the core of tile P has on its way to an owner under a tag, unless that holds 4,096 of its source. -/
def State.coreTags (s : State) (P : TileId) (o : Nat) : Nat :=
  match (s.core P).run, (s.core P).flight with
  | .waiting _ .flight _, some f => if f.req.tag.isSome && f.reply.isNone && s.ownerIx P f.req.ea == o then 1 else 0
  | _, _ => 0

/-- A source has 4,096 unacknowledged requests at an owner, so a further one waits at the source (R395). -/
def State.tagsFull (s : State) (P : TileId) (va : Word) : Bool := 4096 ≤ s.tagsAt P (s.ownerIx P va)

/-- An engine of the source waits too where the core's request is the last that the owner can take. -/
def State.engTagsFull (s : State) (P : TileId) (o : Nat) : Bool := 4096 ≤ s.tagsAt P o + s.coreTags P o

/-- An owner enters a request of tile P that it has applied under a tag, with its reply; `vt` is the virtual tile whose memory or
semaphores it reached (R188, R394). -/
def State.enterAt (s : State) (P : TileId) (o : Nat) (vt : Option (BitVec 10)) (tag : BitVec 16) (reply : AccOut) : State :=
  s.setDone o ({ src := s.srcOf P, trailing := (s.tile P).trailing, tag, vt, reply } :: s.doneTable o)

/-- The owner of an address enters a request of tile P that it has applied under a tag, with its reply. -/
def State.enterReply (s : State) (P : TileId) (va : Word) (tag : BitVec 16) (reply : AccOut) : State :=
  s.enterAt P (s.ownerIx P va) (s.memoryVt P va) tag reply

/-- A signal, a wait at a semaphore or a barrier arrival of tile P goes to die o, for a virtual tile if it names one: over a link it
carries a tag and has an entry there (R394). -/
def State.tagCross (s : State) (P : TileId) (o : Nat) (vt : Option (BitVec 10)) : State :=
  if o = dieOf P then s
  else
    let (s, tag) := s.takeTag P
    s.enterAt P o vt tag .done

/-- A signal, a wait or an arrival of tile P to die o waits at its source (R395). -/
def State.crossFull (s : State) (P : TileId) (o : Nat) : Bool := o != dieOf P && s.engTagsFull P o

/-- The live entry of a request of tile P: a trailing tile of a PAIR has its own, of what it applies in its own cluster (R434). -/
def State.liveEntry (s : State) (P : TileId) (va : Word) (tag : BitVec 16) : Option DoneReq :=
  (s.doneTable (s.ownerIx P va)).find? fun r => r.src == s.srcOf P && r.tag == tag && r.trailing == (s.tile P).trailing

/-- A request with a tag is applied once: the stored reply of a live entry, which takes `t` ticks, or the outcome of `f`, which is then
entered in the table unless the request was not applied (R188, R394). -/
def State.onceAt (s : State) (P : TileId) (va : Word) (tag : BitVec 16) (t : Nat) (f : State → State × AccOut × Nat) :
    State × AccOut × Nat :=
  match s.liveEntry P va tag with
  | some r => (s, r.reply, t)
  | none =>
    match f s with
    | (s, .value v, n) => (s.enterReply P va tag (.value v), .value v, n)
    | (s, .done, n) => (s.enterReply P va tag .done, .done, n)
    | r => r

/-- A request of tile P to an address crosses a die-to-die link (R394). -/
def State.crosses (s : State) (P : TileId) (va : Word) : Bool := s.ownerIx P va != dieOf P

/-- A read that crosses a die-to-die link takes a tag of its source, and no entry (R394, R395). A trailing tile of a PAIR takes the
replies of its leading one (R434). -/
def State.tagRead (s : State) (who : Who) (va : Word) : State :=
  match who.tile with
  | some P => if s.crosses P va && !(s.tile P).trailing then (s.takeTag P).1 else s
  | none => s

/-- The owner enters a write of tile P that it has applied under a tag (R394). -/
def State.enterDone (s : State) (P : TileId) (va : Word) (tag : BitVec 16) : State := s.enterReply P va tag .done

/-- A write `f` of an engine of tile P: one that crosses a die-to-die link carries a tag and has an entry at its owner (R394), and
waits at its source while the owner holds 4,096 of that source (R395). -/
def State.writeTagged (s : State) (P : TileId) (va : Word) (f : State → State × Put × Nat) : State × Put × Nat :=
  if s.crosses P va = false then f s
  else if s.engTagsFull P (s.ownerIx P va) then (s, .busy, 0)
  else
    let (s, tag) := s.takeTag P
    match f s with
    | (s, .done, n) => (s.enterDone P va tag, .done, n)
    | r => r

/-- The entries of a virtual tile's memory go with it to die d (R188, R189). (DEDUCED, log entry 74.) -/
def State.moveDone (s : State) (ctx : BitVec 12) (vt : BitVec 10) (copy : Bool) (d : Nat) : State :=
  let mine (r : DoneReq) : Bool :=
    r.vt == some vt && (match r.src with | .tile c _ y => c == ctx && y == copy | _ => false)
  let found := (List.range 4).flatMap fun o => if o = d then [] else (s.doneTable o).filter mine
  if found.isEmpty then s
  else
    let s := (List.range 4).foldl
      (fun (s : State) o => if o = d then s else s.setDone o ((s.doneTable o).filter fun r => !mine r)) s
    s.setDone d (found ++ s.doneTable d)

/-- The memory of a trailing tile of a PAIR is restored from the image of its leading tile, and the entries of its requests with it: those
of the leading tile, for requests that are issued again (R189, R435). -/
def State.pairDone (s : State) (ctx : BitVec 12) (vt : BitVec 10) (d : Nat) : State :=
  let mine (r : DoneReq) : Bool := r.vt == some vt && (match r.src with | .tile c _ _ => c == ctx | _ => false)
  let l := (s.doneTable d).filter fun r => !(mine r && r.trailing)
  s.setDone d ((l.filter mine).map (fun r => { r with trailing := true }) ++ l)

/-! ### Accesses by generic address -/

/-- The remote address of an offset of an outbound window. -/
def NetWindow.remote (x : NetWindow) (va : Word) : Word := x.base + (va.extractLsb' 0 45).zeroExtend 64

/-- A tile's access goes to the peer of outbound window `w` (R239): its answer, once it has come, or the request on its way, which is
sent once and keeps its PSN (R396). -/
def State.askPeer (s : State) (P : TileId) (w : Nat) (va : Word) (op : RoceOp) : State × Option (List Byte) :=
  let src := s.srcOf P
  let mine (r : OutReq) : Bool := r.src == src && r.va == va && r.op == op
  match s.io.outReqs.find? mine, kfind s.io.outWins w with
  | some r, _ =>
    match r.ans with
    | some l => ({ s with io := { s.io with outReqs := s.io.outReqs.erase r } }, some l)
    | none => (s, none)
  | none, some x =>
    let psn := kget 0 s.io.outPsn x.qp.toNat
    let r : OutReq :=
      { src, va, port := x.port, gid := x.gid, qp := x.qp, psn, rkey := x.rkey, raddr := x.remote va, op, ans := none }
    ({ s with io := { s.io with outReqs := s.io.outReqs ++ [r], outPsn := kset s.io.outPsn x.qp.toNat (psn + 1) } }, none)
  | none, none => (s, none)

/-- The requests that an attempt `t` has sent to peers, in the state `s` before it: an access that has to wait for a peer leaves
nothing else behind. -/
def State.withAsked (s t : State) : State :=
  { s with io := { s.io with
      outReqs := s.io.outReqs ++ t.io.outReqs.filter fun r => !s.io.outReqs.contains r, outPsn := t.io.outPsn } }

/-- A line of host memory is held by die 4 after an access (R222, R238). -/
def State.holdHost (s : State) (va : Word) (g : Nat) : State :=
  if tagOf va = 0x00 ∧ ownerOf va = 4 ∧ !s.io.hostHeld.contains (lineOf g) then
    { s with io := { s.io with hostHeld := (lineOf g :: s.io.hostHeld).take 4096 } }
  else s

/-- A reply of another tile's memory carries the clock of its die (R386). -/
def State.learnTile (s : State) (who : Who) (va : Word) : State :=
  match who.tile, (match who.tile with | some P => s.tileAt P va | none => none) with
  | some P, some Q => if dieOf Q = dieOf P then s else s.learnClock who.tile (dieOf Q)
  | _, _ => s

/-- A read of `n` bytes within one line. `take` says that it takes a tag if it crosses a link, `zf` how a non-resident zero-fill page is met
(R235), `rlc` that the remote-line cache may serve it (R224). The third component is the time it takes. -/
def State.readBy (s : State) (take : Bool) (who : Who) (va : Word) (n : Nat) (kind : AccKind) (zf rlc : Bool) : State × Got × Nat :=
  let remote : Option TileId :=
    match who.tile with
    | some P => if tagOf va = 0x00 ∧ ownerOf va < 4 ∧ ownerOf va ≠ dieOf P then some P else none
    | none => none
  let hit := match remote with
    | some P => if rlc then s.rlcHit P who va else none
    | none => none
  match hit with
  | some line => (s, .bytes ((line.drop (va.toNat % 64)).take n), 28)
  | none =>
    let (s, place, walk) := (if take then s.tagRead who va else s).locate who va kind zf
    let t := walk + s.ticksTo who va place
    match place with
    | .plain g =>
      let (s, got) := ((s.holdHost va g).learnTile who va).readOver (lineOf g) (s.readPlain g n)
      (s, got, t)
    | .zero => (s, .zero, t)
    | .park d => (s, .park d, t)
    | .trap c => (s, .trap c, t)
    | .peer w =>
      match s.askPeer (who.tile.getD 0) w va (.read n) with
      | (s, some l) => (s, .bytes (l.take n ++ List.replicate (n - l.length) 0), t)
      | (s, none) => (s, .busy, t)
    | .die d pa leaf =>
      match remote with
      | some P =>
        let s := s.rlcDrop (dieOf P) (lineOf (gDie d pa)) who va
        let (s, got) := s.readDie d (pa / 64 * 64) 64 leaf
        match s.readOver (lineOf (gDie d pa)) got with
        | (s, .bytes line) =>
          let s := s.learnClock who.tile d
          let s := if rlc then s.rlcFill (dieOf P)
            { ctx := who.ctx, line := lineVa va, home := lineOf (gDie d pa), view := s.viewOf who,
              key := pteKey leaf, ver := at4 (s.die d).k d, r := pteR leaf, pkey := ptePkey leaf, data := line } else s
          (s, .bytes ((line.drop (pa % 64)).take n), t)
        | (s, g) => (s.learnClock who.tile d, g, t)
      | none =>
        let (s, got) := s.readDie d pa n leaf
        let (s, got) := s.readOver (lineOf (gDie d pa)) got
        (s.learnClock who.tile d, got, t)

/-- A read of `n` bytes within one line that has no tag yet. -/
def State.readVa (s : State) (who : Who) (va : Word) (n : Nat) (kind : AccKind) (zf rlc : Bool) : State × Got × Nat :=
  s.readBy true who va n kind zf rlc

/-- A write of bytes within one line (R171, R174). -/
def State.writeVa (s : State) (who : Who) (va : Word) (bs : List Byte) (zf : Bool) : State × Put × Nat :=
  let (s, place, walk) := s.locate who va .write zf
  let t := walk + s.ticksTo who va place
  match place with
  | .plain g => ((((s.holdHost va g).writePlain g bs).wroteOver (lineOf g)).learnTile who va, .done, t)
  | .zero => (s, .zero, t)
  | .park d => (s, .park d, t)
  | .trap c => (s, .trap c, t)
  | .peer w =>
    match s.askPeer (who.tile.getD 0) w va (.write bs) with
    | (s, some _) => (s, .done, t)
    | (s, none) => (s, .busy, t)
  | .die d pa leaf =>
    let s := s.rlcClear who va d pa
    let (s, r) := s.writeDie d pa leaf bs
    ((s.wroteOver (lineOf (gDie d pa))).learnClock who.tile d, r, t)

/-- Pieces of one line, which do not overlap, are written in one access (R279). -/
def State.writeSegs (s : State) (who : Who) (line : Word) (segs : List (Nat × List Byte)) (zf : Bool) : State × Put × Nat :=
  match segs with
  | [(o, bs)] => s.writeVa who (line + BitVec.ofNat 64 o) bs zf
  | _ =>
    let (s, place, walk) := s.locate who line .write zf
    let t := walk + s.ticksTo who line place
    match place with
    | .plain g => ((((s.holdHost line g).writePlainSegs g segs).wroteOver (lineOf g)).learnTile who line, .done, t)
    | .zero => (s, .zero, t)
    | .park d => (s, .park d, t)
    | .trap c => (s, .trap c, t)
    | .peer _ => (s, .trap .badaddr, t)
    | .die d pa leaf =>
      let s := s.rlcClear who line d pa
      let (s, r) := s.writeDieSegs d pa leaf segs
      ((s.wroteOver (lineOf (gDie d pa))).learnClock who.tile d, r, t)

/-- What a read-modify-write comes to after its transfer: a write whose data fails its check lands with the mark, and without a write a
failed transfer delivers the line with one (R250, R251, R440). (DEDUCED, log entry 92.) -/
def State.rmwOver (s : State) (line : Nat) (f : Nat → Option Nat) (got r : Got) : State × Got :=
  match got, r with
  | .bytes l, .bytes _ => if (f (leNat l)).isSome then (s.wroteOver line, r) else s.readOver line r
  | _, _ => s.readOver line r

/-- A read-modify-write of `n` bytes within one line at its owner (R187, R190): the old value, and the new one unless
nothing is written. A poisoned line refuses it (R181). `net` is the RoCEv2 operation that it becomes at a peer (R239). -/
def State.rmwVa (s : State) (who : Who) (va : Word) (n : Nat) (f : Nat → Option Nat) (net : Option RoceOp) : State × Got × Nat :=
  let (s, place, walk) := s.locate who va .rmw false
  let t := walk + s.ticksTo who va place
  let put (s : State) (w : State → List Byte → State × Put) (got : Got) : State × Got :=
    match got with
    | .bytes l =>
      match f (leNat l) with
      | some v =>
        match w s (leBytes n v) with
        | (s, .park d) => (s, .park d)
        | (s, _) => (s, got)
      | none => (s, got)
    | g => (s, g)
  match place with
  | .plain g =>
    let got := s.readPlain g n
    let (s, r) := put (s.holdHost va g) (fun s b => (s.writePlain g b, .done)) got
    let (s, r) := s.rmwOver (lineOf g) f got r
    (s.learnTile who va, r, t)
  | .zero => (s, .zero, t)
  | .park d => (s, .park d, t)
  | .trap c => (s, .trap c, t)
  | .peer w =>
    match net with
    | none => (s, .trap .badaddr, t)
    | some op =>
      match s.askPeer (who.tile.getD 0) w va op with
      | (s, some l) => (s, .bytes (l.take n ++ List.replicate (n - l.length) 0), t)
      | (s, none) => (s, .busy, t)
  | .die d pa leaf =>
    let s := s.rlcClear who va d pa
    let (s, got) := s.readDie d pa n leaf
    let (s, r) := put s (fun s b => s.writeDie d pa leaf b) got
    let (s, r) := s.rmwOver (lineOf (gDie d pa)) f got r
    (s.learnClock who.tile d, r, t)

/-- A read-modify-write of `n` bytes that may cross into the next line: both parts are read, and then both are written, or neither is
(R301). -/
def State.rmwSpan (s : State) (who : Who) (va : Word) (n : Nat) (f : Nat → Option Nat) : State × Got × Nat :=
  let k := 64 - va.toNat % 64
  if n ≤ k then s.rmwVa who va n f none
  else
    let next := va + BitVec.ofNat 64 k
    match s.rmwVa who va k (fun _ => none) none with
    | (s1, .bytes a, t) =>
      (match s1.rmwVa who next (n - k) (fun _ => none) none with
       | (s2, .bytes b, _) =>
         (match f (leNat (a ++ b)) with
          | none => (s2, .bytes (a ++ b), t)
          | some v =>
            let w := leBytes n v
            match s2.rmwVa who va k (fun _ => some (leNat (w.take k))) none with
            | (s3, .bytes _, _) =>
              (match s3.rmwVa who next (n - k) (fun _ => some (leNat (w.drop k))) none with
               | (s4, .bytes _, _) => (s4, .bytes (a ++ b), t)
               | (_, g, t) => (s2, g, t))
            | (_, g, t) => (s2, g, t))
       | r => r)
    | r => r

/-- The global address that an access reaches (R377): none when it reaches no bytes of the device or the host. -/
def State.globalOf (s : State) (who : Who) (va : Word) (kind : AccKind) : Option Nat :=
  match (s.locate who va kind true).2.1 with
  | .plain g => some g
  | .die d pa _ => some (gDie d pa)
  | _ => none

/-- An acquire of agent Y from a mask that reads the doubleword at an address (R379). -/
def State.acquireVa (s : State) (Y : Agent) (who : Who) (m : BitVec 6) (va : Word) : State :=
  if m = 0 then s
  else match s.globalOf who va .read with
    | some g => s.acquireAt Y m g
    | none => s

/-- A read of any length, line by line, with `fuel` lines at most. It stops at the first line that is not read, and
answers that line's address with its outcome. -/
def State.readSpan (who : Who) (zf rlc : Bool) : Nat → State → Word → Nat → State × (List Byte × Option (Word × Got))
  | 0, s, _, _ => (s, [], none)
  | fuel + 1, s, va, n =>
    if n = 0 then (s, [], none)
    else
      let k := min n (64 - va.toNat % 64)
      match s.readVa who va k .read zf rlc with
      | (s, .bytes l, _) =>
        let (s, r, e) := State.readSpan who zf rlc fuel s (va + BitVec.ofNat 64 k) (n - k)
        (s, l ++ r, e)
      | (s, g, _) => (s, [], some (va, g))

/-- A read of any length in which each line of a non-resident zero-fill page reads as zeros (R235). It stops at the first line that
is not read, and answers that line's address with its outcome. -/
def State.readFilled (who : Who) : Nat → State → Word → Nat → State × (List Byte × Option (Word × Got))
  | 0, s, _, _ => (s, [], none)
  | fuel + 1, s, va, n =>
    if n = 0 then (s, [], none)
    else
      let k := min n (64 - va.toNat % 64)
      let rest (s : State) (l : List Byte) : State × (List Byte × Option (Word × Got)) :=
        let (s, r, e) := State.readFilled who fuel s (va + BitVec.ofNat 64 k) (n - k)
        (s, l ++ r, e)
      match s.readVa who va k .read true true with
      | (s, .bytes l, _) => rest s l
      | (s, .zero, _) => rest s (List.replicate k 0)
      | (s, g, _) => (s, [], some (va, g))

/-- A read of any length by an agent that never parks: none when it cannot be read in full (R63). -/
def State.agentRead (s : State) (ctx : BitVec 12) (va : Word) (n : Nat) : State × Option (List Byte) :=
  match State.readSpan (agentWho ctx) false false (n / 64 + 2) s va n with
  | (s, l, none) => (s, some l)
  | (s, _, some _) => (s, none)

/-- A write of any length, line by line, with `fuel` lines at most: false when some line is not applied. -/
def State.writeSpan (who : Who) : Nat → State → Word → List Byte → State × Bool
  | 0, s, _, _ => (s, true)
  | fuel + 1, s, va, bs =>
    if bs.length = 0 then (s, true)
    else
      let k := min bs.length (64 - va.toNat % 64)
      match s.writeVa who va (bs.take k) false with
      | (s, .done, _) => State.writeSpan who fuel s (va + BitVec.ofNat 64 k) (bs.drop k)
      | (s, _, _) => (s, false)

/-- A write of any length by an agent that never parks. -/
def State.agentWrite (s : State) (ctx : BitVec 12) (va : Word) (bs : List Byte) : State × Bool :=
  State.writeSpan (agentWho ctx) (bs.length / 64 + 2) s va bs

/-- Every line of a span can be written (R63). -/
def State.agentWritable (s : State) (ctx : BitVec 12) (va : Word) (n : Nat) : Bool :=
  (List.range (n / 64 + 1)).all fun i =>
    match s.locate (agentWho ctx) (va + BitVec.ofNat 64 (64 * i)) .write false with
    | (_, .plain _, _) => true
    | (_, .die _ _ _, _) => true
    | _ => false

/-! ### The record log (R463 to R465) -/

/-- The record descriptor of a context. -/
def State.recDesc (s : State) (ctx : BitVec 12) : RecDesc :=
  kget { mode := 0, logva := 0, nrec := 1024, idxva := 0 } s.io.recTable ctx.toNat

/-- The producer and consumer indices of a context's log ring. -/
def State.logIndex (s : State) (ctx : BitVec 12) : State × Nat × Nat :=
  let r := s.recDesc ctx
  match s.agentRead ctx r.idxva 16 with
  | (s, some l) => (s, leNat (l.take 8), leNat (l.drop 8))
  | (s, none) => (s, 0, 0)

/-- Append one 128-byte record to the log of a context, or none while the ring is full (R464). -/
def State.logAppend (s : State) (ctx : BitVec 12) (kind : Nat) (vt : Nat) (ord : Nat) (payload : List Byte) :
    Option State :=
  let r := s.recDesc ctx
  let (s, pi, ci) := s.logIndex ctx
  if r.nrec.toNat ≤ pi - ci then none
  else
    let rec_ := leBytes 1 kind ++ [0] ++ leBytes 2 vt ++ leBytes 4 ord ++ leBytes 8 s.timeNs.toNat ++
      (payload ++ List.replicate 112 0).take 112
    let (s, _) := s.agentWrite ctx (r.logva + BitVec.ofNat 64 (128 * (pi % r.nrec.toNat))) rec_
    some (s.agentWrite ctx r.idxva (leBytes 8 (pi + 1))).1

/-- Record `i` of a context's log ring. -/
def State.logRecord (s : State) (ctx : BitVec 12) (i : Nat) : List Byte :=
  let r := s.recDesc ctx
  match (s.agentRead ctx (r.logva + BitVec.ofNat 64 (128 * (i % r.nrec.toNat))) 128).2 with
  | some l => l
  | none => []

/-- The payload of the first record of a kind with an ordinal that `f` accepts, among the records of the ring. -/
def State.logFind (s : State) (ctx : BitVec 12) (kind ord : Nat) (f : Nat → List Byte → Bool) : Option (List Byte) :=
  let (_, pi, ci) := s.logIndex ctx
  let recs := (List.range (pi - ci)).map fun i => s.logRecord ctx (ci + i)
  match recs.find? fun l => leNat (l.take 1) == kind && leNat ((l.drop 4).take 4) == ord % 2 ^ 32 &&
      f (leNat ((l.drop 2).take 2)) (l.drop 16) with
  | some l => some (l.drop 16)
  | none => none

/-- The recording mode of a tile's task: 1 record, 2 replay, else off (R463). -/
def State.recMode (s : State) (P : TileId) : Byte :=
  match s.taskOf P with
  | some k => k.recMode
  | none => 0

/-- How many combines a logged location has had (R464). -/
def State.orderOf (s : State) (ctx : BitVec 12) (va : Word) : Nat :=
  match s.io.orders.find? fun x => x.1 == ctx && x.2.1 == va with
  | some x => x.2.2
  | none => 0

/-- A logged location has one combine more. -/
def State.orderNext (s : State) (ctx : BitVec 12) (va : Word) : State :=
  let rest := s.io.orders.filter fun x => !(x.1 == ctx && x.2.1 == va)
  { s with io := { s.io with orders := (ctx, va, s.orderOf ctx va + 1) :: rest } }

/-- The payload of an ORDER record (R464). (DEDUCED, log entry 43: widths within the payload.) -/
def orderPayload (va : Word) (ctx : BitVec 12) (vt : BitVec 10) (tag : BitVec 16) (kind : Nat) : List Byte :=
  leBytes 8 va.toNat ++ leBytes 2 ctx.toNat ++ leBytes 2 vt.toNat ++ leBytes 2 tag.toNat ++ leBytes 1 kind

/-- The request is applied exactly once under a tag wherever its owner is (R188, R394). -/
def ReqOp.once : ReqOp → Bool
  | .amo _ _ _ => true
  | .fred _ _ _ => true
  | _ => false

/-- The combines that wait at a location of a context, with their sources, tags and arrivals (R465). -/
def State.waitingAt (s : State) (ctx : BitVec 12) (va : Word) : List (TileId × BitVec 16 × Nat) :=
  s.tiles.flatMap fun p =>
    let P : TileId := BitVec.ofNat 10 p.1
    if (s.who P 0 0).ctx ≠ ctx then []
    else
      (match p.2.core.run, p.2.core.flight with
       | .waiting _ .flight t, some f =>
         if f.req.op.once && f.req.ea == va && f.reply.isNone then [(P, f.req.tag.getD 0, t)] else []
       | _, _ => []) ++
      p.2.eng.toList.flatMap fun x =>
        if x.sending then (x.staging.filter fun l => l.addr == va).map fun l => (P, l.tag, x.since) else []

/-- At a location that has diverged, another waiting combine has arrived before this one (R465). -/
def State.arrivedLater (s : State) (P : TileId) (va : Word) (tag : BitVec 16) : Bool :=
  let l := s.waitingAt (s.who P 0 0).ctx va
  match l.find? fun x => x.1 == P && x.2.1 == tag with
  | some me => l.any fun x => decide (x.2.2 < me.2.2)
  | none => !l.isEmpty

/-- In replay mode a combine is held until it is the next in recorded order, and at a location that has diverged until those that arrived
before it have been applied (R465). -/
def State.orderHeld (s : State) (P : TileId) (va : Word) (tag : BitVec 16) : Bool :=
  let w := s.who P 0 0
  if s.recMode P ≠ 2 then false
  else if s.io.diverged.any fun x => x.1 == w.ctx && x.2 == va then s.arrivedLater P va tag
  else
    match s.logFind w.ctx 5 (s.orderOf w.ctx va) (fun _ l => leNat (l.take 8) == va.toNat) with
    | some l => !(leNat ((l.drop 8).take 2) == w.ctx.toNat && leNat ((l.drop 10).take 2) == w.vt.toNat &&
        leNat ((l.drop 12).take 2) == tag.toNat)
    | none => true

/-- An owner has applied a combine: record mode logs it, and the location's count goes up (R464, R465). None while the
log is full, and then the combine has not been applied. -/
def State.orderLog (s : State) (P : TileId) (va : Word) (tag : BitVec 16) (kind : Nat) : Option State :=
  let w := s.who P 0 0
  if s.recMode P = 1 then
    match s.logAppend w.ctx 5 w.vt.toNat (s.orderOf w.ctx va) (orderPayload va w.ctx w.vt tag kind) with
    | some s => some (s.orderNext w.ctx va)
    | none => none
  else if s.recMode P = 2 then some (s.orderNext w.ctx va)
  else some s

end Sys2Proof.Machine
end

