-- ==== Sys2Proof/Machine/Tasks.lean ====
section
/-! DEFINITION. What tasks and their tiles share: the tiles of a task, stopping and ending a task (R66, R415), the region cycle
counter (R419), and the compare buffer of a PAIR task (R434, R435). -/
namespace Sys2Proof.Machine

/-! ### Status codes (R66) -/

/-- OK. -/
def stOk : BitVec 16 := 0x0010
/-- OK-SLIPPED. -/
def stSlipped : BitVec 16 := 0x0011
/-- PRED-FAILED. -/
def stPredFailed : BitVec 16 := 0x0030
/-- FAULT. -/
def stFault : BitVec 16 := 0x0031
/-- DOMAIN-ENDED. -/
def stDomain : BitVec 16 := 0x0032
/-- CANCELLED. -/
def stCancelled : BitVec 16 := 0x0033
/-- TWIN-MISMATCH. -/
def stTwin : BitVec 16 := 0x0034
/-- DEVICE-LOST. -/
def stLost : BitVec 16 := 0x00FF
/-- RCB-INVALID. -/
def stRcb : BitVec 16 := 0x0021

/-! ### The tiles of a task -/

/-- The physical tiles of a map (R84). -/
def mapTiles (m : KMap (BitVec 16)) : List TileId :=
  (m.filter fun e => e.2.getLsbD 15).map fun e => e.2.extractLsb' 0 10

/-- Every physical tile of a task: its map, then the trailing tiles or the second copy (R85). -/
def Task.tiles (k : Task) : List TileId := mapTiles k.tileMap ++ mapTiles k.tileMap1

/-- The tile that runs the same virtual tile in the other cluster or copy (R85). -/
def State.twinTile (s : State) (P : TileId) : Option TileId :=
  match s.taskOf P with
  | some k =>
    if k.redun = .none then none else k.mapped (!((s.tile P).copy || (s.tile P).trailing)) (s.tile P).vt
  | none => none

/-- The key of a saved tile: TWIN copy 1 follows copy 0. -/
def savedKey (t : Tile) : Nat := t.vt.toNat + if t.copy then 1024 else 0

/-- The place of what is kept of tile P, once its task is being switched out and the tile has been saved, until it runs again. -/
def State.keptKey (s : State) (P : TileId) : Option (Nat × Nat) :=
  match (s.tile P).task, s.taskOf P with
  | some t, some k => if (kfind k.saved (savedKey (s.tile P))).isSome then some (t, savedKey (s.tile P)) else none
  | _, _ => none

/-- The task of tile P runs under PAIR. -/
def State.isPair (s : State) (P : TileId) : Bool :=
  match s.taskOf P with
  | some k => decide (k.redun = .pair)
  | none => false

/-- `f` on every tile of a list. -/
def State.eachTile (s : State) (l : List TileId) (f : State → TileId → State) : State := l.foldl f s

/-- The request of a tile's core is abandoned, and the tag of an atomic that has been issued is kept (R176, R189): one that waits in the
compare buffer has none of its own yet. -/
def State.dropFlight (s : State) (P : TileId) : State :=
  s.modCore P fun c =>
    match c.run, c.flight with
    | .waiting _ .pair _, _ => { c with flight := none }
    | _, some f =>
      match f.req.op with
      | .amo _ _ _ => { c with flight := none, atomTag := f.req.tag }
      | .fred _ _ _ => { c with flight := none, atomTag := f.req.tag }
      | _ => { c with flight := none }
    | _, none => c

/-- The request of a tile's core is abandoned, and has left the park queue (R237). -/
def State.abandon (s : State) (P : TileId) : State := (s.unpark P 0).dropFlight P

/-- An engine of a task that ends: what it abandons is not done, and what it waits for it waits for no more (R176, R302). -/
def Engine.ended (x : Engine) : Engine :=
  match x.block with
  | .none => x
  | _ => { x with block := .none, patched := false }

/-- The time that a ready CB has waited for the lease goes to LEASEW (R460). -/
def State.countWait (s : State) (P : TileId) : State :=
  match (s.engine P .mx).readySince with
  | none => s
  | some t =>
    let s := s.modEngine P .mx fun x => { x with readySince := none }
    if (s.tile P).copy || (s.tile P).trailing then s
    else s.modTaskOf P fun k => { k with ctr := { k.ctr with leasew := k.ctr.leasew + BitVec.ofNat 64 (s.tick - t) } }

/-- What ending a task leaves on each of its tiles: the core has stopped, its request is abandoned, no event is waiting, no header wait is
queued, the grid drains, and the Siphon serves it no more (R203, R415). Its engines stop at the boundaries of pre-emption. Its park
records stay until its last tile has stopped (R416). -/
def State.stopEnded (s : State) (P : TileId) : State :=
  let s := (s.countWait P).dropFlight P
  let s := if (s.die (dieOf P)).siphon.serving = some P then
      s.modDie (dieOf P) fun d => { d with siphon := { d.siphon with serving := none, last := P } }
    else s
  s.modTile P fun t =>
    { t with stopped := true, events := [], waiters := [], core := { t.core with run := .off },
             eng := Vector.ofFn fun i => t.eng[i].ended,
             grid := { t.grid with run := t.grid.run.map fun r => { r with drain := true } } }

/-- The event records of a tile that no supervisor has served are discarded (R415). -/
def State.dropRecordsOf (s : State) (t : Tile) : State :=
  t.events.foldl (fun (s : State) v =>
    if v.recorded then
      s.modCluster (clusterOf v.ptile) fun c => { c with queue := c.queue.filter fun r => r.seqno != v.seqno }
    else s) s

/-- How the reasons that end a task in one tick rank: a fault end comes before a CANCEL (R82). -/
def endRank (status : BitVec 16) : Nat := if status = stCancelled then 1 else 0

/-- A live task is to end with a status and a detail: its tiles stop, its events and their records go, and the first reason stands,
of one tick a fault end before a CANCEL (R82, R415). (DEDUCED, log entry 59: the order reaches every tile in this step.) -/
def State.endTask (s : State) (t : Nat) (status : BitVec 16) (detail : BitVec 32) : State :=
  match s.task? t with
  | none => s
  | some k =>
    match k.ending with
    | some (old, _) =>
      if k.endTick = s.tick ∧ endRank status < endRank old then s.setTask t { k with ending := some (status, detail) } else s
    | none =>
      if k.state = .done then s
      else
        let s := s.setTask t { k with ending := some (status, detail), endTick := s.tick, compare := [] }
        k.saved.foldl (fun (s : State) p => s.dropRecordsOf p.2)
          (s.eachTile k.tiles fun s P => (s.dropRecordsOf (s.tile P)).stopEnded P)

/-- DETAIL: a cause in [7:0] and a virtual tile in [17:8] (R65). -/
def detailOf (cause : Byte) (vt : BitVec 10) : BitVec 32 := (0 : BitVec 14) ++ vt ++ cause

/-- The node of a task's path at an address of a context, or at a place of the device. -/
def Task.nodeAt (k : Task) (ctx : BitVec 12) (va : Word) (place : Option Nat) : Option CapNode :=
  k.path.find? fun c => (k.ctx == ctx && c.rcb == va) || (place.isSome && c.place == place)

/-- A task lies beneath a node of a task of context ctx. -/
def Task.beneath (k : Task) (ctx : BitVec 12) (n : CapNode) : Bool := (k.nodeAt ctx n.rcb n.place).isSome

/-- A task ends with FAULT, and the others of its fault domain with DOMAIN-ENDED and the same DETAIL (R66, R415): those beneath the node
that supplied its FDOM, wherever they run, or those of its context. -/
def State.endDomain (s : State) (t : Nat) (ecause : Byte) (vt : BitVec 10) : State :=
  match s.task? t with
  | none => s
  | some k =>
    let detail := detailOf ecause vt
    let also (p : Nat × Task) : Bool :=
      p.1 != t && decide (p.2.state ≠ .done) &&
      (match k.fdom with
       | .task => false
       | .region => k.fnode != 0 && (match k.path[k.fnode]? with | some n => p.2.beneath k.ctx n | none => false)
       | .context => p.2.ctx == k.ctx)
    let others := s.tasks.filter also
    others.foldl (fun (s : State) p => s.endTask p.1 stDomain detail) (s.endTask t stFault detail)

/-- A cluster is marked suspect (R439). -/
def Cluster.markSuspect (c : Cluster) : Cluster :=
  if c.suspect then c else { c with suspect := true, marks := c.marks + 1, passes := 0 }

/-! ### The region cycle counter (R419) -/

/-- The dies that hold tiles of a task. -/
def Task.dies (k : Task) : List Nat := k.tiles.map dieOf

/-- A freeze acts on a task (R419). -/
def freezeActs (c : FreezeCause) (k : Task) : Bool :=
  let on (d : Nat) : Bool := k.dies.contains d
  let joins (a b : BitVec 3) : Bool :=
    (on a.toNat && (on b.toNat || b.toNat == 4)) || (on b.toNat && a.toNat == 4)
  match c with
  | .hbmRefresh d _ => on d.toNat
  | .hbmCalibration d _ => on d.toNat
  | .throttleStep d => on d.toNat
  | .linkCalibration a b => joins a b
  | .flitRetry a b => joins a b
  | .retrain a b => joins a b

/-- The counter of a task advances: the task is RUNNING, static, not held and not frozen. -/
def State.rccRuns (s : State) (k : Task) : Bool :=
  decide (k.state = .running) && k.static && k.slipHold.isEmpty && !(s.freezes.any fun c => freezeActs c k)

/-- The throttle level that holds a task: the greatest of its dies (R467). -/
def State.levelOf (s : State) (k : Task) : Nat := k.dies.foldl (fun n d => max n (s.die d).throttle.toNat) 0

/-- The region cycle counter of a task: a held tick is a freeze tick (R467). -/
def State.rcc (s : State) (k : Task) : Nat :=
  if s.rccRuns k then k.rccBase + (unheld (s.levelOf k) s.tick - unheld (s.levelOf k) k.rccSince) else k.rccBase

/-- The region cycle counter of a task as it read one tick ago (R281). -/
def State.rccBefore (s : State) (k : Task) : Nat :=
  if k.rccSince = s.tick then k.rccPrev
  else if s.rccRuns k then k.rccBase + (unheld (s.levelOf k) (s.tick - 1) - unheld (s.levelOf k) k.rccSince)
  else k.rccBase

/-- Every counter is brought up to the present tick, before what may stop or start one. -/
def State.settleRcc (s : State) : State :=
  { s with tasks := s.tasks.map fun p =>
      (p.1, { p.2 with rccBase := s.rcc p.2, rccSince := s.tick, rccPrev := s.rccBefore p.2 }) }

/-- The region cycle counter that tile P reads: 0 unless its task is static (R211). -/
def State.rccOf (s : State) (P : TileId) : Nat :=
  match s.taskOf P with
  | some k => if k.static then s.rcc k else 0
  | none => 0

/-! ### PAIR (R434, R435) -/

/-- What the compare buffer lets a request do. -/
inductive PairGo where
  /-- The request is issued once, for this tile; the other tile of the pair gets the same reply. -/
  | go (lead : TileId)
  | wait
  | mismatch
deriving DecidableEq, Repr

/-- A request to an address is outbound: virtual memory, or a tile of another virtual cluster. -/
def State.outbound (s : State) (P : TileId) (ea : Word) : Bool :=
  tagOf ea == 0x00 || (tagOf ea == 0xF1 && (vtOf ea).toNat / 16 != (s.tile P).vt.toNat / 16)

/-- Both clusters of a pair are marked suspect (R435). -/
def State.suspectPair (s : State) (P : TileId) : State :=
  let s := s.modCluster (clusterOf P) Cluster.markSuspect
  match s.twinTile P with
  | some Q => s.modCluster (clusterOf Q) Cluster.markSuspect
  | none => s

/-- Both clusters of a pair stop and are marked suspect, and the task ends in its fault domain with FAULT, cause 0x00 and the virtual
tile (R415, R435). -/
def State.pairEnd (s : State) (P : TileId) : State :=
  let s := s.suspectPair P
  match (s.tile P).task with
  | some t => s.endDomain t 0 (s.tile P).vt
  | none => s

/-- Requests of tile P's pair differ. The task ends before the tick does; of several tiles in one tick the lowest virtual tile is named
(R435). -/
def State.pairMismatch (s : State) (P : TileId) : State :=
  let v := (s.tile P).vt
  (s.suspectPair P).modTaskOf P fun k =>
    { k with mismatch := match k.mismatch with | some w => if v.toNat < w.toNat then some v else some w | none => some v }

/-- An outbound request of a source of tile P meets the compare buffer. Outside PAIR every request goes at once.
(DEDUCED, log entry 42: which requests are compared.) -/
def State.pairGate (s : State) (P : TileId) (path : Nat) (what : List Nat) : State × PairGo :=
  match s.taskOf P with
  | none => (s, .go P)
  | some k =>
    if k.redun ≠ .pair then (s, .go P)
    else
      let t := s.tile P
      let mine (r : PairReq) : Bool := r.vt == t.vt && r.path == path && r.leading == !t.trailing
      let other (r : PairReq) : Bool := r.vt == t.vt && r.path == path && r.leading == t.trailing
      match k.compare.find? other with
      | some r =>
        let s := s.modTaskOf P fun k => { k with compare := k.compare.filter fun r => !(other r || mine r) }
        if r.what = what then
          (s, .go (if t.trailing then (s.twinTile P).getD P else P))
        else (s, .mismatch)
      | none =>
        if k.compare.any mine then (s, .wait)
        else
          (s.modTaskOf P fun k =>
            { k with compare := k.compare ++ [{ vt := t.vt, path, leading := !t.trailing, what, since := s.tick }] }, .wait)

/-- A request of a tile waits in the compare buffer on a path. -/
def State.inCompare (s : State) (P : TileId) (path : Nat) : Bool :=
  match s.taskOf P with
  | some k => k.compare.any fun r => r.vt == (s.tile P).vt && r.path == path && r.leading == !(s.tile P).trailing
  | none => false

/-- The tile that gets the same reply as `P`: the trailing twin of a leading tile of a PAIR task. -/
def State.follower (s : State) (P : TileId) : Option TileId :=
  if s.isPair P && !(s.tile P).trailing then s.twinTile P else none

end Sys2Proof.Machine
end

