-- ==== Sys2Proof/Machine/Arrival.lean ====
section
/-! DEFINITION. What the arrival of bytes in a tile memory does: semaphores (R103) and byte-mode regions (R38, R287). -/
namespace Sys2Proof.Machine

/-! ### Semaphores -/

/-- The value of semaphore n of tile P. -/
def State.sem (s : State) (P : TileId) (n : BitVec 6) : BitVec 32 := (s.tile P).sems[n.toNat]'n.isLt

/-- A semaphore of a tile takes a value; a change ends the tile's IDLE (R217). -/
def State.setSem (s : State) (P : TileId) (n : BitVec 6) (v : BitVec 32) : State :=
  s.modTile P fun t => { t with sems := t.sems.set n.toNat v n.isLt, wake := t.wake || t.sems[n.toNat]'n.isLt != v }

/-- A signal adds its count, saturating and setting SEMOV bit n (R103). -/
def State.semAdd (s : State) (P : TileId) (n : BitVec 6) (c : BitVec 32) : State :=
  let sum := (s.sem P n).toNat + c.toNat
  if sum < 2 ^ 32 then s.setSem P n (BitVec.ofNat 32 sum)
  else (s.setSem P n 0xFFFFFFFF).modCore P fun k => { k with semov := k.semov ||| semovBit n }

/-- The value that the arrivals of a tick lead to. -/
def SemTick.value (e : SemTick) : BitVec 32 :=
  e.adds.foldl (fun v c => BitVec.ofNat 32 (min (v.toNat + c.toNat) (2 ^ 32 - 1))) e.base

/-- What has arrived at semaphore n of tile P in this tick, if nothing else has changed it since. -/
def State.semRecent (s : State) (P : TileId) (n : BitVec 6) : Option SemTick :=
  (kfind (s.tile P).semTick n.toNat).filter fun e => e.at_ == s.tick && e.value == s.sem P n

/-- The value of a semaphore as the core of its tile meets it: what its engines and other agents add in the same tick comes after (R103). -/
def State.semSeen (s : State) (P : TileId) (n : BitVec 6) : BitVec 32 :=
  match s.semRecent P n with
  | some e => e.base
  | none => s.sem P n

/-- An addition by an engine of the tile or by another agent. -/
def State.semArrive (s : State) (P : TileId) (n : BitVec 6) (c : BitVec 32) : State :=
  let e := match s.semRecent P n with
    | some e => { e with adds := e.adds ++ [c] }
    | none => { at_ := s.tick, base := s.sem P n, ovr := (s.core P).semov.getLsbD n.toNat, adds := [c] }
  (s.modTile P fun t => { t with semTick := kset t.semTick n.toNat e }).semAdd P n c

/-- The core of a tile stores a value in a semaphore. What has arrived in the same tick is added to it (R103). -/
def State.semStore (s : State) (P : TileId) (n : BitVec 6) (v : BitVec 32) : State :=
  match s.semRecent P n with
  | none => s.setSem P n v
  | some e =>
    let s := (s.setSem P n v).modTile P fun t => { t with semTick := kset t.semTick n.toNat { e with base := v } }
    let s := if e.ovr then s else s.modCore P fun k => { k with semov := k.semov &&& ~~~ semovBit n }
    e.adds.foldl (fun (s : State) c => s.semAdd P n c) s

/-- A signal of agent X to a mask (R179, R388): the release, then the count. One that saturates leaves no clock. -/
def State.signal (s : State) (X : Agent) (m : BitVec 6) (P : TileId) (n : BitVec 6) (c : BitVec 32) : State :=
  let s := s.release X m
  let s := if (s.sem P n).toNat + c.toNat < 2 ^ 32 then s.leaveClock X m P n else s
  if X = .core P then s.semAdd P n c else s.semArrive P n c

/-- A semaphore addition that lets its waiters see a clock (R390). One that saturates leaves no clock. -/
def State.semAddWith (s : State) (P : TileId) (n : BitVec 6) (c : BitVec 32) (k : Clock) : State :=
  let s := if k ≠ Clock.zero ∧ (s.sem P n).toNat + c.toNat < 2 ^ 32 then
      s.modTile P fun t => { t with semK := kset t.semK n.toNat (clockMax (kget Clock.zero t.semK n.toNat) k) }
    else s
  s.semArrive P n c

/-! ### Bytes that arrive in a tile memory -/

/-- Bytes of a producer have become visible in a tile: every bound byte-mode region that they fall in counts them (R38,
R287). -/
def State.byteArrive (s : State) (Q : TileId) (o n : Nat) : State :=
  (s.tile Q).regions.toList.foldl (fun (s : State) (r : Option Region) =>
    match r with
    | some g =>
      let lo := g.desc.base.toNat
      let hi := lo + g.desc.slotb.toNat * g.desc.nslot.toNat
      let m := min hi (o + n) - max lo o
      if g.desc.byteMode && m != 0 then s.semArrive Q g.desc.full (BitVec.ofNat 32 m) else s
    | none => s) s

/-- A write of a tile to an address has been applied: bytes that fall in byte-mode regions of the target tile are counted
(R38, R287). (DEDUCED, log entry 44: atomics do not count.) -/
def State.wroteTile (s : State) (P : TileId) (ea : Word) (n : Nat) : State :=
  match s.tileAt P ea with
  | some Q => s.byteArrive Q (offOf ea) n
  | none => s

end Sys2Proof.Machine
end

