-- ==== Sys2Proof/Machine/Numbers.lean ====
section
/-! DEFINITION. Number formats and exact arithmetic (R252 to R269): scalar formats, rounding, overflow, flushing, NaN results,
conversions, the stochastic generators, quantising and alignment. -/
namespace Sys2Proof.Machine

/-! ### Formats -/

/-- Which special values a floating-point format has (R252). -/
inductive Specials where
  /-- Infinities and NaNs with every exponent bit set. -/
  | ieee
  /-- No infinity; NaN is every bit but the sign set (E4M3). -/
  | nanOnly
  /-- Neither (FP6, FP4). -/
  | none
deriving DecidableEq, Repr

/-- A scalar floating-point format (R252). `flush` says that FTZ acts on it (R261). -/
structure FloatFmt where
  eb    : Nat
  mb    : Nat
  bias  : Nat
  spec  : Specials
  flush : Bool
deriving DecidableEq, Repr

/-- FP64. -/
def fp64 : FloatFmt := ⟨11, 52, 1023, .ieee, true⟩
/-- FP32. -/
def fp32 : FloatFmt := ⟨8, 23, 127, .ieee, true⟩
/-- FP16. -/
def fp16 : FloatFmt := ⟨5, 10, 15, .ieee, true⟩
/-- BF16. -/
def bf16 : FloatFmt := ⟨8, 7, 127, .ieee, true⟩
/-- FP8 E4M3. -/
def e4m3 : FloatFmt := ⟨4, 3, 7, .nanOnly, false⟩
/-- FP8 E5M2. -/
def e5m2 : FloatFmt := ⟨5, 2, 15, .ieee, false⟩
/-- FP6 E3M2. -/
def e3m2 : FloatFmt := ⟨3, 2, 3, .none, false⟩
/-- FP6 E2M3. -/
def e2m3 : FloatFmt := ⟨2, 3, 1, .none, false⟩
/-- FP4 E2M1. -/
def e2m1 : FloatFmt := ⟨2, 1, 1, .none, false⟩

/-- The format of one element: a scalar float, an integer, or E8M0. -/
inductive Fmt where
  | fl (f : FloatFmt)
  | int (bits : Nat) (signed : Bool)
  | e8m0
deriving DecidableEq, Repr

/-- The bits of a float. -/
def FloatFmt.width (f : FloatFmt) : Nat := 1 + f.eb + f.mb
/-- The bits of an element. -/
def Fmt.width : Fmt → Nat
  | .fl f => f.width
  | .int n _ => n
  | .e8m0 => 8
/-- The exponent of the smallest normal value. -/
def FloatFmt.emin (f : FloatFmt) : Int := 1 - (f.bias : Int)
/-- The exponent of the largest finite value. -/
def FloatFmt.emax (f : FloatFmt) : Int :=
  (2 ^ f.eb - 1 : Int) - f.bias - (match f.spec with | .ieee => 1 | _ => 0)
/-- The pattern of the largest finite value, without its sign. -/
def FloatFmt.maxBits (f : FloatFmt) : Nat :=
  match f.spec with
  | .ieee => (2 ^ f.eb - 1) * 2 ^ f.mb - 1
  | .nanOnly => 2 ^ (f.eb + f.mb) - 2
  | .none => 2 ^ (f.eb + f.mb) - 1
/-- The sign bit of a pattern. -/
def FloatFmt.signBit (f : FloatFmt) (neg : Bool) : Nat := if neg then 2 ^ (f.eb + f.mb) else 0
/-- The canonical NaN (R252); +0 where the format has none (R262). -/
def FloatFmt.canonical (f : FloatFmt) : Nat :=
  match f.spec with
  | .ieee => (2 ^ f.eb - 1) * 2 ^ f.mb + 2 ^ (f.mb - 1)
  | .nanOnly => 2 ^ (f.eb + f.mb) - 1
  | .none => 0

/-! ### Values -/

/-- An exact value. A finite one is m · 2^e, and m = 0 is the zero of its sign. A NaN keeps its sign and its fraction,
left-aligned in 64 bits; `canon` is a NaN that no operand gave (R262). -/
inductive Val where
  | nan (neg : Bool) (frac : Nat)
  | canon
  | inf (neg : Bool)
  | fin (neg : Bool) (m : Nat) (e : Int)
deriving DecidableEq, Repr

/-- The value of a float's pattern (R252). -/
def FloatFmt.decode (f : FloatFmt) (x : Nat) : Val :=
  let s := x / 2 ^ (f.eb + f.mb) % 2 == 1
  let e := x / 2 ^ f.mb % 2 ^ f.eb
  let m := x % 2 ^ f.mb
  if e = 2 ^ f.eb - 1 ∧ f.spec = .ieee then (if m = 0 then .inf s else .nan s (m * 2 ^ (64 - f.mb)))
  else if e = 2 ^ f.eb - 1 ∧ m = 2 ^ f.mb - 1 ∧ f.spec = .nanOnly then .nan s (m * 2 ^ (64 - f.mb))
  else if e = 0 then .fin s m (1 - (f.bias : Int) - f.mb)
  else .fin s (2 ^ f.mb + m) ((e : Int) - f.bias - f.mb)

/-- An integer as an exact value. -/
def Val.ofInt (i : Int) : Val := .fin (decide (i < 0)) i.natAbs 0

/-- The integer of a pattern. -/
def intOf (bits : Nat) (signed : Bool) (x : Nat) : Int :=
  let y := x % 2 ^ bits
  if signed ∧ 2 ^ (bits - 1) ≤ y then (y : Int) - 2 ^ bits else y

/-- The value of an element's pattern (R252 to R255). -/
def Fmt.decode : Fmt → Nat → Val
  | .fl f, x => f.decode x
  | .int n s, x => .ofInt (intOf n s x)
  | .e8m0, x => if x % 256 = 255 then .canon else .fin false 1 ((x % 256 : Nat) - 127)

/-- floor(log2 |v|) of a finite non-zero value. -/
def Val.log2 : Val → Int
  | .fin _ m e => (Nat.log2 m : Int) + e
  | _ => 0

/-- The value is a NaN. -/
def Val.isNaN : Val → Bool
  | .nan _ _ => true
  | .canon => true
  | _ => false
/-- The value is finite. -/
def Val.isFin : Val → Bool
  | .fin _ _ _ => true
  | _ => false
/-- The value is a zero. -/
def Val.isZero : Val → Bool
  | .fin _ m _ => m == 0
  | _ => false
/-- The sign. -/
def Val.neg : Val → Bool
  | .nan s _ => s
  | .canon => false
  | .inf s => s
  | .fin s _ _ => s
/-- The value with its sign set. -/
def Val.withSign (s : Bool) : Val → Val
  | .nan _ f => .nan s f
  | .canon => .canon
  | .inf _ => .inf s
  | .fin _ m e => .fin s m e
/-- The value with the opposite sign; a NaN is kept. -/
def Val.negate : Val → Val
  | .inf s => .inf (!s)
  | .fin s m e => .fin (!s) m e
  | v => v

/-! ### Rounding (R259) -/

/-- The rounding modes of R96. -/
inductive Rnd where
  | rne | rtz | rup | rdn | rna | sr
deriving DecidableEq, Repr

/-- The mode of a code of FMODE.RND. -/
def Rnd.of (x : Nat) : Rnd :=
  match x % 8 with
  | 0 => .rne | 1 => .rtz | 2 => .rup | 3 => .rdn | 4 => .rna | _ => .sr

/-- An arithmetic mode (R96). -/
structure Mode where
  rnd : Rnd
  ftz : Bool
  sat : Bool
  can : Bool
deriving DecidableEq, Repr

/-- The mode of FMODE bits [5:0]. -/
def Mode.of (x : BitVec 6) : Mode :=
  { rnd := Rnd.of (x.extractLsb' 0 3).toNat, ftz := x.getLsbD 3, sat := x.getLsbD 4, can := x.getLsbD 5 }

/-- Round to nearest even with nothing flushed or saturated. -/
def Mode.rne : Mode := { rnd := .rne, ftz := false, sat := false, can := false }

/-- The integer n of RoundTo for the magnitude m · 2^e in units of 2^q. -/
def roundUnits (neg : Bool) (m : Nat) (e q : Int) (mode : Rnd) (rnd : Nat) : Nat :=
  if q ≤ e then m * 2 ^ (e - q).toNat
  else
    let sh := (q - e).toNat
    let n := m / 2 ^ sh
    let r := m % 2 ^ sh
    let up : Bool :=
      match mode with
      | .rne => decide (2 ^ sh < 2 * r) || (decide (2 * r = 2 ^ sh) && n % 2 == 1)
      | .rna => decide (2 ^ sh ≤ 2 * r)
      | .rtz => false
      | .rup => !neg && r != 0
      | .rdn => neg && r != 0
      | .sr => decide (65536 ≤ r * 65536 / 2 ^ sh + rnd % 65536)
    if up then n + 1 else n

/-- The NaN result of a format for the first NaN operand (R262). -/
def FloatFmt.nanBits (f : FloatFmt) (can : Bool) (v : Val) : Nat :=
  match v with
  | .nan s frac =>
    if can then f.canonical
    else match f.spec with
      | .none => 0
      | .nanOnly => f.signBit s + (2 ^ (f.eb + f.mb) - 1)
      | .ieee => f.signBit s + (2 ^ f.eb - 1) * 2 ^ f.mb + (frac / 2 ^ (64 - f.mb) ||| 2 ^ (f.mb - 1))
  | _ => f.canonical

/-- The result of an overflow (R260). -/
def FloatFmt.overflow (f : FloatFmt) (neg : Bool) (mode : Mode) : Nat :=
  let big := f.signBit neg + f.maxBits
  match f.spec with
  | .none => big
  | .nanOnly => if mode.sat then big else f.signBit neg + (2 ^ (f.eb + f.mb) - 1)
  | .ieee =>
    let inf := f.signBit neg + (2 ^ f.eb - 1) * 2 ^ f.mb
    if mode.sat then big
    else match mode.rnd with
      | .rtz => big
      | .rup => if neg then big else inf
      | .rdn => if neg then inf else big
      | _ => inf

/-- An infinite value in a format (R260). -/
def FloatFmt.infBits (f : FloatFmt) (neg : Bool) (mode : Mode) : Nat :=
  match f.spec with
  | .ieee => f.signBit neg + (2 ^ f.eb - 1) * 2 ^ f.mb
  | _ => f.overflow neg mode

/-- A value rounded and written in a floating-point format (R259 to R262). -/
def FloatFmt.round (f : FloatFmt) (v : Val) (mode : Mode) (rnd : Nat) : Nat :=
  match v with
  | .fin neg m e =>
    if m = 0 then f.signBit neg
    else
      let q := max ((Nat.log2 m : Int) + e) f.emin - f.mb
      let n := roundUnits neg m e q mode.rnd rnd
      if n = 0 then f.signBit neg
      else
        let x := (Nat.log2 n : Int) + q
        if x < f.emin then (if mode.ftz ∧ f.flush then f.signBit neg else f.signBit neg + n)
        else
          let frac := n * 2 ^ (f.mb - Nat.log2 n) / 2 ^ (Nat.log2 n - f.mb) % 2 ^ f.mb
          let bits := (x + f.bias).toNat * 2 ^ f.mb + frac
          if f.maxBits < bits then f.overflow neg mode else f.signBit neg + bits
  | .inf neg => f.infBits neg mode
  | v => f.nanBits mode.can v

/-- An integer clamped to a format's range (R254). -/
def clampInt (bits : Nat) (signed : Bool) (i : Int) : Int :=
  if signed then max (-(2 ^ (bits - 1) : Int)) (min (2 ^ (bits - 1) - 1 : Int) i) else max 0 (min (2 ^ bits - 1 : Int) i)

/-- The pattern of an integer. -/
def intBits (bits : Nat) (i : Int) : Nat := (i % (2 ^ bits : Int)).toNat

/-- A value rounded to an integer format, clamped (R260, R264); a NaN gives 0 (R262). -/
def roundInt (bits : Nat) (signed : Bool) (v : Val) (mode : Rnd) (rnd : Nat) : Int :=
  match v with
  | .fin neg m e =>
    let n := roundUnits neg m e 0 mode rnd
    clampInt bits signed (if neg then -(n : Int) else n)
  | .inf neg => clampInt bits signed (if neg then -(2 ^ 80 : Int) else 2 ^ 80)
  | _ => 0

/-- A value as an E8M0 exponent (R263). -/
def toE8m0 (v : Val) : Nat :=
  match v with
  | .fin _ m _ => if m = 0 then 0 else (max 0 (min 254 (v.log2 + 127))).toNat
  | _ => 255

/-- A subnormal operand of a format that FTZ acts on reads as zero (R261). -/
def FloatFmt.flushIn (f : FloatFmt) (ftz : Bool) (x : Nat) : Nat :=
  if ftz ∧ f.flush ∧ x / 2 ^ f.mb % 2 ^ f.eb = 0 then x / 2 ^ (f.eb + f.mb) % 2 * 2 ^ (f.eb + f.mb) else x

/-- The value of an operand under FTZ. -/
def FloatFmt.read (f : FloatFmt) (ftz : Bool) (x : Nat) : Val := f.decode (f.flushIn ftz x)
/-- The value of an element under FTZ. -/
def Fmt.read (f : Fmt) (ftz : Bool) (x : Nat) : Val :=
  match f with
  | .fl f => f.read ftz x
  | f => f.decode x

/-- A value written in a format. -/
def Fmt.write (f : Fmt) (v : Val) (mode : Mode) (rnd : Nat) : Nat :=
  match f with
  | .fl f => f.round v mode rnd
  | .int n s => intBits n (roundInt n s v mode.rnd rnd)
  | .e8m0 => toE8m0 v

/-- One element converted between formats (R259 to R264). Between integer formats SAT clamps and otherwise the low
bits are kept. -/
def convert (src dst : Fmt) (x : Nat) (mode : Mode) (rnd : Nat) : Nat :=
  match src, dst with
  | .int n s, .int m t =>
    let i := intOf n s x
    intBits m (if mode.sat then clampInt m t i else i)
  | _, _ => dst.write (src.read mode.ftz x) mode rnd

/-! ### Exact arithmetic -/

/-- The signed integer of a finite value in units of 2^q, for q at most its exponent. -/
def Val.units (q : Int) : Val → Int
  | .fin s m e => let n : Int := (m * 2 ^ (e - q).toNat : Nat); if s then -n else n
  | _ => 0

/-- The exact sum: NaN operands first, ∞ − ∞ is a NaN, an exact zero of opposite signs is +0 (R190, R262, R273). -/
def Val.add (a b : Val) : Val :=
  match a, b with
  | .nan s f, _ => .nan s f
  | .canon, _ => .canon
  | _, .nan s f => .nan s f
  | _, .canon => .canon
  | .inf s, .inf t => if s = t then .inf s else .canon
  | .inf s, _ => .inf s
  | _, .inf t => .inf t
  | .fin s m e, .fin t n d =>
    if m = 0 ∧ n = 0 then .fin (s && t) 0 0
    else
      let q := min e d
      let i := Val.units q (.fin s m e) + Val.units q (.fin t n d)
      .fin (decide (i < 0)) i.natAbs q

/-- The exact product. -/
def Val.mul (a b : Val) : Val :=
  match a, b with
  | .nan s f, _ => .nan s f
  | .canon, _ => .canon
  | _, .nan s f => .nan s f
  | _, .canon => .canon
  | .inf s, .inf t => .inf (s != t)
  | .inf s, .fin t n _ => if n = 0 then .canon else .inf (s != t)
  | .fin s m _, .inf t => if m = 0 then .canon else .inf (s != t)
  | .fin s m e, .fin t n d => .fin (s != t) (m * n) (e + d)

/-- The first NaN among operands (R262). (DEDUCED, log entry 53: the order of NaN operands.) -/
def firstNaN : List Val → Option Val
  | [] => none
  | v :: r => if v.isNaN then some v else firstNaN r

/-- a · b + c exactly, the first NaN of a, b, c first. -/
def Val.fma (a b c : Val) : Val :=
  match firstNaN [a, b, c] with
  | some v => v
  | none => (a.mul b).add c

/-- a < b in the order in which −0 lies below +0 (R190). -/
def Val.below (a b : Val) : Bool :=
  match a, b with
  | .inf s, .inf t => s && !t
  | .inf s, _ => s
  | _, .inf t => !t
  | .fin s m e, .fin t n d =>
    if m = 0 ∧ n = 0 then s && !t else decide (Val.units (min e d) (.fin s m e) < Val.units (min e d) (.fin t n d))
  | _, _ => false

/-- a < b as numbers. -/
def Val.lt (a b : Val) : Bool :=
  match a, b with
  | .fin _ 0 _, .fin _ 0 _ => false
  | a, b => a.below b

/-- a = b as numbers. -/
def Val.eqv (a b : Val) : Bool := !a.isNaN && !b.isNaN && !a.lt b && !b.lt a

/-- The value without its sign. -/
def Val.abs (v : Val) : Val := v.withSign false

/-- 2^e times a value. -/
def Val.scale (v : Val) (k : Int) : Val :=
  match v with
  | .fin s m e => .fin s m (e + k)
  | v => v

/-! ### FRED (R190) -/

/-- The format of a FRED control field. -/
def fredFmt (ctl : BitVec 5) : FloatFmt :=
  match (ctl.extractLsb' 3 2).toNat with
  | 0 => fp32 | 1 => fp16 | 2 => bf16 | _ => fp64

/-- The result of a floating-point combine at an owner: op 0 ADD, 1 MIN, 2 MAX, rounded once by RNE. -/
def fredResult (f : FloatFmt) (op : Nat) (ftz can sat : Bool) (x y : Nat) : Nat :=
  let a := f.read ftz x
  let b := f.read ftz y
  let mode : Mode := { rnd := .rne, ftz, sat, can }
  match firstNaN [a, b] with
  | some v => f.round v mode 0
  | none =>
    if op = 0 then f.round (a.add b) mode 0
    else if op = 1 then f.round (if b.below a then b else a) mode 0
    else f.round (if a.below b then b else a) mode 0

/-! ### Generators (R267) -/

/-- One draw: the new state, whose bits [63:48] are the random word. -/
def genStep (g : Word) : Word :=
  let g : Word := if g = 0 then 0x9E3779B97F4A7C15 else g
  let g := g ^^^ (g <<< 13)
  let g := g ^^^ (g >>> 7)
  g ^^^ (g <<< 17)

/-- The random word of a state. -/
def genWord (g : Word) : Nat := (g.extractLsb' 48 16).toNat

/-! ### Blocks (R256 to R258, R268, R269) -/

/-- emax of an MX element format (R268); none for MXINT8. -/
def mxEmax : Option FloatFmt → Int
  | none => 0
  | some f => if f = e4m3 then 8 else if f = e5m2 then 15 else if f = e3m2 then 4 else 2

/-- The greatest log2 of the non-zero finite values of a list, if there is one. -/
def maxLog : List Val → Option Int
  | [] => none
  | v :: r =>
    match maxLog r with
    | none => if v.isZero then none else some v.log2
    | some x => if v.isZero then some x else some (max x v.log2)

/-- The scale byte that QuantiseMX chooses for a block of values (R268). -/
def mxScale (f : Option FloatFmt) (vs : List Val) : Nat :=
  if vs.any fun v => !v.isFin then 255
  else match maxLog vs with
    | none => 0
    | some l => (max 0 (min 254 (l - mxEmax f + 127))).toNat

/-- One element of QuantiseMX under a scale byte (R268). -/
def mxElem (f : Option FloatFmt) (x : Nat) (v : Val) (mode : Rnd) (rnd : Nat) : Nat :=
  if x = 255 then 0
  else
    let y := v.scale (127 - (x : Int))
    match f with
    | none => intBits 8 (max (-127) (min 127 (roundInt 16 true (y.scale 6) mode rnd)))
    | some f => if v.isZero then 0 else f.round y { rnd := mode, ftz := false, sat := true, can := false } rnd

/-- AlignBlock's exponent byte (R269). -/
def alignScale (vs : List Val) : Nat :=
  if vs.any fun v => !v.isFin then 255
  else match maxLog vs with
    | none => 0
    | some l => (max (l + 127) 0).toNat

/-- AlignBlock's mantissa of a value under an exponent byte (R269). -/
def alignElem (x : Nat) (v : Val) : Nat :=
  if x = 255 then 0
  else intBits 16 (max (-32767) (min 32767 (roundInt 32 true (v.scale (14 - ((x : Int) - 127))) .rne 0)))

end Sys2Proof.Machine
end

