-- ==== Sys2Proof/Machine/Operands.lean ====
section
/-! DEFINITION. The operand forms of control-core instructions: immediates (R115), shift amounts, bit fields (R161), targets
of branches and jumps (R164 to R166), effective addresses (R169), and the registers that an instruction reads (R151). -/
namespace Sys2Proof.Machine

/-- A signed 16-bit immediate at 64 bits (R115). -/
def simm (imm : BitVec 16) : Word := imm.signExtend 64
/-- An unsigned 16-bit immediate at 64 bits (R115). -/
def zimm (imm : BitVec 16) : Word := imm.zeroExtend 64
/-- The 1 or 0 that a comparison writes (R154). -/
def flag (c : Bool) : Word := if c then 1 else 0
/-- The shift amount of a register operand: b[5:0] (R154). -/
def shamt (b : Word) : Nat := (b.extractLsb' 0 6).toNat
/-- A 32-bit result, sign-extended (R154). -/
def sext32 (v : Word) : Word := (v.extractLsb' 0 32).signExtend 64
/-- The effective address of a load or store: a + SInt(imm16) (R170). -/
def effAddr (a : Word) (imm : BitVec 16) : Word := a + simm imm
/-- The target of a branch: PC + 4 · SInt(off16) (R164). -/
def branchTarget (pc : Word) (off : BitVec 16) : Word := pc + 4 * off.signExtend 64
/-- The target of JAL: PC + 4 · SInt(off21) (R165). -/
def jalTarget (pc : Word) (off : BitVec 21) : Word := pc + 4 * off.signExtend 64
/-- The mask of a field of w + 1 bits at position p (R161). -/
def fieldMask (w p : BitVec 6) : Word := BitVec.ofNat 64 ((2 ^ (w.toNat + 1) - 1) * 2 ^ p.toNat)
/-- The field of w + 1 bits at position p, at the bottom of a word (R161). -/
def fieldOf (a : Word) (w p : BitVec 6) : Word := (a &&& fieldMask w p) >>> p.toNat
/-- A value of w + 1 bits, sign-extended (R161). -/
def sextField (v : Word) (w : BitVec 6) : Word :=
  (v <<< (63 - w.toNat)).sshiftRight (63 - w.toNat)
/-- A word of w + 1 bits put at position p of `t` (R161). -/
def putField (t a : Word) (w p : BitVec 6) : Word :=
  (t &&& ~~~ fieldMask w p) ||| ((a <<< p.toNat) &&& fieldMask w p)
/-- BitLen(x): the bits of x without leading zeros (R150). -/
def bitLen (x : Nat) : Nat := if x = 0 then 0 else Nat.log2 x + 1
/-- The number of one bits among the lowest `n` of `x`. -/
def onesBelow (x : Nat) : Nat → Nat
  | 0 => 0
  | n + 1 => onesBelow x n + (if x.testBit n then 1 else 0)
/-- The position of the lowest one bit among the `n` bits from `i` on; `i + n` when there is none. -/
def lowestOne (x : Nat) : Nat → Nat → Nat
  | 0, i => i
  | n + 1, i => if x.testBit i then i else lowestOne x n (i + 1)
/-- The bytes of a word in the opposite order (R154). -/
def swapBytes (a : Word) : Word :=
  a.extractLsb' 0 8 ++ a.extractLsb' 8 8 ++ a.extractLsb' 16 8 ++ a.extractLsb' 24 8 ++
  a.extractLsb' 32 8 ++ a.extractLsb' 40 8 ++ a.extractLsb' 48 8 ++ a.extractLsb' 56 8

/-- The registers that an instruction reads, for the interlock of R151. -/
def readsOf : Instr → List (BitVec 5)
  | .clz _ ra | .ctz _ ra | .popc _ ra | .bswap _ ra => [ra]
  | .cmovnz rd ra rb | .cmovz rd ra rb => [rd, ra, rb]
  | .add _ ra rb | .sub _ ra rb | .and _ ra rb | .or _ ra rb | .xor _ ra rb | .andn _ ra rb | .sll _ ra rb
  | .srl _ ra rb | .sra _ ra rb | .slt _ ra rb | .sltu _ ra rb | .min _ ra rb | .max _ ra rb | .minu _ ra rb
  | .maxu _ ra rb | .mul _ ra rb | .mulh _ ra rb | .mulhu _ ra rb | .div _ ra rb | .divu _ ra rb | .rem _ ra rb
  | .remu _ ra rb | .addw _ ra rb | .subw _ ra rb | .mulw _ ra rb | .lea _ ra rb _ => [ra, rb]
  | .addi _ ra _ | .andi _ ra _ | .ori _ ra _ | .xori _ ra _ | .slti _ ra _ | .sltiu _ ra _ | .slli _ ra _
  | .srli _ ra _ | .srai _ ra _ | .rori _ ra _ | .lih _ ra _ | .xtz _ ra _ _ | .xts _ ra _ _ => [ra]
  | .ins rd ra _ _ => [rd, ra]
  | .madd _ ra rb rc => [ra, rb, rc]
  | .ldb _ ra _ | .ldbu _ ra _ | .ldh _ ra _ | .ldhu _ ra _ | .ldw _ ra _ | .ldwu _ ra _ | .ldd _ ra _
  | .jalr _ ra _ | .ldAcq _ ra _ => [ra]
  | .stb rd ra _ | .sth rd ra _ | .stw rd ra _ | .std rd ra _ | .stRel rd ra _ => [rd, ra]
  | .waitNe _ ra rb _ | .waitEq _ ra rb _ | .waitGe _ ra rb _ => [ra, rb]
  | .amoAdd _ ra rb _ | .amoAnd _ ra rb _ | .amoOr _ ra rb _ | .amoXor _ ra rb _ | .amoMin _ ra rb _
  | .amoMax _ ra rb _ | .amoMinu _ ra rb _ | .amoMaxu _ ra rb _ | .amoSwap _ ra rb _ => [ra, rb]
  | .amoCas rd ra rb _ => [rd, ra, rb]
  | .fredAdd _ ra rb _ | .fredMin _ ra rb _ | .fredMax _ ra rb _ => [ra, rb]
  | .beq ra rb _ | .bne ra rb _ | .blt ra rb _ | .bge ra rb _ | .bltu ra rb _ | .bgeu ra rb _ => [ra, rb]
  | .semdef ra _ | .semp _ ra _ | .semtry _ ra _ | .semset ra _ | .bardef ra _ | .chain _ ra _ | .chwait _ ra _
  | .chkill _ ra _ | .gcfg _ ra _ | .mxlease _ ra _ _ | .chselProbe _ ra | .pgreq _ ra | .resq _ ra | .pkrw _ ra
  | .waitt _ ra _ | .mts ra _ => [ra]
  | .semv ra rb _ | .tlbinv ra rb _ => [ra, rb]
  | _ => []

/-- The tick from which every register of a list can be read (R151). -/
def Core.readyAt (c : Core) (now : Nat) : List (BitVec 5) → Nat
  | [] => now
  | r :: l => max (c.readyAt now l) (if r = 0 then 0 else kget 0 c.ready r.toNat)

/-- The tick from which the current core can read the registers that an instruction reads (R151). -/
def State.readyFor (s : State) (i : Instr) : Nat := (s.core s.cur).readyAt s.tick (readsOf i)

/-- The instruction writes `v` to `rd`, occupies the core for `n` ticks, and its result is ready `stall` ticks later
(R151). -/
def writeRdLate (s : State) (rd : BitVec 5) (v : Word) (n stall : Nat) : Res :=
  let s := s.finish rd v n
  .next (s.modCore s.cur fun c => { c with ready := kset c.ready rd.toNat (c.busy + s.throttled (dieOf s.cur) stall) })

end Sys2Proof.Machine
end

