-- ==== Sys2Proof/Machine/Requests.lean ====
section
/-! DEFINITION. The requests of a control core: how one is issued, applied at its target, answered and completed (R171 to R178,
R181 to R191). -/
namespace Sys2Proof.Machine

/-! ### Fields of a request -/

/-- Bytes of a FRED operand (R180). -/
def fredBytes (ctl : BitVec 5) : Nat := (fredFmt ctl).width / 8

/-- Bytes of a request. -/
def ReqOp.size : ReqOp → Nat
  | .load n _ => n
  | .store n _ => n
  | .fred _ ctl _ => fredBytes ctl
  | _ => 8

/-- The request writes. -/
def ReqOp.writes : ReqOp → Bool
  | .store _ _ => true
  | .rel _ => true
  | .amo _ _ _ => true
  | .fred _ _ _ => true
  | _ => false

/-- A request as the compare buffer of a PAIR task compares it: target, data, size and mask (R434). -/
def Request.image (r : Request) : List Nat :=
  let head := [r.ea.toNat, r.op.size, r.obs.toNat, r.pkr.toNat]
  match r.op with
  | .load _ _ => head ++ [0]
  | .store _ v => head ++ [1, v]
  | .acq => head ++ [2]
  | .rel v => head ++ [3, v.toNat]
  | .wait c b => head ++ [4, c.toNat, b.toNat]
  | .amo o b e => head ++ [5, o.toNat, b.toNat, e.toNat]
  | .fred o c b => head ++ [6, o.toNat, c.toNat, b.toNat]

/-! ### Applying a request at its target -/

/-- The new doubleword of an atomic, or none when nothing is written (R187). -/
def amoNew (op : BitVec 4) (old b expect : Word) : Option Word :=
  match op.toNat with
  | 0 => some (old + b)
  | 1 => some (old &&& b)
  | 2 => some (old ||| b)
  | 3 => some (old ^^^ b)
  | 4 => some (if old.toInt ≤ b.toInt then old else b)
  | 5 => some (if b.toInt ≤ old.toInt then old else b)
  | 6 => some (if old.toNat ≤ b.toNat then old else b)
  | 7 => some (if b.toNat ≤ old.toNat then old else b)
  | 8 => some b
  | _ => if old = expect then some b else none

/-- The result of FRED on the pattern at the owner (R190). -/
def fredNew (op : BitVec 2) (ctl : BitVec 5) (b : Word) (x : Nat) : Nat :=
  let f := fredFmt ctl
  fredResult f op.toNat (ctl.getLsbD 0) (ctl.getLsbD 1) (ctl.getLsbD 2) x (b.toNat % 2 ^ f.width)

/-- The outcome of a read (R171, R181). -/
def Got.out (f : List Byte → AccOut) : Got → AccOut
  | .bytes l => f l
  | .zero => .zeroFill
  | .park _ => .parked
  | .trap c => .trap c
  | .poison _ => .trap .poison
  | .busy => .busy

/-- The outcome of a write. -/
def Put.out : Put → AccOut
  | .done => .done
  | .zero => .zeroFill
  | .park _ => .parked
  | .trap c => .trap c
  | .busy => .busy

/-- The RoCEv2 operation that an atomic becomes at a peer (R239). -/
def ReqOp.net : ReqOp → Option RoceOp
  | .amo o b e => if o = 0 then some (.fetchAdd b) else if o = 9 then some (.cmpSwap e b) else none
  | _ => none

/-- The owner at which an access parks, from its address. -/
def parkOwner (ea : Word) : Nat := min (ownerOf ea) 4

/-- A parked outcome takes an entry of the owner's park queue (R236). -/
def State.noteParked (s : State) (who : Who) (ea : Word) (kind : AccKind) (out : AccOut) : State :=
  match out with
  | .parked => s.parkAt (parkOwner ea) who ea kind
  | _ => s

/-- A write to the tile memory of another tile ends that tile's IDLE (R217). -/
def State.touchTile (s : State) (P : TileId) (ea : Word) : State :=
  if tagOf ea = 0xF1 then
    match s.mapTile P (vtOf ea) with
    | some Q => if Q = P then s else s.modTile Q fun t => { t with wake := true }
    | none => s
  else s

/-- The condition of WAIT.NE, WAIT.EQ and WAIT.GE (R186). -/
def waitCond (cond : BitVec 2) (v b : Word) : Bool :=
  match cond.toNat with
  | 0 => v != b
  | 1 => v == b
  | _ => !(v - b).msb

/-- The wait of a core has lasted WTO.TICKS (R97). -/
def Core.expired (c : Core) (now since : Nat) : Bool := c.wtoTicks != 0 && decide (c.wtoTicks ≤ now - since)

/-- The wait of a core has lasted longer than WTO.TICKS: what comes now comes after the tick in which it expired, and a wait that was
met in that tick has succeeded (R97, R194, R199). -/
def Core.overdue (c : Core) (now since : Nat) : Bool := c.wtoTicks != 0 && decide (c.wtoTicks < now - since)

/-- When the wait of core P at PC began: now, unless it waits already. -/
def State.waitSince (s : State) (P : TileId) : Nat :=
  match (s.core P).run with
  | .waiting _ _ t => t
  | _ => s.tick

/-- The wait of core P has expired in an earlier tick. -/
def State.waitOver (s : State) (P : TileId) : Bool := (s.core P).overdue s.tick (s.waitSince P)

/-- A read that returns `v` ends its instruction: of a WAIT, one that meets the condition, or that meets its expiry without a trap (R186).
(DEDUCED, log entry 45: a wait that times out acquires.) -/
def State.readEnds (s : State) (P : TileId) (r : Request) (v : Word) : Bool :=
  match r.op with
  | .wait cond b => waitCond cond v b || ((s.core P).expired s.tick (s.waitSince P) && !(s.core P).wtoTraps)
  | _ => true

/-- A read of the core (R171, R224): only a plain load may hit the remote-line cache. One with an observer mask acquires from
it the releases that the value carries (R183, R379); of a WAIT the read that ends it does (R380). -/
def State.applyRead (s : State) (P : TileId) (r : Request) (n : Nat) (rlc : Bool) : State × AccOut × Nat :=
  let who := s.who P 0 r.pkr
  let (s, g, t) := s.readBy r.tag.isNone who r.ea n .read true rlc
  let out := g.out fun l => .value (BitVec.ofNat 64 (leNat l))
  let s := match out with
    | .value v => if s.readEnds P r v then s.acquireVa (.core P) who r.obs r.ea else s
    | _ => s
  (s.noteParked who r.ea .read out, out, t)

/-- The release of an applied write of the core to its mask (R380, R383), with the clock `c` that its agent's earlier accesses
have, and what becomes of the release sequence of its location, which was `old` before the write (R379). -/
def State.noteRelease (s : State) (P : TileId) (who : Who) (r : Request) (c : Clock) (old : List Rel) (atomic : Bool) : State :=
  let s := if r.obs = 0 then s else s.releaseOf (.core P) r.obs c
  if r.obs = 0 ∧ old.isEmpty then s
  else match s.globalOf who r.ea .write with
    | some g => if atomic then s.goOnRel old (.core P) r.obs c g else s.beginRel (.core P) r.obs c g
    | none => s

/-- The releases that the value at the request's address carries. -/
def State.relsOf (s : State) (who : Who) (r : Request) : List Rel :=
  match s.globalOf who r.ea .read with
  | some g => s.relsAt g
  | none => []

/-- A write of the core: a plain store is discarded by a zero-fill page, and ST.REL parks there (R171, R181). Once every earlier
access has completed, ST.REL takes one tick (R182). -/
def State.applyWrite (s : State) (P : TileId) (r : Request) (n v : Nat) (zf : Bool) : State × AccOut × Nat :=
  let who := s.who P 0 r.pkr
  let go (s : State) : State × AccOut × Nat :=
    let c := s.carried (.core P) r.obs
    let (s, p, t) := s.writeVa who r.ea (leBytes n v) zf
    let s := if p = .done then (s.noteRelease P who r c [] false).wroteTile P r.ea n else s
    (s.noteParked who r.ea .write p.out, p.out, if tagOf r.ea = 0xF0 ∨ tagOf r.ea = 0xF2 ∨ !zf then 1 else t)
  let (s, out, t) := if s.crosses P r.ea && tagOf r.ea != 0xF2 then s.onceAt P r.ea (r.tag.getD 0) (s.timeTo who r.ea .write) go else go s
  (if out = .done then s.touchTile P r.ea else s, out, t)

/-- An atomic or a FRED of the core, once under its tag, in recorded order under replay, and logged under record (R188,
R191, R464). With a mask it is a release and, but for FRED, an acquire; a failed AMO.CAS is an acquire only (R187, R380). -/
def State.applyCombine (s : State) (P : TileId) (r : Request) (n extra : Nat) (f : Nat → Option Nat) :
    State × AccOut × Nat :=
  let who := s.who P 0 r.pkr
  let tag := r.tag.getD 0
  s.onceAt P r.ea tag (s.timeTo who r.ea .rmw + extra) fun s0 =>
    if s0.orderHeld P r.ea tag then (s0, .busy, 0)
    else
      let c := s0.carried (.core P) r.obs
      let old := s0.relsOf who r
      match s0.rmwVa who r.ea n f r.op.net with
      | (s, .bytes l, t) =>
        match s.orderLog P r.ea tag (match r.op with | .amo o _ _ => o.toNat + 6 | .fred o _ _ => o.toNat + 16 | _ => 0) with
        | some s =>
          let s := match r.op with
            | .fred _ _ _ => s
            | _ => if r.obs = 0 then s else s.acquireFrom (.core P) r.obs old
          let s := if (f (leNat l)).isSome then (s.noteRelease P who r c old true).touchTile P r.ea else s
          (s, .value (BitVec.ofNat 64 (leNat l)), t + extra)
        | none => (s0, .busy, 0)
      | (s, g, t) =>
        let out := g.out fun _ => .done
        (s.noteParked who r.ea .rmw out, out, t + extra)

/-- A request is applied at its target (R171): the outcome, and the ticks it takes (R182, R222). -/
def State.applyReq (s : State) (P : TileId) (r : Request) : State × AccOut × Nat :=
  match r.op with
  | .load n _ => s.applyRead P r n true
  | .store n v => s.applyWrite P r n v true
  | .acq => s.applyRead P r 8 false
  | .rel v => s.applyWrite P r 8 v.toNat false
  | .wait _ _ => s.applyRead P r 8 false
  | .amo o b e => s.applyCombine P r 8 1 fun x => (amoNew o (BitVec.ofNat 64 x) b e).map BitVec.toNat
  | .fred o c b => s.applyCombine P r (fredBytes c) 4 fun x => some (fredNew o c b x)

/-! ### Completing a request -/

/-- Core P waits at its instruction, with its request. -/
def State.holdReq (s : State) (P : TileId) (i : Instr) (k : WaitKind) (r : Request) (reply : Option AccOut) : State :=
  let since := s.waitSince P
  s.modCore P fun c => { c with run := .waiting i k since, flight := some { req := r, reply } }

/-- The value that a load forms from the bytes read (R169). -/
def loadValue (n : Nat) (signed : Bool) (v : Word) : Word :=
  if signed then BitVec.ofInt 64 (intOf (8 * n) true v.toNat) else v

/-- The instruction of core P completes with nothing written. -/
def State.complete (s : State) (P : TileId) : State := s.modCore P fun c => c.goto (c.pc + 4)

/-- The core of tile P no longer has a request. -/
def State.landReq (s : State) (P : TileId) : State := s.modCore P fun c => { c with flight := none, atomTag := none }

/-- A WAIT has read `v` (R186). Its next read is a request of its own (R394).
(DEDUCED, log entry 45: a wait that times out acquires.) -/
def State.waitRead (s : State) (P : TileId) (i : Instr) (r : Request) (cond : BitVec 2) (b v : Word) : State :=
  if waitCond cond v b then (s.landReq P).completeAt P r.rd v
  else if (s.core P).expired s.tick (s.waitSince P) then
    (if (s.core P).wtoTraps then s.raiseCore P .waitto r.ea else (s.landReq P).completeAt P r.rd v)
  else s.holdReq P i .memChange { r with tag := none } none

/-- A request of core P has the outcome `out` (R171, R181). -/
def State.answer (s : State) (P : TileId) (i : Instr) (r : Request) (out : AccOut) : State :=
  match out with
  | .trap c => s.raiseCore P c r.ea
  | .parked => s.holdReq P i .parked r none
  | .busy => s.holdReq P i .flight r none
  | .done => (s.landReq P).complete P
  | .zeroFill =>
    let s := s.setResfCore P
    match r.op with
    | .load _ _ => (s.landReq P).completeAt P r.rd 0
    | .acq => (s.landReq P).completeAt P r.rd 0
    | .wait cond b => s.waitRead P i r cond b 0
    | _ => (s.landReq P).complete P
  | .value v =>
    match r.op with
    | .load n sg => (s.landReq P).completeAt P r.rd (loadValue n sg v)
    | .acq => (s.landReq P).completeAt P r.rd v
    | .wait cond b => s.waitRead P i r cond b v
    | .amo _ _ _ => (s.landReq P).completeAt P r.rd v
    | _ => (s.landReq P).complete P

/-- The ticks by which a trailing tile is behind its leading one (R85, R434). -/
def pairLag : Nat := 64

/-- The outcome reaches core P, `n` ticks from now, and that of an outbound request its trailing twin 64 ticks later, under PAIR
(R434). -/
def State.deliver (s : State) (P : TileId) (i : Instr) (r : Request) (out : AccOut) (n : Nat) : State :=
  let both := s.outbound P r.ea
  let s := s.answer P i r out
  match (s.core P).run, (if both then s.follower P else none) with
  | .waiting _ _ _, _ => s
  | _, none => s
  | _, some Q =>
    match (s.core Q).run with
    | .waiting j .pair _ => (s.answer Q j r out).occupy Q (n + pairLag)
    | _ => s

/-! ### Issuing a request -/

/-- A plain load that the remote-line cache of its die serves crosses no link (R224, R394). -/
def State.nearLoad (s : State) (P : TileId) (r : Request) : Bool :=
  match r.op with
  | .load _ _ => tagOf r.ea == 0x00 && decide (ownerOf r.ea < 4) && (s.rlcHit P (s.who P 0 r.pkr) r.ea).isSome
  | _ => false

/-- A tag for a request that needs one, an atomic or one that crosses a link: the one that a pre-emption saved, or a fresh one (R189,
R394). -/
def State.tagFor (s : State) (P : TileId) (r : Request) : State × Request :=
  if r.op.once then
    match (s.core P).atomTag with
    | some t => (s, { r with tag := some t })
    | none =>
      let (s, t) := s.takeTag P
      (s, { r with tag := some t })
  else if s.crosses P r.ea && !(s.tile P).trailing && !s.nearLoad P r then
    let (s, t) := s.takeTag P
    (s, { r with tag := some t })
  else (s, r)

/-- An address of tile P is remote to it for a write: another tile's memory, or memory that another die owns (R198). -/
def State.remoteTo (s : State) (P : TileId) (va : Word) : Bool :=
  if tagOf va = 0x00 then decide (ownerOf va < 4 ∧ ownerOf va ≠ dieOf P)
  else tagOf va == 0xF1 && s.mapTile P (vtOf va) != some P

/-- The request must wait at its source: the source has 4,096 unacknowledged requests at the owner (R395), or its tile's
unacknowledged remote bytes would exceed 1 MiB (R198). -/
def State.mustWait (s : State) (P : TileId) (r : Request) : Bool :=
  ((r.op.once || (r.op.writes && s.crosses P r.ea)) && s.tagsFull P r.ea) ||
  (r.op.writes && s.remoteTo P r.ea && decide (2 ^ 20 < (s.tile P).pending.toNat + r.op.size))

/-- The request must wait: the fabric holds it, or its source does. (DESIGN CHOICE, log entry 4: when a request stays in flight.) -/
def State.heldBack (s : State) (P : TileId) (r : Request) : Bool := s.holds || s.mustWait P r

/-- A request of core P leaves it: it is applied and answered at once, or it is on its way. The second component is the
time. -/
def State.sendReq (s : State) (P : TileId) (i : Instr) (r : Request) : State × Nat :=
  if s.heldBack P r then (s.holdReq P i .flight r none, 0)
  else
    let (s, out, n) := s.applyReq P r
    (s.deliver P i r out n, n)

/-- The instruction `i` of the current core issues a request whose local checks it has passed. -/
def issueReq (s : State) (i : Instr) (r : Request) : Res :=
  let P := s.cur
  let gate : State × PairGo := if s.outbound P r.ea then s.pairGate P 0 r.image else (s, .go P)
  match gate with
  | (s, .wait) => .next (s.holdReq P i .pair r none)
  | (s, .mismatch) => .next (s.pairMismatch P)
  | (s, .go L) =>
    let since := s.waitSince P
    let s := if L = P then s else s.modCore P fun c => { c with run := .waiting i .pair since, flight := none }
    let (s, r) := s.tagFor L r
    let (s, n) := s.sendReq L i r
    .next (s.occupy L n)

/-- A load or store: the local checks of R170, then the request. -/
def access (s : State) (i : Instr) (rd : BitVec 5) (ea : Word) (op : ReqOp) : Res :=
  match s.localCheck s.cur ea op.size with
  | some c => trapTo s c ea
  | none => issueReq s i { rd, ea, op, obs := 0, pkr := (s.core s.cur).pkr, tag := none }

/-- The request of a MEMO operation may go to owner 5 (R180). -/
def ReqOp.peerOk : ReqOp → Bool
  | .amo o _ _ => o == 0 || o == 9
  | .fred _ _ _ => false
  | _ => true

/-- A MEMO access: the checks of R180, then the request. -/
def memo (s : State) (i : Instr) (rd : BitVec 5) (ea : Word) (obs : BitVec 6) (op : ReqOp) : Res :=
  if tagOf ea = 0xF2 then trapTo s .badaddr ea
  else match s.localCheck s.cur ea op.size with
    | some c => trapTo s c ea
    | none =>
      if tagOf ea = 0x00 ∧ ownerOf ea = 5 ∧ op.peerOk = false then trapTo s .badaddr ea
      else issueReq s i { rd, ea, op, obs, pkr := (s.core s.cur).pkr, tag := none }

end Sys2Proof.Machine
end

