-- ==== Sys2Proof/Machine/Sync.lean ====
section
/-! DEFINITION. Semaphores (R103), regions (R34, R35) and barrier units (R197, R198): the operations that the instructions, the
engines and the arrivals share. -/
namespace Sys2Proof.Machine

/-! ### The queues of semaphores (R103) -/

/-- The head of a semaphore's queue. -/
def Tile.semHead (t : Tile) (n : BitVec 6) : Option Waiter := t.waiters.find? fun w => w.sem == n

/-- A wait at the end of a semaphore's queue can be granted now: nobody queues before it and the value suffices. -/
def State.semReady (s : State) (P : TileId) (n : BitVec 6) (c : BitVec 32) : Bool :=
  ((s.tile P).semHead n).isNone && decide (c.toNat ≤ (s.sem P n).toNat)

/-- The value loses a count. -/
def State.semTake (s : State) (P : TileId) (n : BitVec 6) (c : BitVec 32) : State := s.setSem P n (s.sem P n - c)

/-- A wait joins the tail of its semaphore's queue. -/
def State.semJoin (s : State) (P : TileId) (w : Waiter) : State :=
  s.modTile P fun t => { t with waiters := t.waiters ++ [w] }

/-- The waits of a waiter leave their queues. -/
def State.semLeave (s : State) (P : TileId) (who : WaitWho) : State :=
  s.modTile P fun t => { t with waiters := t.waiters.filter fun w => w.who != who }

/-! ### Regions (R34, R35) -/

/-- The descriptor of 32 bytes, if it breaks no condition of R34. -/
def regionOf (l : List Byte) : Option RegionDesc :=
  let w (off n : Nat) : Nat := leNat ((l.drop off).take n)
  let base := w 0 4
  let slotb := w 4 4
  let nslot := w 8 1
  let full := w 9 1
  let free := w 10 1
  let obs := w 11 1
  let rfl_ := w 16 2
  if base % 64 = 0 ∧ base < 2 ^ 19 ∧ slotb % 64 = 0 ∧ 64 ≤ slotb ∧ slotb ≤ 524288 ∧ 1 ≤ nslot ∧ nslot ≤ 16 ∧
      full < 64 ∧ free < 64 ∧ full ≠ free ∧ obs < 64 ∧ obs ≠ 0 ∧ rfl_ < 4 ∧ w 18 14 = 0 ∧
      base + slotb * nslot ≤ 524288 then
    some { base := BitVec.ofNat 19 base, slotb := BitVec.ofNat 20 slotb, nslot := BitVec.ofNat 5 nslot,
           full := BitVec.ofNat 6 full, free := BitVec.ofNat 6 free, obs := BitVec.ofNat 6 obs,
           gen := BitVec.ofNat 32 (w 12 4), byteMode := rfl_ % 2 == 1, init := rfl_ / 2 == 1 }
  else none

/-- Region id of tile P. -/
def State.region (s : State) (P : TileId) (id : BitVec 5) : Option Region := (s.tile P).regions[id.toNat]'id.isLt

/-- A region of tile P changes. -/
def State.setRegion (s : State) (P : TileId) (id : BitVec 5) (r : Region) : State :=
  s.modTile P fun t => { t with regions := t.regions.set id.toNat (some r) id.isLt }

/-- A region right after its binding (R193). -/
def Region.bound (d : RegionDesc) : Region :=
  { desc := d, f := d.gen, c := d.gen, tags := Vector.replicate 16 ((d.gen - 1).truncate 8), pending := 0, holds := [] }

/-- A region id is bound to a descriptor, and with INIT its semaphores are set (R34, R193). -/
def State.bindRegion (s : State) (P : TileId) (id : BitVec 5) (d : RegionDesc) : State :=
  let s := s.setRegion P id (Region.bound d)
  if d.init then (s.semStore P d.free (d.nslot.zeroExtend 32)).semStore P d.full 0 else s

/-! ### Barriers (R197 to R199) -/

/-- The unit of a task. -/
def Task.barUnit (k : Task) (u : BarKey) : BarUnit :=
  match k.bars.find? fun p => p.1 == u with
  | some p => p.2
  | none => { count := 0, arrivals := 0, next := 0, epoch := 0, pending := 0, clock := Clock.zero }

/-- The unit of a task becomes `b`. -/
def Task.setBar (k : Task) (u : BarKey) (b : BarUnit) : Task :=
  { k with bars := (u, b) :: k.bars.filter fun p => p.1 != u }

/-- The unit of tile P's task. -/
def State.barUnit (s : State) (P : TileId) (u : BarKey) : BarUnit :=
  match s.taskOf P with
  | some k => k.barUnit u
  | none => { count := 0, arrivals := 0, next := 0, epoch := 0, pending := 0, clock := Clock.zero }

/-- The mask of a unit: CL, DI or PK (R197). -/
def barMask : BarKey → BitVec 6
  | .cluster _ _ _ => 2
  | .die _ _ => 4
  | .package _ _ => 8

/-- The BARDEF operand word is well formed (R197). -/
def bardefOk (w : Word) : Bool :=
  let count := (w.extractLsb' 16 11).toNat
  let scope := w.extractLsb' 0 2
  w.extractLsb' 27 37 == 0 && w.extractLsb' 12 4 == 0 && w.extractLsb' 2 6 == 0 && scope != 3 &&
  decide (1 ≤ count ∧ count ≤ (if scope = 0 then 16 else 1024))

/-- The unit that a BARDEF word of tile P names (R197). (DEDUCED, log entry 25: units of TWIN copies.) -/
def State.barKeyOf (s : State) (P : TileId) (w : Word) : BarKey :=
  let t := s.tile P
  let task := t.task.getD 0
  let u := w.extractLsb' 8 4
  match (w.extractLsb' 0 2).toNat with
  | 0 => .cluster task (t.vt.extractLsb' 4 6 + if t.copy then 32 else 0) u
  | 1 => .die task u
  | _ => .package task u

/-- The handle n of tile P. -/
def State.handle (s : State) (P : TileId) (n : BitVec 4) : Option BarHandle := (s.tile P).bars[n.toNat]'n.isLt

/-- The handle n of tile P becomes `h`. -/
def State.setHandle (s : State) (P : TileId) (n : BitVec 4) (h : BarHandle) : State :=
  s.modTile P fun t => { t with bars := t.bars.set n.toNat (some h) n.isLt }

/-- The tile's arrival through a handle has not been released (R199). -/
def State.arrivalStands (s : State) (P : TileId) (h : BarHandle) : Bool :=
  h.arrived && !(h.epoch - (s.barUnit P h.unit).epoch).msb

/-- An arrival at a unit (R198): the tile's unacknowledged bytes are added to the counter; an arrival that finds the
count complete belongs to the next epoch. The unit keeps what the arrival's release carries (R391). The second component is the
epoch of the arrival. -/
def State.arrive (s : State) (P : TileId) (h : BarHandle) : State × BitVec 32 :=
  let b := s.barUnit P h.unit
  let pend := (s.tile P).pending
  let full := b.arrivals = b.count.toNat
  let b := { b with clock := clockMax b.clock (s.carried (.core P) (barMask h.unit)) }
  let b' : BarUnit :=
    if full then { b with next := b.next + 1, pending := b.pending + pend }
    else { b with arrivals := b.arrivals + 1, pending := b.pending + pend }
  let s := s.modTaskOf P fun k => k.setBar h.unit b'
  let s := { s with transit := s.transit.map fun x => if x.tile = P then { x with units := h.unit :: x.units } else x }
  (s, if full then b.epoch + 1 else b.epoch)

/-- The task of a unit. -/
def barTask : BarKey → Nat
  | .cluster t _ _ => t
  | .die t _ => t
  | .package t _ => t

/-- A unit has all its arrivals and no pending byte (R198). -/
def BarUnit.due (b : BarUnit) : Bool := decide (b.arrivals = b.count.toNat) && b.count != 0 && b.pending == 0

/-- The handle that the core of a tile waits on in BARW or BARAW. -/
def Core.barWait (c : Core) : Option (BitVec 5 × BitVec 4) :=
  match c.run with
  | .waiting (.barw rd n) .bar _ => some (rd, n)
  | .waiting (.baraw rd n) .bar _ => some (rd, n)
  | _ => none

/-- A wait on a unit's epoch synchronises with the arrivals of it (R391). -/
def State.acquireBar (s : State) (P : TileId) (u : BarKey) : State := s.mustSee (.core P) (s.barUnit P u).clock

/-- A release reaches a tile: a handle of the unit ends its IDLE, and a core whose arrival it releases goes on, unless its wait has
expired before (R199). -/
def State.barReach (s : State) (u : BarKey) (P : TileId) : State :=
  let names := (s.tile P).bars.toList.any fun h => match h with | some h => h.unit == u | none => false
  let s := if names then s.modTile P fun t => { t with wake := true } else s
  match (s.core P).barWait with
  | some (rd, n) =>
    match s.handle P n with
    | some h =>
      if h.unit = u ∧ s.arrivalStands P h = false ∧ s.waitOver P = false then (s.acquireBar P u).completeAt P rd 1 else s
    | none => s
  | none => s

/-- A unit releases: its epoch advances, and arrivals of the next epoch count (R198). -/
def BarUnit.released (b : BarUnit) : BarUnit := { b with arrivals := b.next, next := 0, epoch := b.epoch + 1 }

/-! ### Instructions that a PAIR task makes once -/

/-- An operation of tile P's core that is outbound under PAIR (R434): compared, then done on both tiles. -/
def pairedBoth (s : State) (i : Instr) (what : List Nat) (f : State → TileId → State) : Res :=
  let P := s.cur
  match s.pairGate P 0 what with
  | (s, .wait) =>
    let since := s.waitSince P
    .next (s.modCore P fun c => { c with run := .waiting i .pair since })
  | (s, .mismatch) => .next (s.pairMismatch P)
  | (s, .go L) =>
    let s' := f s L
    match s.follower L with
    | some Q => .next ((f s' Q).occupy Q pairLag)
    | none => .next s'

end Sys2Proof.Machine
end

