-- ==== Sys2Proof/Machine/Pages.lean ====
section
/-! DEFINITION. Retrying parked accesses (R175, R209, R237), the shadow frames of TWIN tasks (R436) and removing translations
(R210, R230). -/
namespace Sys2Proof.Machine

/-! ### Copies of lines -/

/-- One line of a die's memory copied under its leaf; poison travels with it (R250). -/
def State.copyLine (s : State) (d src dst : Nat) (leaf : Word) : State :=
  match s.readDie d src 64 leaf with
  | (s, .bytes l) => (s.writeDie d dst leaf l).1
  | (s, _) => s.mark (lineOf (gDie d dst))

/-- `n` lines copied upwards. -/
def State.copyLines (d : Nat) (leaf : Word) : Nat → State → Nat → Nat → State
  | 0, s, _, _ => s
  | n + 1, s, src, dst => State.copyLines d leaf n (s.copyLine d src dst leaf) (src + 64) (dst + 64)

/-! ### Shadow frames (R436) -/

/-- The shadow frames that live on a die. -/
def State.shadowFrames (s : State) (d : Nat) : List Nat :=
  s.tasks.flatMap fun p => (p.2.shadows.filter fun x => ownerOf x.block == d).map fun x => x.frame

/-- A free 64 KiB frame at the top of a die's HBM. -/
def State.freeFrame (s : State) (d : Nat) : Nat :=
  let used := s.shadowFrames d
  let at_ (i : Nat) : Nat := 0x1800000000 - 65536 * (i + 1)
  match (List.range (used.length + 1)).find? fun i => !used.contains (at_ i) with
  | some i => at_ i
  | none => at_ used.length

/-- A shadow frame begins with no mark, and no cache holds a line of it, or of its block under the copy's view, any more. -/
def State.freshShadow (s : State) (who : Who) (d : Nat) (block : Word) (f : Nat) : State :=
  let inFrame (line : Nat) : Bool := decide (lineOf (gDie d f) ≤ line ∧ line < lineOf (gDie d f) + 1024)
  let viewed (l : RlcLine) : Bool :=
    l.ctx == who.ctx && l.view == s.viewOf who && l.line.toNat / 65536 * 65536 == block.toNat
  { s with
    poison := s.poison.filter fun l => !inFrame l,
    dies := s.dies.map fun p => (p.1, { p.2 with rlc := p.2.rlc.filter fun l => !(inFrame l.home || viewed l) }) }

/-- A first write of a TWIN copy to a block has parked: the die lead allocates a shadow frame and copies the block into
it. -/
def State.makeShadow (s : State) (d : Nat) (who : Who) (va : Word) (kind : AccKind) : State :=
  match who.task with
  | none => s
  | some t =>
    match s.task? t with
    | none => s
    | some k =>
      if k.redun ≠ .twin ∨ (kind ≠ .write ∧ kind ≠ .rmw) ∨ (k.shadowOf who.copy va).isSome then s
      else match (s.findPte d who.ctx va).1 with
        | .leaf p =>
          let block : Word := BitVec.ofNat 64 (va.toNat / 65536 * 65536)
          let src := ptePfn p * 4096 + block.toNat % pageBytes (pteSize p)
          let plain : Bool := pteKey p == 0 && (s.die d).quarantine.isEmpty
          let f := s.freeFrame d
          let s := s.freshShadow who d block f
          let s := if plain then { s with mem := memCopy s.mem (gDie d src) (gDie d f) 65536 } else s
          let s := if plain then
              (s.poison.filter fun l => lineOf (gDie d src) ≤ l ∧ l < lineOf (gDie d src) + 1024).foldl
                (fun s l => s.mark (l - lineOf (gDie d src) + lineOf (gDie d f))) s
            else State.copyLines d p 1024 s src f
          s.setTask t { k with shadows := { copy := who.copy, block, frame := f } :: k.shadows }
        | _ => s

/-! ### Writes of the host to device memory (R240) -/

/-- The range that holds [hpa, hpa + n). -/
def IoDie.hdmAt (io : IoDie) (hpa n : Nat) : Option HdmRange :=
  io.hdm.find? fun r => decide (r.hpa.toNat ≤ hpa ∧ hpa + n ≤ r.hpa.toNat + r.size.toNat)

/-- The host requester of an access at hpa is named by its range. -/
def IoDie.requester (io : IoDie) (hpa : Word) : BitVec 8 :=
  BitVec.ofNat 8 (io.hdm.findIdx fun r => decide (r.hpa.toNat ≤ hpa.toNat ∧ hpa.toNat < r.hpa.toNat + r.size.toNat))

/-- An answer goes back to the host or to a peer. -/
def State.reply (s : State) (l : List Byte) : State := { s with io := { s.io with answers := s.io.answers ++ [l] } }

/-- The locations of [g, g + n) carry a release of an agent of the outside world, whose earlier accesses come before (R392, R393). -/
def State.outsideRel (s : State) (X : Agent) (m : BitVec 6) (g n : Nat) : State :=
  (List.range ((g % 8 + n + 7) / 8)).foldl (fun (s : State) i => s.beginRel X m s.io.known (g / 8 * 8 + 8 * i)) s

/-- A write of the host within one line reaches its die: it is applied as a release to every agent whose acquire names HO (R392),
refused, or parks with its data when its page's counters are at their end (R248). -/
def State.hdmWrite (s : State) (hpa : Word) (data : List Byte) : State :=
  match s.io.hdmAt hpa.toNat data.length with
  | none => s.reply [2]
  | some r =>
    let pa := r.pa + (hpa.toNat - r.hpa.toNat)
    let d := r.die.toNat
    if !(s.die d).keyReady (keyLeaf r.key) then s.reply [2]
    else match s.writeDie d pa (keyLeaf r.key) data with
      | (s, .done) => ((s.learnIo (s.die d).k).outsideRel (.host (s.io.requester hpa)) 0x10 (gDie d pa) data.length).reply [0]
      | (s, .park _) => s.parkReq d (parkedBy (agentWho 0) (BitVec.ofNat 64 pa) .write (some (hpa, data)))
      | (s, _) => s.reply [2]

/-! ### Replay (R237) -/

/-- The source of a parked request tries again from its target check. -/
def State.retryParked (s : State) (p : Parked) : State :=
  match p.host with
  | some (hpa, data) => s.hdmWrite hpa data
  | none =>
  if p.src = 0 then
    match (s.core p.tile).run with
    | .waiting i .parked _ =>
      match (s.core p.tile).flight with
      | some f => (s.sendReq p.tile i f.req).1
      | none => s.modCore p.tile fun c => { c with run := .running }
    | .waiting _ .fetchPark _ => s.modCore p.tile fun c => { c with run := .running }
    | _ => s
  else match srcEng p.src with
    | some e => s.modEngine p.tile e fun x => if x.block = .parked then { x with block := .none } else x
    | none => s

/-- Every entry of the park queue of die d retries (R209, R237). The entries are freed first; requests held for a place take them
at once, with no retry (R236). -/
def State.replay (s : State) (d : Nat) : State :=
  let all := (s.die d).park
  if all.isEmpty then s
  else
    let freed := all.map fun p => p.token
    let s := s.modDie d fun x =>
      Die.refill { x with park := [], parkRecs := x.parkRecs.filter fun r => !freed.contains r.1 } s.timeNs x.parkHeld.length
    let s := all.foldl (fun s p =>
      if p.src = 7 then s else s.makeShadow d (s.who p.tile p.src 0) p.va p.kind) s
    all.foldl State.retryParked s

/-! ### Removing translations (R210) -/

/-- The entries and lines of a die that TLBINV removes go, on every die (R230). -/
def State.invalidate (s : State) (d : Nat) (scope : BitVec 2) (a : Word) (ctx : BitVec 12) : State × Nat :=
  let goes (e : TlbEntry) : Bool :=
    if scope = 0 then e.hits ctx a else if scope = 1 then e.ctx == ctx else true
  let n := ((s.die d).tlb.filter goes).length
  let s := if n = 0 then s else s.modDie d fun x => { x with tlb := x.tlb.filter fun e => !goes e }
  let line (l : RlcLine) : Bool :=
    ownerOf l.line == d &&
    (if scope = 0 then l.ctx == ctx && l.line.toNat / 2 ^ 30 == a.toNat / 2 ^ 30 else if scope = 1 then l.ctx == ctx else true)
  let one (s : State) (h : Nat) : State :=
    if (s.die h).rlc.any line then s.modDie h fun x => { x with rlc := x.rlc.filter fun l => !line l } else s
  (one (one (one (one s 0) 1) 2) 3, n)

end Sys2Proof.Machine
end

