-- ==== Sys2Proof/Machine/SemBar.lean ====
section
/-! DEFINITION. The semaphore and barrier instructions of the control core (R192 to R199). -/
namespace Sys2Proof.Machine

/-- The word of an instruction, as an ILLOP trap carries it (R121). -/
def illopVal (i : Instr) : Word := ((encode i).getD 0).zeroExtend 64

/-- The current core traps ILLOP at `i` (R121). -/
def illop (s : State) (i : Instr) : Res := trapTo s .illop (illopVal i)

/-- SEMDEF (R193) on tile P: checks, the read of the descriptor, and the binding. -/
def State.semdefAt (s : State) (P : TileId) (i : Instr) (d : Word) (n : BitVec 5) : State :=
  match s.readVa (s.who P 0 (s.core P).pkr) d 32 .read false false with
  | (s, .bytes l, t) =>
    match regionOf l with
    | none => s.raiseCore P .cbformat d
    | some r =>
      if (match s.region P n with | some x => !x.holds.isEmpty | none => false) then s.raiseCore P .cbformat d
      else ((s.bindRegion P n r).complete P).occupy P (4 + t)
  | (s, .park _, _) =>
    (s.parkAt (parkOwner d) (s.who P 0 (s.core P).pkr) d .read).modCore P fun c =>
      { c with run := .waiting i .parked s.tick }
  | (s, .trap c, _) => s.raiseCore P c d
  | (s, .poison _, _) => s.raiseCore P .poison (lineVa d)
  | (s, .zero, _) => s.raiseCore P .badaddr d
  | (s, .busy, _) => s.modCore P fun c => { c with run := .waiting i .flight s.tick }

/-- SEMDEF (R193). -/
def execSemdef (ra n : BitVec 5) (s : State) : Res :=
  let d := s.reg ra
  let i : Instr := .semdef ra n
  if tagOf d ≠ 0x00 ∧ tagOf d ≠ 0xF0 then trapTo s .badaddr d
  else if d.extractLsb' 0 5 ≠ 0 then trapTo s .align d
  else if spansZero d = false then trapTo s .badaddr d
  else if s.outbound s.cur d then pairedBoth s i [10, d.toNat, n.toNat] fun s P => s.semdefAt P i d n
  else .next (s.semdefAt s.cur i d n)

/-- SEMP (R194). -/
def execSemp (rd ra : BitVec 5) (n : BitVec 6) (s : State) : Res :=
  let c := (s.reg ra).extractLsb' 0 32
  if s.semReady s.cur n c then writeRd ((s.semTake s.cur n c).acquireSem (.core s.cur) s.cur n) rd 1 2
  else waitFor (s.semJoin s.cur { sem := n, who := .core, count := c }) (.semp rd ra n) .sem

/-- SEMV (R195). -/
def execSemv (ra rb : BitVec 5) (n : BitVec 6) (s : State) : Res :=
  stepOver (s.signal (.core s.cur) ((s.reg rb).extractLsb' 0 6) s.cur n ((s.reg ra).extractLsb' 0 32)) 2

/-- SEMTRY (R196). -/
def execSemtry (rd ra : BitVec 5) (n : BitVec 6) (s : State) : Res :=
  let c := (s.reg ra).extractLsb' 0 32
  if s.semReady s.cur n c then writeRd ((s.semTake s.cur n c).acquireSem (.core s.cur) s.cur n) rd 1 2 else writeRd s rd 0 2

/-- SEMRD (R196). -/
def execSemrd (rd : BitVec 5) (n : BitVec 6) (s : State) : Res := writeRd s rd ((s.semSeen s.cur n).zeroExtend 64) 2

/-- SEMSET (R196). -/
def execSemset (ra : BitVec 5) (n : BitVec 6) (s : State) : Res :=
  stepOver (s.semStore s.cur n ((s.reg ra).extractLsb' 0 32)) 2

/-- BARDEF (R197). -/
def execBardef (ra : BitVec 5) (n : BitVec 4) (s : State) : Res :=
  let w := s.reg ra
  let u := s.barKeyOf s.cur w
  let count := w.extractLsb' 16 11
  let b := s.barUnit s.cur u
  if bardefOk w = false then trapTo s .cbformat w
  else if b.arrivals ≠ 0 ∧ b.count ≠ count then trapTo s .cbformat w
  else
    let s := s.modTaskOf s.cur fun k => k.setBar u { b with count }
    stepOver (s.setHandle s.cur n { unit := u, count, arrived := false, epoch := 0 }) 4

/-- A die-scope arrival or wait on a tile outside the task's home die (R199). -/
def State.offHome (s : State) (P : TileId) (u : BarKey) : Bool :=
  match u with
  | .die _ _ =>
    match s.taskOf P with
    | some k => dieOf P != k.home.toNat
    | none => false
  | _ => false

/-- The die of a unit for tile P: a cluster's units lie on its own, the others on the task's home die.
(DEDUCED, log entry 93: the die of a package-scope unit.) -/
def State.unitDie (s : State) (P : TileId) (u : BarKey) : Nat :=
  match u with
  | .cluster _ _ _ => dieOf P
  | _ => match s.taskOf P with | some k => k.home.toNat | none => dieOf P

/-- BARA on tile P (R199): the release, then the arrival unless the tile has arrived in this epoch. The second component
is the epoch of its arrival. -/
def State.baraAt (s : State) (P : TileId) (n : BitVec 4) (h : BarHandle) : State × BitVec 32 :=
  if s.arrivalStands P h then (s, h.epoch)
  else
    let (s, e) := ((s.release (.core P) (barMask h.unit)).tagCross P (s.unitDie P h.unit) none).arrive P h
    (s.setHandle P n { h with arrived := true, epoch := e }, e)

/-- A PAIR task arrives once: the trailing tile's handle takes the epoch of the leading tile's arrival (R434). -/
def State.followBara (s : State) (P : TileId) (n : BitVec 4) (e : BitVec 32) : State :=
  match s.follower P with
  | some Q =>
    match s.handle Q n with
    | some h => s.setHandle Q n { h with arrived := true, epoch := e }
    | none => s
  | none => s

/-- BARW on tile P (R199): at once when no arrival stands, and otherwise waiting for the release. -/
def State.barwAt (s : State) (P : TileId) (i : Instr) (rd : BitVec 5) (h : BarHandle) : State :=
  if s.arrivalStands P h then s.modCore P fun c => { c with run := .waiting i .bar s.tick, barw := true }
  else ((s.acquireBar P h.unit).completeAt P rd 1).occupy P 4

/-- BARA (R199). -/
def execBara (rd : BitVec 5) (n : BitVec 4) (s : State) : Res :=
  match s.handle s.cur n with
  | none => illop s (.bara rd n)
  | some h =>
    if s.offHome s.cur h.unit then trapTo s .badaddr (n.zeroExtend 64)
    else
      let i : Instr := .bara rd n
      if !s.arrivalStands s.cur h && s.crossFull s.cur (s.unitDie s.cur h.unit) then waitFor s i .flight
      else match s.pairGate s.cur 0 [11, n.toNat, h.count.toNat] with
      | (s, .wait) => waitFor s i .pair
      | (s, .mismatch) => .next (s.pairMismatch s.cur)
      | (s, .go L) =>
        let (s, e) := s.baraAt L n h
        let s := s.followBara L n e
        let s := (s.completeAt L rd (e.zeroExtend 64)).occupy L 4
        match s.follower L with
        | some Q => .next ((s.completeAt Q rd (e.zeroExtend 64)).occupy Q (4 + pairLag))
        | none => .next s

/-- BARW (R199). -/
def execBarw (rd : BitVec 5) (n : BitVec 4) (s : State) : Res :=
  match s.handle s.cur n with
  | none => illop s (.barw rd n)
  | some h =>
    if s.offHome s.cur h.unit then trapTo s .badaddr (n.zeroExtend 64)
    else .next (s.barwAt s.cur (.barw rd n) rd h)

/-- BARAW (R199): after a pre-emption of its wait it is BARW (R220). -/
def execBaraw (rd : BitVec 5) (n : BitVec 4) (s : State) : Res :=
  let i : Instr := .baraw rd n
  match s.handle s.cur n with
  | none => illop s i
  | some h =>
    if s.offHome s.cur h.unit then trapTo s .badaddr (n.zeroExtend 64)
    else if (s.core s.cur).barw then .next (s.barwAt s.cur i rd h)
    else if !s.arrivalStands s.cur h && s.crossFull s.cur (s.unitDie s.cur h.unit) then waitFor s i .flight
    else
      match s.pairGate s.cur 0 [12, n.toNat, h.count.toNat] with
      | (s, .wait) => waitFor s i .pair
      | (s, .mismatch) => .next (s.pairMismatch s.cur)
      | (s, .go L) =>
        let (s, e) := s.baraAt L n h
        let s := s.followBara L n e
        let s := s.barwAt L i rd { h with arrived := true, epoch := e }
        match s.follower L with
        | some Q => .next ((s.barwAt Q i rd { h with arrived := true, epoch := e }).occupy Q pairLag)
        | none => .next s

end Sys2Proof.Machine
end

