-- ==== Sys2Proof/Machine/System.lean ====
section
/-! DEFINITION. The page, key, time and system instructions of the control core (R95 to R100, R206 to R219). -/
namespace Sys2Proof.Machine

/-! ### Pages, keys and translation -/

/-- The address has tag 0x00 and an owner 0 to 3 (R206). -/
def dieOwned (a : Word) : Bool := tagOf a == 0x00 && decide (ownerOf a < 4)

/-- PGREQ on tile P (R206): a resident page answers 0, and otherwise the core waits for the supervisor. -/
def State.pgreqAt (s : State) (P : TileId) (i : Instr) (rd : BitVec 5) (a : Word) : State :=
  let resident : Bool :=
    a.extractLsb' 48 5 == 0 &&
    (match (s.findPte (ownerOf a) (s.who P 0 0).ctx a).1 with | .leaf _ => true | _ => false)
  if resident then (s.completeAt P rd 0).occupy P 16
  else s.modCore P fun c => { c with run := .waiting i .pgreq s.tick }

/-- PGREQ (R206). -/
def execPgreq (rd ra : BitVec 5) (s : State) : Res :=
  let a := s.reg ra
  let i : Instr := .pgreq rd ra
  if dieOwned a = false then trapTo s .badaddr a
  else pairedBoth s i [14, a.toNat] fun s P => s.pgreqAt P i rd a

/-- RESQ's result for a leaf (R207). -/
def resqWord (p : Word) : Word :=
  let sz : BitVec 2 := pteSize p
  let b (x : Bool) : BitVec 1 := if x then 1 else 0
  (ptePkey p ++ sz ++ b (pteZF p) ++ b (pteW p) ++ b (pteR p) ++ b (pteV p)).zeroExtend 64

/-- What RESQ finds for an address on its owner, with the ticks it takes (R182, R207). -/
def State.resqFind (s : State) (P : TileId) (a : Word) : Walk × Nat :=
  let d := ownerOf a
  let ctx := (s.who P 0 0).ctx
  let base := if dieOf P = d then 16 else 106
  if a.extractLsb' 48 5 ≠ 0 then (.nomap, base)
  else match (s.die d).tlbFind ctx a .read with
    | some e => (.leaf e.leaf, base)
    | none => let (w, _, n) := s.findPte d ctx a; (w, base + 150 * n)

/-- RESQ (R207). (DEDUCED, log entry 40: broken walks.) -/
def execResq (rd ra : BitVec 5) (s : State) : Res :=
  let a := s.reg ra
  if dieOwned a = false then trapTo s .badaddr a
  else match s.resqFind s.cur a with
    | (.leaf p, n) => writeRd s rd (resqWord p) n
    | (.nonres p, n) => writeRd s rd (resqWord p) n
    | (.poisoned, _) => trapTo s .poison (lineVa a)
    | (_, n) => writeRd s rd 0 n

/-- PKRW (R208). -/
def execPkrw (rd ra : BitVec 5) (s : State) : Res :=
  let a := s.reg ra
  let old := (s.core s.cur).pkr
  writeRd (s.modCore s.cur fun c => { c with pkr := a }) rd old 1

/-- PKRR (R208). -/
def execPkrr (rd : BitVec 5) (s : State) : Res := writeRd s rd (s.core s.cur).pkr 1

/-- RPLY (R209): K mode only. -/
def execRply (s : State) : Res :=
  if s.kmode = false then illop s .rply
  else
    let d := dieOf s.cur
    let n := (s.die d).park.length + (s.die d).parkHeld.length
    stepOver (s.replay d) (max 1 (min 64 n))

/-- TLBINV (R210): K mode only. -/
def execTlbinv (ra rb : BitVec 5) (scope : BitVec 2) (s : State) : Res :=
  let i : Instr := .tlbinv ra rb scope
  let a := s.reg ra
  if s.kmode = false ∨ scope = 3 ∨ (scope = 2 ∧ rb ≠ 0) then illop s i
  else if dieOwned a = false then trapTo s .badaddr a
  else
    let (s, n) := s.invalidate (ownerOf a) scope a ((s.reg rb).extractLsb' 0 12)
    stepOver s (max 1 (min 512 n))

/-! ### Time -/

/-- The value that RDTIME of tile P returns: the recorded one in replay mode (R465).
(DEDUCED, log entry 43: TIME where no record is left.) -/
def State.timeRead (s : State) (P : TileId) : Word :=
  if s.recMode P = 2 then
    match s.logFind (s.who P 0 0).ctx 3 (s.core P).timeReads.toNat (fun v _ => v == (s.tile P).vt.toNat) with
    | some l => BitVec.ofNat 64 (leNat (l.take 8))
    | none => s.timeNs
  else s.timeNs

/-- RDTIME completes on tile P with a value; record mode has logged it (R464). -/
def State.timeDone (s : State) (P : TileId) (rd : BitVec 5) (v : Word) : State :=
  (s.modCore P fun c => { c with timeReads := c.timeReads + 1 }).completeAt P rd v

/-- The record of an RDTIME, or none while the log is full (R464). -/
def State.timeLog (s : State) (P : TileId) (v : Word) : Option State :=
  let w := s.who P 0 0
  if s.recMode P = 1 then s.logAppend w.ctx 3 w.vt.toNat (s.core P).timeReads.toNat (leBytes 8 v.toNat) else some s

/-- RDTIME (R211). -/
def execRdtime (rd : BitVec 5) (s : State) : Res :=
  let v := s.timeRead s.cur
  match s.timeLog s.cur v with
  | some s => .next ((s.timeDone s.cur rd v).occupy s.cur 4)
  | none => waitFor s (.rdtime rd) .log

/-- RDRCC (R211). -/
def execRdrcc (rd : BitVec 5) (s : State) : Res := writeRd s rd (BitVec.ofNat 64 (s.rccOf s.cur)) 1
/-- RDTICK (R211). -/
def execRdtick (rd : BitVec 5) (s : State) : Res := writeRd s rd (BitVec.ofNat 64 s.tick) 1

/-- The base of WAITT as tile P samples it (R212, R281). -/
def State.sample (s : State) (P : TileId) (rccBase : Bool) : Nat :=
  if rccBase then s.rccOf P else s.timeNs.toNat

/-- The task of tile P is static (R211). -/
def State.isStatic (s : State) (P : TileId) : Bool :=
  match s.taskOf P with
  | some k => k.static
  | none => false

/-- WAITT (R212). -/
def execWaitt (rd ra : BitVec 5) (t : BitVec 1) (s : State) : Res :=
  let i : Instr := .waitt rd ra t
  let base := s.sample s.cur (t == 1)
  let a := s.reg ra
  if t = 1 ∧ s.isStatic s.cur = false then illop s i
  else if a.toNat ≤ base then writeRd s rd (BitVec.ofNat 64 (base - a.toNat)) (if t = 1 then 1 else 4)
  else waitFor s i .time

/-! ### System registers (R95) -/

/-- The value of a system register of tile P, if the index is listed. -/
def State.sysRead (s : State) (P : TileId) (x : BitVec 12) : Option Word :=
  let c := s.core P
  let w := s.who P 0 0
  match x.toNat with
  | 0x000 => some c.trapvec
  | 0x001 => some c.trappc
  | 0x002 => some (c.trapcause.zeroExtend 64)
  | 0x003 => some c.trapval
  | 0x010 => some (c.fmode.zeroExtend 64)
  | 0x011 => some c.wto
  | 0x012 => some (c.resf.zeroExtend 64)
  | 0x013 => some c.semov
  | 0x020 => some c.pkr
  | 0x021 => some (w.ctx.zeroExtend 64)
  | 0x022 => some (w.vt.zeroExtend 64)
  | 0x023 => some (cmodeOf (match s.taskOf P with | some k => k.image.kmode | none => false))
  | 0x030 => some (c.leaseq.zeroExtend 64)
  | 0x031 => some (c.phase.zeroExtend 64)
  | _ => none

/-- The core after a write of a system register, if the index may be written and the value is allowed (R95, R96). -/
def Core.sysWrite (c : Core) (x : BitVec 12) (v : Word) : Option Core :=
  match x.toNat with
  | 0x000 => some { c with trapvec := v &&& ~~~ 3#64 }
  | 0x001 => some { c with trappc := v }
  | 0x010 => if rndReserved v then none else some { c with fmode := v.extractLsb' 0 6 }
  | 0x011 => some { c with wto := wtoOf v }
  | 0x012 => some { c with resf := c.resf &&& ~~~ v.extractLsb' 0 2 }
  | 0x013 => some { c with semov := c.semov &&& ~~~ v }
  | 0x030 => some { c with leaseq := leaseqOf v }
  | _ => none

/-- MFS (R95, R213). -/
def execMfs (rd : BitVec 5) (x : BitVec 12) (s : State) : Res :=
  match s.sysRead s.cur x with
  | some v => writeRd s rd v 2
  | none => illop s (.mfs rd x)

/-- MTS (R95, R213). -/
def execMts (ra : BitVec 5) (x : BitVec 12) (s : State) : Res :=
  match (s.core s.cur).sysWrite x (s.reg ra) with
  | some c => stepOver (s.modCore s.cur fun _ => c) 2
  | none => illop s (.mts ra x)

/-! ### Traps, calls and stopping -/

/-- TRAP (R100, R214). -/
def execTrap (x : BitVec 12) (s : State) : Res := softTrap s .trap (x.zeroExtend 64)
/-- BRK (R100, R214). -/
def execBrk (x : BitVec 7) (s : State) : Res := softTrap s .brk (x.zeroExtend 64)
/-- SVC (R215): the event goes to the supervisor and the core waits. -/
def execSvc (x : BitVec 7) (s : State) : Res := trapTo s .svc (x.zeroExtend 64)
/-- TRET (R216): K mode only. -/
def execTret (s : State) : Res :=
  if s.kmode = false then illop s .tret else .next ((s.modCore s.cur Core.trapReturn).occupy s.cur 3)
/-- IDLE (R217). -/
def execIdle (s : State) : Res := waitFor (s.modTile s.cur fun t => { t with wake := false }) .idle .idle
/-- HALT (R218): compared under PAIR (R434). -/
def execHalt (s : State) : Res :=
  pairedBoth s .halt [13] fun s P => s.modCore P fun c => { c with run := .halted, instrs := c.instrs + 1 }

/-- The identity word (R219). -/
def identityWord : Word := 0x4C59038400000001

/-- RDID (R219). -/
def execRdid (rd : BitVec 5) (x : BitVec 7) (s : State) : Res :=
  match x.toNat with
  | 0 => writeRd s rd (s.cur.zeroExtend 64) 1
  | 1 => writeRd s rd (BitVec.ofNat 64 (dieOf s.cur)) 1
  | 2 => writeRd s rd ((s.tile s.cur).vt.zeroExtend 64) 1
  | 3 => writeRd s rd identityWord 1
  | _ => illop s (.rdid rd x)

/-- An unassigned or malformed word (R121). -/
def execIllegalEncoding (w : InstrWord) (s : State) : Res := trapTo s .illop (w.zeroExtend 64)

end Sys2Proof.Machine
end

