-- ==== Sys2Proof/Machine/CoreEvents.lean ====
section
/-! DEFINITION. What happens to a control core between its instructions: the fetch (R167, R168), replies, waits that end and
time-outs (R97, R171, R186, R206, R212, R217), requests that reach their owner (R225) and freed table entries (R395). -/
namespace Sys2Proof.Machine

/-! ### Instruction fetch (R167, R168) -/

/-- The word at a 4-byte-aligned address in the instruction cache (R112). -/
def Core.cached (c : Core) (va : Word) : Option InstrWord :=
  if va.extractLsb' 0 2 ≠ 0 then none else
  match kfind c.icache (va.toNat / 64) with
  | some l => some (BitVec.ofNat 32 (leNat ((l.drop (va.toNat % 64)).take 4)))
  | none => none

/-- The line at PC of core P is fetched into its instruction cache, which holds 256 lines, or the fetch faults or
parks. (DEDUCED, log entry 47: tag and alignment of PC. DESIGN CHOICE, log entry 84: what a fetch returns of a later store.) -/
def State.fetchLine (s : State) (P : TileId) : State :=
  let c := s.core P
  let pc := c.pc
  let who := s.who P 0 c.pkr
  if tagOf pc ≠ 0x00 then s.raiseCore P .badaddr pc
  else if pc.extractLsb' 0 2 ≠ 0 then s.raiseCore P .align pc
  else if 4 ≤ ownerOf pc then s.raiseCore P .badaddr pc
  else
    match s.readVa who (lineVa pc) 64 .fetch false false with
    | (s, .bytes l, n) => (s.modCore P fun c => { c with icache := ((pc.toNat / 64, l) :: c.icache).take 256 }).occupy P n
    | (s, .park d, _) =>
      (s.parkAt d who pc .fetch).modCore P fun c => { c with run := .waiting .instructionFetch .fetchPark s.tick }
    | (s, .trap x, _) => s.raiseCore P x pc
    | (s, .poison _, _) => s.raiseCore P .poison pc
    | (s, _, _) => s.raiseCore P .badaddr pc

/-- A killed grid run of the tile goes on with its started iterations; the core waits for it (R203, R352). -/
def Tile.draining (t : Tile) : Bool := match t.grid.run with | some r => r.orphan | none => false

/-- A core that waits for its twin's request, or has raised a cause. -/
def Core.heldForTwin (c : Core) : Bool :=
  match c.run with
  | .waiting _ .pair _ => true
  | .event => true
  | _ => false

/-- A trailing core runs behind its leading one (R85, R434): it issues an instruction that the leading core has completed, or
holds for comparison. -/
def State.behind (s : State) (P : TileId) : Bool :=
  if (s.tile P).trailing then
    match s.twinTile P with
    | some L => (s.core P).instrs != (s.core L).instrs || (s.core L).heldForTwin
    | none => true
  else true

/-- The core of tile P issues an instruction at this tick. -/
def State.coreRuns (s : State) (P : TileId) : Bool :=
  decide ((s.core P).run = .running ∧ (s.core P).busy ≤ s.tick) && !s.heldDie (dieOf P) && !(s.tile P).stopped && !(s.tile P).draining && s.behind P

/-- INSTRUCTION_FETCH (R167): the fill that a fetch needs when the cache does not hold the word. -/
def execInstructionFetch (s : State) : Res :=
  if s.coreRuns s.cur && ((s.core s.cur).cached s.pc).isNone then .next (s.fetchLine s.cur)
  else notNow "INSTRUCTION_FETCH"

/-! ### Requests on their way -/

/-- The request of core P that is on its way and has no reply, with its instruction. -/
def State.inFlight (s : State) (P : TileId) : Option (Instr × Flight) :=
  match (s.core P).run, (s.core P).flight with
  | .waiting i .flight _, some f => some (i, f)
  | _, _ => none

/-- OWNER_REQUEST (R225): a request of core P reaches its owner, which applies it, refuses it or parks it. -/
def execOwnerRequest (P : TileId) (s : State) : Res :=
  match s.inFlight P with
  | some (i, f) =>
    if f.reply.isSome ∨ (s.tile P).stopped then notNow "OWNER_REQUEST"
    else if s.mustWait P f.req then notNow "OWNER_REQUEST"
    else
      let (s, out, n) := s.applyReq P f.req
      match out with
      | .parked => .next (s.deliver P i f.req out 0)
      | .busy => notNow "OWNER_REQUEST"
      | _ => .next ((s.modCore P fun c => { c with flight := some { f with reply := some out } }).occupy P n)
  | none =>
    match (s.core P).run with
    | .waiting _ .flight _ => .next (s.modCore P fun c => { c with run := .running })
    | _ => notNow "OWNER_REQUEST"

/-- MEMORY_REPLY (R171): the outcome returns, and the instruction completes or traps. -/
def execMemoryReply (P : TileId) (s : State) : Res :=
  match s.inFlight P with
  | some (i, f) =>
    match f.reply with
    | some out => if (s.tile P).stopped then notNow "MEMORY_REPLY" else .next (s.deliver P i f.req out 0)
    | none => notNow "MEMORY_REPLY"
  | none => notNow "MEMORY_REPLY"

/-! ### Waits -/

/-- WAIT_FOR_CHANGE (R186): a WAIT reads again, once its last read has returned. -/
def execWaitForChange (P : TileId) (s : State) : Res :=
  match (s.core P).run, (s.core P).flight with
  | .waiting i .memChange _, some f =>
    if (s.tile P).stopped ∨ s.tick < (s.core P).busy then notNow "WAIT_FOR_CHANGE"
    else
      let (s, n) := s.sendReq P i f.req
      .next (s.occupy P n)
  | _, _ => notNow "WAIT_FOR_CHANGE"

/-- The core's wait on semaphore n is met (R194). -/
def State.grantCore (s : State) (P : TileId) (n : BitVec 6) (c : BitVec 32) : State :=
  let s := ((s.semLeave P .core).semTake P n c).acquireSem (.core P) P n
  match (s.core P).run with
  | .waiting (.semp rd _ _) .sem _ => s.completeAt P rd 1
  | _ => s

/-- The wait of core P expires (R97): with TRAPW it traps WAITTO, and otherwise it writes 0. -/
def State.expire (s : State) (P : TileId) (rd : BitVec 5) (val : Word) : State :=
  if (s.core P).wtoTraps then s.raiseCore P .waitto val else s.completeAt P rd 0

/-- WAIT_TIMEOUT (R97): the core leaves its wait once the tick in which it expires is over, because what arrives in that tick still
meets the wait (R103, R194, R199). A WAIT reads once more in the tick in which it expires, and ends by what it reads (R186). -/
def execWaitTimeout (P : TileId) (s : State) : Res :=
  let c := s.core P
  match c.run with
  | .waiting i k t =>
    if c.expired s.tick t = false ∨ (s.tile P).stopped then notNow "WAIT_TIMEOUT"
    else match i, k with
      | .semp rd _ n, .sem =>
        if s.waitOver P then .next ((s.semLeave P .core).expire P rd (n.zeroExtend 64)) else notNow "WAIT_TIMEOUT"
      | .barw rd n, .bar => if s.waitOver P then .next (s.expire P rd (n.zeroExtend 64)) else notNow "WAIT_TIMEOUT"
      | .baraw rd n, .bar => if s.waitOver P then .next (s.expire P rd (n.zeroExtend 64)) else notNow "WAIT_TIMEOUT"
      | _, .memChange =>
        match c.flight with
        | some f =>
          let (s, n) := s.sendReq P i f.req
          .next (s.occupy P n)
        | none => notNow "WAIT_TIMEOUT"
      | _, _ => notNow "WAIT_TIMEOUT"
  | _ => notNow "WAIT_TIMEOUT"

/-- WAITT_TARGET (R212). -/
def execWaittTarget (P : TileId) (s : State) : Res :=
  match (s.core P).run with
  | .waiting (.waitt rd ra t) .time _ =>
    let base := s.sample P (t == 1)
    let a := (s.core P).rd ra
    if a.toNat ≤ base ∧ (s.tile P).stopped = false then .next (s.completeAt P rd (BitVec.ofNat 64 (base - a.toNat)))
    else notNow "WAITT_TARGET"
  | _ => notNow "WAITT_TARGET"

/-- IDLE_WAKE (R217). -/
def execIdleWake (P : TileId) (s : State) : Res :=
  match (s.core P).run with
  | .waiting .idle .idle _ =>
    if (s.tile P).wake ∧ (s.tile P).stopped = false then .next (s.complete P) else notNow "IDLE_WAKE"
  | _ => notNow "IDLE_WAKE"

/-- IDLE_TIMEOUT (R217). -/
def execIdleTimeout (P : TileId) (s : State) : Res :=
  match (s.core P).run with
  | .waiting .idle .idle t =>
    if s.passed (dieOf P) t 65536 ∧ (s.tile P).stopped = false then .next (s.complete P) else notNow "IDLE_TIMEOUT"
  | _ => notNow "IDLE_TIMEOUT"

/-- The core of tile P waits in PGREQ: its destination register. -/
def State.pgreqReg (s : State) (P : TileId) : Option (BitVec 5) :=
  match (s.core P).run with
  | .waiting (.pgreq rd _) .pgreq _ => some rd
  | _ => none

/-- What the supervisor can answer to the PGREQ that core P waits in: 0 for a page that is resident by now, 2 where no mapping exists,
and 1, its refusal, for a page that is not resident (R206). -/
def State.pgreqSays (s : State) (P : TileId) : Option (BitVec 2) :=
  match (s.core P).run with
  | .waiting (.pgreq _ ra) .pgreq _ =>
    let a := (s.core P).rd ra
    if a.extractLsb' 48 5 ≠ 0 then some 2
    else match (s.findPte (ownerOf a) (s.who P 0 0).ctx a).1 with
      | .leaf _ => some 0
      | .nomap => some 2
      | _ => some 1
  | _ => none

/-- PGREQ_ANSWER (R206). -/
def execPgreqAnswer (P : TileId) (ans : BitVec 2) (s : State) : Res :=
  match s.pgreqReg P with
  | some rd =>
    if s.pgreqSays P ≠ some ans ∨ (s.tile P).stopped then notNow "PGREQ_ANSWER"
    else
      let s' := s.completeAt P rd (ans.zeroExtend 64)
      match s.follower P with
      | some Q => (match s'.pgreqReg Q with | some rd => .next (s'.completeAt Q rd (ans.zeroExtend 64)) | none => .next s')
      | none => .next s'
  | none => notNow "PGREQ_ANSWER"

/-- The core of a tile waits in RDTIME for room in the log of a context. -/
def State.logWaits (s : State) (ctx : BitVec 12) (p : Nat × Tile) : Bool :=
  match p.2.core.run with
  | .waiting (.rdtime _) .log _ => !p.2.stopped && (s.who (BitVec.ofNat 10 p.1) 0 0).ctx == ctx
  | _ => false

/-- LOG_APPEND (R464): the log of a context has room again, and an RDTIME that waited for it completes; a combine held for
it tries again. -/
def execLogAppend (ctx : BitVec 12) (s : State) : Res :=
  match s.tiles.find? (s.logWaits ctx) with
  | none => notNow "LOG_APPEND"
  | some p =>
    let P : TileId := BitVec.ofNat 10 p.1
    match (s.core P).run with
    | .waiting (.rdtime rd) .log _ =>
      let v := s.timeRead P
      (match s.timeLog P v with
      | some s => .next (s.timeDone P rd v)
      | none => notNow "LOG_APPEND")
    | _ => notNow "LOG_APPEND"

/-! ### Freed table entries (R395) -/

/-- REPLY_ACKNOWLEDGEMENT (R395): the entry of a reply that its source has is freed. -/
def execReplyAcknowledgement (owner : BitVec 3) (src : ReqSrc) (tag : BitVec 16) (s : State) : Res :=
  let o := owner.toNat
  if 4 < o then notNow "REPLY_ACKNOWLEDGEMENT"
  else if ((s.doneTable o).any fun r => r.src == src && r.tag == tag) && !s.tagNeeded src tag then
    .next (s.setDone o ((s.doneTable o).filter fun r => !(r.src == src && r.tag == tag)))
  else notNow "REPLY_ACKNOWLEDGEMENT"

end Sys2Proof.Machine
end

