-- ==== Sys2Proof/Machine/Alu.lean ====
section
/-! DEFINITION. The register, immediate, bit-field and address operations of the control core (R153 to R163). -/
namespace Sys2Proof.Machine

/-- ADD (R154). -/
def execAdd (rd ra rb : BitVec 5) (s : State) : Res := writeRd s rd (s.reg ra + s.reg rb) 1
/-- SUB (R154). -/
def execSub (rd ra rb : BitVec 5) (s : State) : Res := writeRd s rd (s.reg ra - s.reg rb) 1
/-- AND (R154). -/
def execAnd (rd ra rb : BitVec 5) (s : State) : Res := writeRd s rd (s.reg ra &&& s.reg rb) 1
/-- OR (R154). -/
def execOr (rd ra rb : BitVec 5) (s : State) : Res := writeRd s rd (s.reg ra ||| s.reg rb) 1
/-- XOR (R154). -/
def execXor (rd ra rb : BitVec 5) (s : State) : Res := writeRd s rd (s.reg ra ^^^ s.reg rb) 1
/-- ANDN (R154). -/
def execAndn (rd ra rb : BitVec 5) (s : State) : Res := writeRd s rd (s.reg ra &&& ~~~ s.reg rb) 1
/-- SLL (R154). -/
def execSll (rd ra rb : BitVec 5) (s : State) : Res := writeRd s rd (s.reg ra <<< shamt (s.reg rb)) 1
/-- SRL (R154). -/
def execSrl (rd ra rb : BitVec 5) (s : State) : Res := writeRd s rd (s.reg ra >>> shamt (s.reg rb)) 1
/-- SRA (R154). -/
def execSra (rd ra rb : BitVec 5) (s : State) : Res := writeRd s rd ((s.reg ra).sshiftRight (shamt (s.reg rb))) 1
/-- SLT (R154). -/
def execSlt (rd ra rb : BitVec 5) (s : State) : Res := writeRd s rd (flag (decide ((s.reg ra).toInt < (s.reg rb).toInt))) 1
/-- SLTU (R154). -/
def execSltu (rd ra rb : BitVec 5) (s : State) : Res :=
  writeRd s rd (flag (decide ((s.reg ra).toNat < (s.reg rb).toNat))) 1
/-- MIN (R154). -/
def execMin (rd ra rb : BitVec 5) (s : State) : Res :=
  writeRd s rd (if (s.reg ra).toInt ≤ (s.reg rb).toInt then s.reg ra else s.reg rb) 1
/-- MAX (R154). -/
def execMax (rd ra rb : BitVec 5) (s : State) : Res :=
  writeRd s rd (if (s.reg rb).toInt ≤ (s.reg ra).toInt then s.reg ra else s.reg rb) 1
/-- MINU (R154). -/
def execMinu (rd ra rb : BitVec 5) (s : State) : Res :=
  writeRd s rd (if (s.reg ra).toNat ≤ (s.reg rb).toNat then s.reg ra else s.reg rb) 1
/-- MAXU (R154). -/
def execMaxu (rd ra rb : BitVec 5) (s : State) : Res :=
  writeRd s rd (if (s.reg rb).toNat ≤ (s.reg ra).toNat then s.reg ra else s.reg rb) 1
/-- MUL (R154). -/
def execMul (rd ra rb : BitVec 5) (s : State) : Res := writeRdLate s rd (s.reg ra * s.reg rb) 1 2
/-- MULH (R154). -/
def execMulh (rd ra rb : BitVec 5) (s : State) : Res :=
  writeRdLate s rd (BitVec.ofInt 64 ((s.reg ra).toInt * (s.reg rb).toInt / 2 ^ 64)) 1 2
/-- MULHU (R154). -/
def execMulhu (rd ra rb : BitVec 5) (s : State) : Res :=
  writeRdLate s rd (BitVec.ofNat 64 ((s.reg ra).toNat * (s.reg rb).toNat / 2 ^ 64)) 1 2

/-- The signed quotient, rounded towards zero (R155). -/
def quotS (a b : Word) : Word := if b = 0 then BitVec.allOnes 64 else BitVec.ofInt 64 (a.toInt.tdiv b.toInt)
/-- The signed remainder (R155). -/
def remS (a b : Word) : Word := if b = 0 then a else BitVec.ofInt 64 (a.toInt.tmod b.toInt)
/-- The unsigned quotient (R155). -/
def quotU (a b : Word) : Word := if b = 0 then BitVec.allOnes 64 else BitVec.ofNat 64 (a.toNat / b.toNat)
/-- The unsigned remainder (R155). -/
def remU (a b : Word) : Word := if b = 0 then a else BitVec.ofNat 64 (a.toNat % b.toNat)
/-- The occupancy of a divide whose dividend has magnitude x (R156). -/
def divTicks (x : Nat) (b : Word) : Nat := 2 + (if b = 0 then 1 else max 1 (bitLen x))

/-- DIV (R155, R156). -/
def execDiv (rd ra rb : BitVec 5) (s : State) : Res :=
  writeRd s rd (quotS (s.reg ra) (s.reg rb)) (divTicks (s.reg ra).toInt.natAbs (s.reg rb))
/-- DIVU (R155, R156). -/
def execDivu (rd ra rb : BitVec 5) (s : State) : Res :=
  writeRd s rd (quotU (s.reg ra) (s.reg rb)) (divTicks (s.reg ra).toNat (s.reg rb))
/-- REM (R155, R156). -/
def execRem (rd ra rb : BitVec 5) (s : State) : Res :=
  writeRd s rd (remS (s.reg ra) (s.reg rb)) (divTicks (s.reg ra).toInt.natAbs (s.reg rb))
/-- REMU (R155, R156). -/
def execRemu (rd ra rb : BitVec 5) (s : State) : Res :=
  writeRd s rd (remU (s.reg ra) (s.reg rb)) (divTicks (s.reg ra).toNat (s.reg rb))

/-- CLZ (R154). -/
def execClz (rd ra : BitVec 5) (s : State) : Res := writeRd s rd (BitVec.ofNat 64 (64 - bitLen (s.reg ra).toNat)) 1
/-- CTZ (R154). -/
def execCtz (rd ra : BitVec 5) (s : State) : Res := writeRd s rd (BitVec.ofNat 64 (lowestOne (s.reg ra).toNat 64 0)) 1
/-- POPC (R154). -/
def execPopc (rd ra : BitVec 5) (s : State) : Res := writeRd s rd (BitVec.ofNat 64 (onesBelow (s.reg ra).toNat 64)) 1
/-- BSWAP (R154). -/
def execBswap (rd ra : BitVec 5) (s : State) : Res := writeRd s rd (swapBytes (s.reg ra)) 1
/-- ADDW (R154). -/
def execAddw (rd ra rb : BitVec 5) (s : State) : Res := writeRd s rd (sext32 (s.reg ra + s.reg rb)) 1
/-- SUBW (R154). -/
def execSubw (rd ra rb : BitVec 5) (s : State) : Res := writeRd s rd (sext32 (s.reg ra - s.reg rb)) 1
/-- MULW (R154). -/
def execMulw (rd ra rb : BitVec 5) (s : State) : Res := writeRdLate s rd (sext32 (s.reg ra * s.reg rb)) 1 2
/-- CMOVNZ (R154). -/
def execCmovnz (rd ra rb : BitVec 5) (s : State) : Res :=
  writeRd s rd (if s.reg rb ≠ 0 then s.reg ra else s.reg rd) 1
/-- CMOVZ (R154). -/
def execCmovz (rd ra rb : BitVec 5) (s : State) : Res := writeRd s rd (if s.reg rb = 0 then s.reg ra else s.reg rd) 1

/-- ADDI (R157). -/
def execAddi (rd ra : BitVec 5) (imm : BitVec 16) (s : State) : Res := writeRd s rd (s.reg ra + simm imm) 1
/-- ANDI (R157). -/
def execAndi (rd ra : BitVec 5) (imm : BitVec 16) (s : State) : Res := writeRd s rd (s.reg ra &&& zimm imm) 1
/-- ORI (R157). -/
def execOri (rd ra : BitVec 5) (imm : BitVec 16) (s : State) : Res := writeRd s rd (s.reg ra ||| zimm imm) 1
/-- XORI (R157). -/
def execXori (rd ra : BitVec 5) (imm : BitVec 16) (s : State) : Res := writeRd s rd (s.reg ra ^^^ zimm imm) 1
/-- SLTI (R157). -/
def execSlti (rd ra : BitVec 5) (imm : BitVec 16) (s : State) : Res :=
  writeRd s rd (flag (decide ((s.reg ra).toInt < imm.toInt))) 1
/-- SLTIU (R157). -/
def execSltiu (rd ra : BitVec 5) (imm : BitVec 16) (s : State) : Res :=
  writeRd s rd (flag (decide ((s.reg ra).toNat < (simm imm).toNat))) 1
/-- SLLI (R158). -/
def execSlli (rd ra : BitVec 5) (n : BitVec 6) (s : State) : Res := writeRd s rd (s.reg ra <<< n.toNat) 1
/-- SRLI (R158). -/
def execSrli (rd ra : BitVec 5) (n : BitVec 6) (s : State) : Res := writeRd s rd (s.reg ra >>> n.toNat) 1
/-- SRAI (R158). -/
def execSrai (rd ra : BitVec 5) (n : BitVec 6) (s : State) : Res := writeRd s rd ((s.reg ra).sshiftRight n.toNat) 1
/-- RORI (R158): bits [n + 63 : n] of a ++ a. -/
def execRori (rd ra : BitVec 5) (n : BitVec 6) (s : State) : Res :=
  writeRd s rd ((s.reg ra ++ s.reg ra).extractLsb' n.toNat 64) 1
/-- LIH (R159). -/
def execLih (rd ra : BitVec 5) (imm : BitVec 16) (s : State) : Res := writeRd s rd ((s.reg ra <<< 16) ||| zimm imm) 1
/-- ADPC (R160). -/
def execAdpc (rd : BitVec 5) (imm : BitVec 16) (s : State) : Res := writeRd s rd (s.pc + simm imm * 65536) 1
/-- XTZ (R161). -/
def execXtz (rd ra : BitVec 5) (w p : BitVec 6) (s : State) : Res := writeRd s rd (fieldOf (s.reg ra) w p) 1
/-- XTS (R161). -/
def execXts (rd ra : BitVec 5) (w p : BitVec 6) (s : State) : Res := writeRd s rd (sextField (fieldOf (s.reg ra) w p) w) 1
/-- INS (R161). -/
def execIns (rd ra : BitVec 5) (w p : BitVec 6) (s : State) : Res := writeRd s rd (putField (s.reg rd) (s.reg ra) w p) 1
/-- LEA (R162). -/
def execLea (rd ra rb : BitVec 5) (sh : BitVec 3) (s : State) : Res := writeRd s rd (s.reg ra + s.reg rb <<< sh.toNat) 1
/-- MADD (R163). -/
def execMadd (rd ra rb rc : BitVec 5) (s : State) : Res := writeRdLate s rd (s.reg ra * s.reg rb + s.reg rc) 1 3

end Sys2Proof.Machine
end

