-- ==== Sys2Proof/Machine/Branch.lean ====
section
/-! DEFINITION. Branches and jumps of the control core (R164 to R166). -/
namespace Sys2Proof.Machine

/-- A conditional branch: a target outside tag 0x00 traps only when the branch is taken (R151, R164). -/
def branchIf (s : State) (taken : Bool) (off : BitVec 16) : Res :=
  let t := branchTarget s.pc off
  if !taken then stepOver s 1
  else if tagOf t ≠ 0 then trapTo s .badaddr t
  else jumpTo s t 3

/-- BEQ (R164). -/
def execBeq (ra rb : BitVec 5) (off : BitVec 16) (s : State) : Res := branchIf s (s.reg ra == s.reg rb) off
/-- BNE (R164). -/
def execBne (ra rb : BitVec 5) (off : BitVec 16) (s : State) : Res := branchIf s (s.reg ra != s.reg rb) off
/-- BLT (R164). -/
def execBlt (ra rb : BitVec 5) (off : BitVec 16) (s : State) : Res :=
  branchIf s (decide ((s.reg ra).toInt < (s.reg rb).toInt)) off
/-- BGE (R164). -/
def execBge (ra rb : BitVec 5) (off : BitVec 16) (s : State) : Res :=
  branchIf s (decide ((s.reg rb).toInt ≤ (s.reg ra).toInt)) off
/-- BLTU (R164). -/
def execBltu (ra rb : BitVec 5) (off : BitVec 16) (s : State) : Res :=
  branchIf s (decide ((s.reg ra).toNat < (s.reg rb).toNat)) off
/-- BGEU (R164). -/
def execBgeu (ra rb : BitVec 5) (off : BitVec 16) (s : State) : Res :=
  branchIf s (decide ((s.reg rb).toNat ≤ (s.reg ra).toNat)) off

/-- JAL (R165). -/
def execJal (rd : BitVec 5) (off : BitVec 21) (s : State) : Res :=
  let t := jalTarget s.pc off
  if tagOf t ≠ 0 then trapTo s .badaddr t else jumpTo (s.setReg rd (s.pc + 4)) t 2

/-- JALR (R166): s[ra] is read before s[rd] is written. -/
def execJalr (rd ra : BitVec 5) (imm : BitVec 16) (s : State) : Res :=
  let t := effAddr (s.reg ra) imm
  if tagOf t ≠ 0 then trapTo s .badaddr t
  else if t.extractLsb' 0 2 ≠ 0 then trapTo s .align t
  else jumpTo (s.setReg rd (s.pc + 4)) t 3

end Sys2Proof.Machine
end

