-- ==== Sys2Proof/Machine/Control.lean ====
section
/-! DEFINITION. Control blocks: their layout (R25, R26, R29, R33), the element formats of windows (R32, R253 to R258, R270), and
the checks that depend on the block alone (R27, R31, R36 and the field rules of each opcode's entry). -/
namespace Sys2Proof.Machine

/-! ### Layout -/

/-- The little-endian number of `n` bytes at offset `o`. -/
def fld (l : List Byte) (o n : Nat) : Nat := leNat ((l.drop o).take n)
/-- The same as a bit vector of `w` bits. -/
def bvf (w : Nat) (l : List Byte) (o n : Nat) : BitVec w := BitVec.ofNat w (fld l o n)

/-- The full window at offset `o` (R29). -/
def windowOf (l : List Byte) (o : Nat) : Window :=
  { base := bvf 64 l o 8, str := Vector.ofFn fun i => bvf 32 l (o + 8 + 4 * i.val) 4, fmt := bvf 8 l (o + 32) 1,
    wfl := bvf 8 l (o + 33) 1, rgn := bvf 16 l (o + 34) 2,
    ext := Vector.ofFn fun i => bvf 16 l (o + 36 + 2 * i.val) 2, pad := bvf 32 l (o + 44) 4 }

/-- The compact scale window at offset `o` (R33). -/
def scaleOf (l : List Byte) (o : Nat) : ScaleWindow :=
  { base := bvf 64 l o 8, kstr := bvf 32 l (o + 8) 4, rowstr := bvf 32 l (o + 12) 4 }

/-- The control block of 256 bytes (R25). RESW is not looked at (R28). -/
def cbOf (l : List Byte) : CB :=
  { op := bvf 8 l 0 1, flg := bvf 8 l 1 1, wsem := bvf 8 l 2 1, ssem := bvf 8 l 3 1, wcnt := bvf 16 l 4 2,
    scnt := bvf 16 l 6 2, rwin := bvf 8 l 8 1, rlvl := bvf 8 l 9 1, rrole := bvf 8 l 10 1, genx := bvf 8 l 11 1,
    pcnt := bvf 16 l 12 2, opa := bvf 16 l 14 2, tstart := bvf 64 l 16 8, sobs := bvf 32 l 24 4, opb := bvf 32 l 28 4,
    bnd := Vector.ofFn fun i => bvf 32 l (32 + 4 * i.val) 4, depth := bvf 8 l 56 1, ii := bvf 8 l 57 1,
    rsv3a := bvf 16 l 58 2, opc := bvf 32 l 60 4, w0 := windowOf l 64, w1 := windowOf l 112, w2 := windowOf l 160,
    w3 := scaleOf l 208, w4 := scaleOf l 224, plist := bvf 64 l 240 8, parm := bvf 32 l 248 4 }

/-- The bytes of a full window. -/
def Window.bytes (w : Window) : List Byte :=
  leBytes 8 w.base.toNat ++ w.str.toList.flatMap (fun x => leBytes 4 x.toNat) ++ leBytes 1 w.fmt.toNat ++
  leBytes 1 w.wfl.toNat ++ leBytes 2 w.rgn.toNat ++ w.ext.toList.flatMap (fun x => leBytes 2 x.toNat) ++
  leBytes 4 w.pad.toNat

/-- The bytes of a compact scale window. -/
def ScaleWindow.bytes (w : ScaleWindow) : List Byte :=
  leBytes 8 w.base.toNat ++ leBytes 4 w.kstr.toNat ++ leBytes 4 w.rowstr.toNat

/-- The 256 bytes of a control block, with RESW 0 (R28). -/
def CB.bytes (c : CB) : List Byte :=
  [c.op, c.flg, c.wsem, c.ssem] ++ leBytes 2 c.wcnt.toNat ++ leBytes 2 c.scnt.toNat ++
  [c.rwin, c.rlvl, c.rrole, c.genx] ++ leBytes 2 c.pcnt.toNat ++ leBytes 2 c.opa.toNat ++ leBytes 8 c.tstart.toNat ++
  leBytes 4 c.sobs.toNat ++ leBytes 4 c.opb.toNat ++ c.bnd.toList.flatMap (fun x => leBytes 4 x.toNat) ++
  [c.depth, c.ii] ++ leBytes 2 c.rsv3a.toNat ++ leBytes 4 c.opc.toNat ++ c.w0.bytes ++ c.w1.bytes ++ c.w2.bytes ++
  c.w3.bytes ++ c.w4.bytes ++ leBytes 8 c.plist.toNat ++ leBytes 4 c.parm.toNat ++ leBytes 4 0

/-- A window that is all zero. -/
def Window.zero : Window :=
  { base := 0, str := Vector.replicate 6 0, fmt := 0, wfl := 0, rgn := 0, ext := Vector.replicate 4 0, pad := 0 }
/-- A compact window that is all zero. -/
def ScaleWindow.zero : ScaleWindow := { base := 0, kstr := 0, rowstr := 0 }
/-- The block of a fetch that delivered none. -/
def CB.zero : CB := cbOf []

/-- FLG.HZ. -/
def CB.hz (c : CB) : Bool := c.flg.getLsbD 7
/-- FLG.KAT. -/
def CB.kat (c : CB) : Bool := c.flg.getLsbD 6
/-- FLG.PT. -/
def CB.pt (c : CB) : Bool := c.flg.getLsbD 5
/-- FLG.LAST. -/
def CB.last (c : CB) : Bool := c.flg.getLsbD 4
/-- FLG.ST. -/
def CB.strict (c : CB) : Bool := c.flg.getLsbD 3
/-- FLG.TB. -/
def CB.tb (c : CB) : Bool := c.flg.getLsbD 2
/-- FLG.TM. -/
def CB.tm (c : CB) : Bool := c.flg.getLsbD 1
/-- FLG.PG. -/
def CB.pg (c : CB) : Bool := c.flg.getLsbD 0
/-- WFL.RESR. -/
def Window.resr (w : Window) : Bool := w.wfl.getLsbD 3
/-- WFL.PAD is VALUE. -/
def Window.padValue (w : Window) : Bool := w.wfl.extractLsb' 1 2 == 1
/-- WFL.RING. -/
def Window.ring (w : Window) : Bool := w.wfl.getLsbD 0
/-- Full window n. -/
def CB.win (c : CB) (n : Nat) : Window := if n = 0 then c.w0 else if n = 1 then c.w1 else c.w2
/-- The bounds of the levels below DEPTH. -/
def CB.bounds (c : CB) : List Nat := (c.bnd.toList.take c.depth.toNat).map BitVec.toNat
/-- The number of iterations (R276). -/
def CB.trips (c : CB) : Nat := c.bounds.foldl (fun n b => n * b) 1
/-- A zero-trip CB (R44). -/
def CB.zeroTrip (c : CB) : Bool := c.bounds.contains 0

/-! ### Formats -/

/-- The access unit and the alignment of a format code (R32). -/
def fmtUnit (f : Byte) : Option (Nat × Nat) :=
  match f.toNat with
  | 0x01 | 0x15 => some (8, 8)
  | 0x02 | 0x14 => some (4, 4)
  | 0x03 | 0x04 | 0x13 => some (2, 2)
  | 0x05 | 0x06 | 0x09 | 0x0A | 0x0F | 0x10 | 0x11 | 0x12 | 0x16 | 0x17 => some (1, 1)
  | 0x07 | 0x08 => some (3, 1)
  | 0x20 => some (12, 2) | 0x21 => some (18, 2) | 0x22 => some (24, 2) | 0x23 => some (30, 2) | 0x24 => some (36, 2)
  | 0x25 => some (42, 2) | 0x26 => some (48, 2)
  | 0x30 | 0x31 | 0x32 => some (32, 2)
  | 0x33 | 0x34 => some (24, 2)
  | 0x35 => some (16, 2)
  | 0x38 => some (96, 2)
  | _ => none

/-- The bytes of an access unit. -/
def unitOf (f : Byte) : Nat := match fmtUnit f with | some u => u.1 | none => 1

/-- The scalar format that a conversion takes or gives (R252, R254, R255, R296); none for B8 and blocks. -/
def scalarFmt (f : Byte) : Option Fmt :=
  match f.toNat with
  | 0x01 => some (.fl fp64) | 0x02 => some (.fl fp32) | 0x03 => some (.fl fp16) | 0x04 => some (.fl bf16)
  | 0x05 => some (.fl e4m3) | 0x06 => some (.fl e5m2) | 0x07 => some (.fl e3m2) | 0x08 => some (.fl e2m3)
  | 0x09 => some (.fl e2m1) | 0x0A => some .e8m0
  | 0x10 => some (.int 2 true) | 0x11 => some (.int 4 true) | 0x16 => some (.int 4 false) | 0x12 => some (.int 8 true)
  | 0x17 => some (.int 8 false) | 0x13 => some (.int 16 true) | 0x14 => some (.int 32 true) | 0x15 => some (.int 64 true)
  | _ => none

/-- The elements of one access unit of a scalar format (R32). -/
def perUnit (f : Byte) : Nat :=
  match f.toNat with
  | 0x07 | 0x08 | 0x10 => 4
  | 0x09 | 0x11 | 0x16 => 2
  | _ => 1

/-- The elements of `n` of `w` bits that bytes hold, element k at bits [wk + w − 1 : wk] (R253). -/
def elemsOf (w n : Nat) (l : List Byte) : List Nat :=
  let x := leNat l
  (List.range n).map fun k => x / 2 ^ (w * k) % 2 ^ w

/-- The number whose element k is the k-th of a list. -/
def packElems (w : Nat) : List Nat → Nat
  | [] => 0
  | x :: r => x % 2 ^ w + 2 ^ w * packElems w r

/-- A matrix operand format (R270, R305): whether its blocks are MX, LB or AL16 ones or it is a per-tensor integer, the bits
of an element, its fraction bits f, its partial shift h, the elements of one cell group as B, and t_A. -/
inductive MxKind where
  | mx | lb | tensor | al
deriving DecidableEq, Repr

/-- What R270 and R305 give for a format. -/
structure MxFmt where
  kind  : MxKind
  bits  : Nat
  frac  : Nat
  shift : Nat
  group : Nat
  ticks : Nat
deriving DecidableEq, Repr

/-- The matrix operand formats of R270 and R305. -/
def mxFmt (f : Byte) : Option MxFmt :=
  match f.toNat with
  | 0x20 => some ⟨.lb, 2, 0, 0, 4, 2⟩ | 0x21 => some ⟨.lb, 3, 1, 0, 2, 3⟩ | 0x22 => some ⟨.lb, 4, 2, 0, 2, 4⟩
  | 0x23 => some ⟨.lb, 5, 3, 0, 1, 5⟩ | 0x24 => some ⟨.lb, 6, 4, 0, 1, 6⟩ | 0x25 => some ⟨.lb, 7, 5, 0, 1, 7⟩
  | 0x26 => some ⟨.lb, 8, 6, 0, 1, 8⟩
  | 0x30 => some ⟨.mx, 8, 6, 0, 1, 8⟩ | 0x31 => some ⟨.mx, 8, 9, 5, 1, 8⟩ | 0x32 => some ⟨.mx, 8, 16, 19, 1, 8⟩
  | 0x33 => some ⟨.mx, 6, 4, 0, 1, 6⟩ | 0x34 => some ⟨.mx, 6, 3, 0, 1, 6⟩ | 0x35 => some ⟨.mx, 4, 1, 0, 2, 4⟩
  | 0x10 => some ⟨.tensor, 2, 0, 0, 4, 2⟩ | 0x11 => some ⟨.tensor, 4, 0, 0, 2, 4⟩ | 0x12 => some ⟨.tensor, 8, 0, 0, 1, 8⟩
  | 0x17 => some ⟨.tensor, 8, 0, 0, 1, 8⟩
  | 0x38 => some ⟨.al, 16, 14, 0, 1, 16⟩
  | _ => none

/-- The block length of a pair (R271, R306). -/
def blockLen (a b : MxFmt) : Nat := if a.kind = .mx ∨ b.kind = .mx then 32 else 48
/-- C_eff of a B format (R305). -/
def MxFmt.columns (m : MxFmt) : Nat := 512 * m.group
/-- A pair that R271 allows. -/
def pairOk (a b : MxFmt) : Bool :=
  b.kind != .al &&
  (if a.kind = .mx then b.kind == .mx || b.kind == .tensor
   else if b.kind = .mx then a.kind == .tensor
   else true)

/-! ### Field rules -/

/-- A signed stride. -/
def Window.stride (w : Window) (l : Nat) : Int := (w.str.toList.getD l 0).toInt

/-- The window rules of a used full window (R29 to R32). `ext` says that the opcode uses its extents (R299). -/
def CB.usedOk (c : CB) (w : Window) (ext : Bool) : Bool :=
  match fmtUnit w.fmt with
  | none => false
  | some (_, a) =>
    decide (w.base.toNat % a = 0) &&
    ((List.range 6).all fun l => if l < c.depth.toNat then w.stride l % (a : Int) == 0 else w.stride l == 0) &&
    w.wfl.extractLsb' 4 4 == 0 && decide ((w.wfl.extractLsb' 1 2).toNat < 2) && (w.padValue || w.pad == 0) &&
    (ext || w.ext == Vector.replicate 4 0) &&
    (if tagOf w.base = 0x00 ∨ tagOf w.base = 0xF2 then w.rgn == 0xFFFF else decide (w.rgn.toNat < 32) || w.rgn == 0xFFFF)

/-- WFL is 0 apart from RESR. -/
def Window.unpadded (w : Window) : Bool := w.wfl &&& 0xF7 == 0

/-- All strides are 0. -/
def Window.still (w : Window) : Bool := w.str == Vector.replicate 6 0

/-- The window on the port side (R280). -/
def Window.portOk (w : Window) : Bool :=
  w.base == 0 && w.still && w.rgn == 0xFFFF && w.wfl == 0 && w.ext == Vector.replicate 4 0 && w.pad == 0 &&
  (fmtUnit w.fmt).isSome

/-- The tag of a window is one of R101. -/
def Window.anyTag (w : Window) : Bool := tagKnown w.base
/-- The tag of a load's destination in memory (R296, R480). -/
def Window.tileTag (w : Window) : Bool := tagOf w.base == 0xF0 || tagOf w.base == 0xF1 || tagOf w.base == 0xF2
/-- The tag of a store's source or index in memory (R296, R480). -/
def Window.ownTag (w : Window) : Bool := tagOf w.base == 0xF0 || tagOf w.base == 0xF2

/-- OPA[2:0]. -/
def CB.port (c : CB) : Nat := (c.opa.extractLsb' 0 3).toNat
/-- The load engine's destination: memory in a tile, or an input port (R280, R296). -/
def CB.destOk (c : CB) (w : Window) : Bool :=
  if c.port = 0 then c.usedOk w false && w.tileTag else decide (4 ≤ c.port) && w.portOk
/-- The store engine's source: own memory, or an output port. -/
def CB.sourceOk (c : CB) (w : Window) : Bool :=
  if c.port = 0 then c.usedOk w false && w.ownTag else decide (6 ≤ c.port) && w.portOk
/-- An index window (R298). -/
def CB.indexOk (c : CB) (w : Window) : Bool := c.usedOk w false && (w.fmt == 0x14 || w.fmt == 0x15)
/-- An opcode that does not iterate: DEPTH 1, BND0 1. -/
def CB.once (c : CB) : Bool := c.depth == 1 && c.bnd == #v[1, 0, 0, 0, 0, 0]
/-- No full window from n on is used. -/
def CB.fullZero (c : CB) (n : Nat) : Bool :=
  (decide (0 < n) || c.w0 == Window.zero) && (decide (1 < n) || c.w1 == Window.zero) && (decide (2 < n) || c.w2 == Window.zero)
/-- No compact window is used. -/
def CB.scaleZero (c : CB) : Bool := c.w3 == ScaleWindow.zero && c.w4 == ScaleWindow.zero
/-- Bits from n on of OPA are 0. -/
def CB.opaBelow (c : CB) (n : Nat) : Bool := decide (c.opa.toNat < 2 ^ n)
/-- OPB, OPC and PARM are 0. -/
def CB.opsZero (c : CB) : Bool := c.opb == 0 && c.opc == 0 && c.parm == 0

/-- The fields of NOP, MODE, PATCH and CRYS (R288, R289, R294, R295, R369). -/
def CB.commonOk (c : CB) (e : Eng) : Bool :=
  c.fullZero 0 && c.scaleZero &&
  match c.op.toNat with
  | 0x01 => c.once && c.opa == 0 && c.opb == 0 && c.parm == 0
  | 0x02 =>
    c.once && c.opaBelow 7 && decide ((c.opa.extractLsb' 0 3).toNat < 6) && c.parm == 0 &&
    (c.opa.getLsbD 6 || (c.opb == 0 && c.opc == 0))
  | 0x03 => c.pt && c.once && c.opa == 0 && c.opsZero
  | _ =>
    let i := c.opa.extractLsb' 0 8
    let o := c.opa.extractLsb' 8 8
    c.kat && c.depth == 1 && decide (1 ≤ (c.bnd[0]).toNat ∧ (c.bnd[0]).toNat ≤ 4096) && (scalarFmt i).isSome &&
    (scalarFmt o).isSome && decide (c.opb.toNat < 256) && c.opc == 0 && c.parm == 0 &&
    (e != .rt || ((i == 0x02 || i == 0x03 || i == 0x04) && o == 0x02))

/-- The axes that LD.CONV's maps name (R299): the axis and the step of level l. -/
def CB.convMap (c : CB) (l : Nat) : Nat × Nat :=
  let m := if l < 5 then c.opc.toNat / 2 ^ (6 * l) % 64 else (c.opa.extractLsb' 4 6).toNat
  (m % 4, m / 4)
/-- The byte stride of an axis (R299). -/
def CB.axisStride (c : CB) (a : Nat) : Int :=
  (if a = 0 then c.w3.kstr else if a = 1 then c.w3.rowstr else if a = 2 then c.w4.kstr else c.w4.rowstr).toInt
/-- Some map names axis a. (DESIGN CHOICE, log entry 100: the map of a level at or above DEPTH counts too.) -/
def CB.axisNamed (c : CB) (a : Nat) : Bool := (List.range 6).any fun l => (c.convMap l).1 == a && (c.convMap l).2 != 0
/-- The extent of an axis. -/
def CB.extent (c : CB) (a : Nat) : Nat := (c.w0.ext.toList.getD a 0).toNat

/-- The fields of the load opcodes (R296 to R300). -/
def CB.loadOk (c : CB) : Bool :=
  match c.op.toNat with
  | 0x10 => c.opaBelow 3 && c.opsZero && c.fullZero 2 && c.scaleZero && c.usedOk c.w0 false && c.w0.anyTag &&
    c.destOk c.w1 && c.w0.fmt == c.w1.fmt
  | 0x11 => c.opaBelow 3 && c.opsZero && c.fullZero 2 && c.scaleZero && c.usedOk c.w0 false && c.w0.anyTag &&
    c.destOk c.w1 && (scalarFmt c.w0.fmt).isSome && (scalarFmt c.w1.fmt).isSome
  | 0x12 => c.opa == 0 && c.opsZero && c.scaleZero && c.usedOk c.w0 false && c.w0.anyTag &&
    (c.w0.fmt == 0x03 || c.w0.fmt == 0x04 || c.w0.fmt == 0x05) && c.usedOk c.w1 false && c.w1.tileTag &&
    c.w1.fmt == 0x38 && c.usedOk c.w2 false && c.w2.tileTag && c.w2.fmt == 0x0A
  | 0x13 => c.opaBelow 4 && c.opb != 0 && c.scaleZero && c.usedOk c.w0 false && c.w0.anyTag && c.w0.still &&
    c.destOk c.w1 && c.indexOk c.w2 && c.w2.anyTag && decide (1 ≤ c.parm.toNat ∧ c.parm.toNat ≤ 4096)
  | 0x14 => c.opa.getLsbD 3 == false && c.opaBelow 10 && decide (c.opc.toNat < 2 ^ 30) && c.parm == 0 &&
    c.usedOk c.w0 true && c.w0.anyTag && c.destOk c.w1 && c.w1.fmt == c.w0.fmt && c.w2 == Window.zero &&
    c.w3.base == 0 && c.w4.base == 0 &&
    ((List.range 4).all fun a =>
      if c.axisNamed a then c.extent a != 0 else c.extent a == 0 && c.axisStride a == 0)
  | _ => c.opaBelow 3 && c.opb == 0 && c.w0 == Window.zero && c.w2 == Window.zero && c.scaleZero && c.destOk c.w1 &&
    (match scalarFmt c.w1.fmt with
     | some f => f.width == 64 || (c.opc == 0 && decide (c.parm.toNat < 2 ^ f.width))
     | none => c.w1.fmt == 0x0F && c.opc == 0 && decide (c.parm.toNat < 256))

/-- The bytes of a page size code of ST.MIGR (R303). -/
def migrBytes (c : CB) : Nat := pageBytes (c.opa.extractLsb' 0 2)
/-- A window of ST.MIGR (R303). (DESIGN CHOICE, log entry 101: no PAD.) -/
def CB.migrWin (c : CB) (w : Window) : Bool :=
  w.base.extractLsb' 48 16 == 0 && decide (w.base.toNat % migrBytes c = 0) && oneRange w.base.toNat (migrBytes c) &&
  w.str == #v[64, 0, 0, 0, 0, 0] && w.fmt == 0x0F && w.wfl.extractLsb' 0 3 == 0 && w.wfl.extractLsb' 4 4 == 0 &&
  w.rgn == 0xFFFF && w.ext == Vector.replicate 4 0 && w.pad == 0

/-- The fields of the store opcodes (R296, R298, R301, R303). -/
def CB.storeOk (c : CB) (kmode : Bool) : Bool :=
  match c.op.toNat with
  | 0x20 => c.opaBelow 3 && c.opsZero && c.fullZero 2 && c.scaleZero && c.sourceOk c.w0 && c.usedOk c.w1 false &&
    c.w1.anyTag && c.w0.fmt == c.w1.fmt
  | 0x21 => c.opaBelow 3 && c.opsZero && c.fullZero 2 && c.scaleZero && c.sourceOk c.w0 && c.usedOk c.w1 false &&
    c.w1.anyTag && (scalarFmt c.w0.fmt).isSome && (scalarFmt c.w1.fmt).isSome
  | 0x22 => c.opaBelow 4 && c.opb != 0 && c.scaleZero && c.sourceOk c.w0 && c.indexOk c.w1 && c.w1.ownTag &&
    c.usedOk c.w2 false && c.w2.anyTag && c.w2.still && decide (1 ≤ c.parm.toNat ∧ c.parm.toNat ≤ 4096)
  | 0x23 =>
    let f := c.w0.fmt
    c.opaBelow 10 && decide ((c.opa.extractLsb' 3 2).toNat < 3) && c.scaleZero && c.sourceOk c.w0 && c.usedOk c.w1 false &&
    c.w1.anyTag && f == c.w1.fmt &&
    (f == 0x01 || f == 0x02 || f == 0x03 || f == 0x04 || f == 0x14 || f == 0x15) &&
    (if c.opa.getLsbD 8 then c.opb != 0 && decide (1 ≤ c.parm.toNat ∧ c.parm.toNat ≤ 4096) && c.w1.still &&
        c.indexOk c.w2 && c.w2.ownTag
     else c.opa.getLsbD 9 == false && c.opsZero && c.w2 == Window.zero)
  | _ =>
    kmode && c.opa &&& 0xF8FC == 0 && c.opa.extractLsb' 0 2 != 3 && decide ((c.opa.extractLsb' 8 3).toNat < 4) &&
    decide (c.opb.toNat < 65536) && c.opc == 0 && c.parm == 0 && c.depth == 1 &&
    decide ((c.bnd[0]).toNat = migrBytes c / 64) && c.migrWin c.w0 && c.migrWin c.w1 && c.w2 == Window.zero && c.scaleZero

/-- A scale window serves an operand format (R315). (DESIGN CHOICE, log entry 102: the forms of MX operands.) -/
def ScaleWindow.serves (w : ScaleWindow) (m : MxFmt) : Bool :=
  tagOf w.base == 0xF0 &&
  (if m.kind = .tensor then w.kstr == 0 && w.rowstr == 0
   else
     let block := w.kstr == 1 && w.rowstr != 0 && decide (w.rowstr.toNat % 16 = 0) && decide (w.base.toNat % 16 = 0)
     if m.kind = .mx then block || (w.kstr == 0 && w.rowstr == 0) else block)

/-- KP of MX.WLOAD fits its format (R309). -/
def krowsOk (m : MxFmt) (kp : Nat) : Bool :=
  match m.kind with
  | .lb => decide (48 ≤ kp ∧ kp ≤ 384 ∧ kp % 48 = 0)
  | .mx => decide (32 ≤ kp ∧ kp ≤ 384 ∧ kp % 32 = 0)
  | .tensor => decide (16 ≤ kp ∧ kp ≤ 384 ∧ kp % 16 = 0)
  | .al => false

/-- The C0 and NC of a product, and the K rows. -/
def CB.c0 (c : CB) : Nat := (c.opc.extractLsb' 0 12).toNat
/-- NC. -/
def CB.nc (c : CB) : Nat := (c.opc.extractLsb' 12 12).toNat
/-- KR or KP. -/
def CB.krows (c : CB) : Nat := (c.opb.extractLsb' 0 9).toNat
/-- WIDEB. -/
def CB.wideb (c : CB) : Bool := c.opa.getLsbD 5
/-- FUSE. -/
def CB.fuse (c : CB) : Bool := c.opa.getLsbD 4
/-- SATM. -/
def CB.satm (c : CB) : Bool := c.opa.getLsbD 3

/-- The fields of the products (R312, R314, R315). -/
def CB.productOk (c : CB) : Bool :=
  match mxFmt c.w0.fmt, mxFmt c.w2.fmt with
  | some a, some b =>
    let l := blockLen a b
    let mmb := c.op == 0x32
    c.opaBelow 6 && (!c.wideb || !mmb) && (!c.fuse || (mmb && !c.satm)) && (c.opa.getLsbD 2 || c.opa.extractLsb' 0 2 == 0) &&
    decide (c.opb.toNat < 512) && decide (l ≤ c.krows ∧ c.krows ≤ 384 ∧ c.krows % l = 0) &&
    decide (c.opc.toNat < 2 ^ 24) && decide (1 ≤ c.nc ∧ c.nc ≤ 2048 ∧ c.c0 + c.nc ≤ b.columns) && pairOk a b &&
    c.usedOk c.w0 false && tagOf c.w0.base == 0xF0 && c.usedOk c.w1 false && tagOf c.w1.base == 0xF2 &&
    c.w1.fmt == (if c.fuse then 0x02 else 0x14) && c.usedOk c.w2 false && c.w2.base == 0 && c.w2.still && c.parm == 0 &&
    (if c.fuse then c.w3.serves a && c.w4.serves b else c.scaleZero) &&
    (!c.wideb || (c.w2.fmt == 0x12 && (a.kind == .lb || a.kind == .tensor)))
  | _, _ => false

/-- The A and B format codes of MX.SACC (R316). -/
def CB.saccFmts (c : CB) : Byte × Byte := (c.opb.extractLsb' 0 8, c.opb.extractLsb' 8 8)
/-- nb of MX.SACC. -/
def CB.saccBlocks (c : CB) : Nat := (c.opb.extractLsb' 16 4).toNat

/-- The fields of the matrix opcodes (R309, R312, R316 to R318). -/
def CB.matrixOk (c : CB) : Bool :=
  match c.op.toNat with
  | 0x30 =>
    (match mxFmt c.w0.fmt with
     | some m => c.opa == 0 && decide (c.opb.toNat < 512) && krowsOk m c.krows && decide (c.opc.toNat < 4096) &&
       decide (c.c0 < m.columns) && c.parm == 0 && c.usedOk c.w0 false &&
       (tagOf c.w0.base == 0x00 || tagOf c.w0.base == 0xF0 || tagOf c.w0.base == 0xF1) && c.fullZero 1 && c.scaleZero
     | none => false)
  | 0x31 => c.productOk
  | 0x32 => c.productOk
  | 0x33 =>
    (match mxFmt c.saccFmts.1, mxFmt c.saccFmts.2 with
     | some a, some b =>
       c.opa == 0 && pairOk a b && decide (1 ≤ c.saccBlocks ∧ c.saccBlocks ≤ (if blockLen a b = 32 then 12 else 8)) &&
       decide (c.opb.toNat < 2 ^ 20) && decide (1 ≤ c.nc ∧ c.nc ≤ 2048) && c.c0 == 0 && decide (c.opc.toNat < 2 ^ 24) &&
       c.usedOk c.w0 false && tagOf c.w0.base == 0xF2 && c.w0.fmt == 0x14 && c.usedOk c.w1 false &&
       (tagOf c.w1.base == 0xF2 || tagOf c.w1.base == 0xF0) && c.w1.fmt == 0x02 && c.w3.serves a && c.w4.serves b &&
       c.w2 == Window.zero && c.parm == 0
     | _, _ => false)
  | 0x34 => c.opaBelow 1 && c.opb == 0 && c.opc == 0 && c.w0 == Window.zero && c.w2 == Window.zero && c.scaleZero &&
    c.usedOk c.w1 false && tagOf c.w1.base == 0xF2 && (c.w1.fmt == 0x14 || c.w1.fmt == 0x02)
  | _ => c.opaBelow 2 && c.opsZero && c.fullZero 2 && c.scaleZero && c.usedOk c.w0 false && tagOf c.w0.base == 0xF2 &&
    (c.w0.fmt == 0x14 || c.w0.fmt == 0x02) && c.usedOk c.w1 false &&
    (tagOf c.w1.base == 0xF0 || tagOf c.w1.base == 0xF1) && (scalarFmt c.w1.fmt).isSome

/-- The accumulator-port window of GR.RUN (R323). -/
def CB.accWin (c : CB) : Bool :=
  c.w2 == Window.zero ||
  (c.usedOk c.w2 false && tagOf c.w2.base == 0xF2 && (c.w2.fmt == 0x14 || c.w2.fmt == 0x02) &&
   decide (c.w2.base.toNat % 32 = 0) && ((List.range 6).all fun l => c.w2.stride l % 32 == 0) && c.w2.pad == 0 && c.w2.unpadded)

/-- The fields of the grid opcodes (R323). (DEDUCED, log entry 55: RESR stands in a grid CB's window as in any.) -/
def CB.gridOk (c : CB) : Bool :=
  c.rwin == 0xFF &&
  match c.op.toNat with
  | 0x40 => c.opaBelow 1 && c.opsZero && c.once && c.usedOk c.w0 false && (tagOf c.w0.base == 0x00 || tagOf c.w0.base == 0xF0) &&
    decide (c.w0.base.toNat % 64 = 0) && c.w0.fmt == 0x0F && c.w0.still && c.w0.rgn == 0xFFFF && c.w0.pad == 0 && c.w0.unpadded && c.fullZero 1 && c.scaleZero
  | 0x41 => c.opaBelow 2 && (!c.opa.getLsbD 1 || !c.opa.getLsbD 0) && c.opb == 0 && c.accWin && c.w0 == Window.zero &&
    c.w1 == Window.zero && c.scaleZero
  | _ => c.opaBelow 3 && (!c.opa.getLsbD 1 || !c.opa.getLsbD 0) && c.opsZero && c.once && c.fullZero 0 && c.scaleZero

/-- A full window of a Siphon CB (R355). -/
def CB.siphonWin (c : CB) (w : Window) (align : Nat) : Bool :=
  c.usedOk w false && (tagOf w.base == 0x00 || tagOf w.base == 0xF0) && w.still && w.rgn == 0xFFFF && w.pad == 0 &&
  w.unpadded && decide (w.base.toNat % align = 0)
/-- The expert table window (R357). -/
def ScaleWindow.expertOk (w : ScaleWindow) : Bool :=
  (tagOf w.base == 0x00 || tagOf w.base == 0xF0) && w.kstr == 16 && w.rowstr == 0 && decide (w.base.toNat % 16 = 0)

/-- The fields of the Siphon opcodes (R355, R357). -/
def CB.siphonOk (c : CB) : Bool :=
  c.rwin == 0xFF && c.once && c.opaBelow 8 && c.parm == 0 && c.w4 == ScaleWindow.zero && c.w3.expertOk &&
  match c.op.toNat with
  | 0x50 => decide (c.opb.toNat ≤ 1048576) && c.opc == 0 && c.siphonWin c.w0 1 &&
    (c.w0.fmt == 0x02 || c.w0.fmt == 0x03 || c.w0.fmt == 0x04) && c.siphonWin c.w1 16 && c.w1.fmt == 0x0F &&
    c.siphonWin c.w2 1 && c.w2.fmt == 0x14
  | 0x51 => decide (1 ≤ c.opb.toNat ∧ c.opb.toNat ≤ 64) && c.opc == 0 && c.w0 == Window.zero && c.siphonWin c.w1 8 &&
    c.w1.fmt == 0x0F && c.w2 == Window.zero
  | _ => decide (1 ≤ c.opb.toNat ∧ c.opb.toNat ≤ 64) && decide (1 ≤ c.opc.toNat ∧ c.opc.toNat ≤ 65536) &&
    c.siphonWin c.w0 1 && c.w0.fmt == 0x14 && c.siphonWin c.w1 8 && c.w1.fmt == 0x0F && c.siphonWin c.w2 32 &&
    c.w2.fmt == 0x0F

/-- The opcode is assigned, belongs to the engine, and its fields obey its entry (R27, R122, R123). -/
def CB.opOk (c : CB) (e : Eng) (kmode : Bool) : Bool :=
  let n := c.op.toNat
  if 1 ≤ n ∧ n ≤ 4 then c.commonOk e
  else match e with
    | .ld => decide (0x10 ≤ n ∧ n ≤ 0x15) && c.loadOk
    | .st => decide (0x20 ≤ n ∧ n ≤ 0x24) && c.storeOk kmode
    | .gr => decide (0x40 ≤ n ∧ n ≤ 0x42) && c.gridOk
    | .mx => decide (0x30 ≤ n ∧ n ≤ 0x35) && c.matrixOk
    | .rt => decide (0x50 ≤ n ∧ n ≤ 0x52) && c.siphonOk

/-- How many full windows have their RING flag set. -/
def CB.rings (c : CB) : Nat := ([c.w0, c.w1, c.w2].filter Window.ring).length

/-- The rules of R27 that hold for every opcode. -/
def CB.fieldsOk (c : CB) (static : Bool) : Bool :=
  (if c.wsem = 0xFF then c.wcnt == 0 else decide (c.wsem.toNat < 64)) &&
  (if c.ssem = 0xFF then c.scnt == 0 && c.sobs == 0
   else decide (c.ssem.toNat < 64) && decide (c.sobs.toNat < 64) && c.sobs != 0) &&
  (if c.rwin = 0xFF then c.rlvl == 0 && c.rrole == 0 && c.genx == 0 && c.rings == 0
   else decide (c.rwin.toNat < 3) && decide (c.rlvl.toNat < c.depth.toNat) && decide (c.rrole.toNat ≤ 1) &&
     (c.rrole == 1 || c.genx == 0) && (c.win c.rwin.toNat).ring && c.rings == 1) &&
  (c.pg || c.pcnt == 0) &&
  (if c.tm then !c.tb || static else !c.tb && !c.strict && c.tstart == 0) &&
  decide (1 ≤ c.depth.toNat ∧ c.depth.toNat ≤ 6) &&
  ((List.range 6).all fun l => decide (l < c.depth.toNat) || (c.bnd.toList.getD l 0) == 0) &&
  (if c.op = 0x41 then decide (1 ≤ c.ii.toNat ∧ c.ii.toNat ≤ 64) else c.ii == 0) &&
  !(c.kat && c.pt) && (c.kat || c.pt || c.plist == 0) &&
  (!c.pt || (decide (c.plist.toNat % 32 = 0) && (tagOf c.plist == 0x00 || tagOf c.plist == 0xF0))) && c.rsv3a == 0

/-- The strides of a ring window at RLVL and outer levels are 0 (R36). -/
def CB.ringStill (c : CB) : Bool :=
  c.rwin == 0xFF || (List.range 6).all fun l => decide (l < c.rlvl.toNat) || (c.win c.rwin.toNat).stride l == 0

/-- Every rule of R27 that the block alone decides. -/
def CB.formOk (c : CB) (e : Eng) (kmode static : Bool) : Bool :=
  c.fieldsOk static && c.opOk e kmode && c.ringStill

end Sys2Proof.Machine
end

