-- ==== Sys2Proof/Machine/Ports.lean ====
section
/-! DEFINITION. The position of a control block in its loop nest and in the stream that it delivers to an input port of the grid
(R276, R280), and how a load engine takes back what the grid has not reserved (R107, R285, R337). -/
namespace Sys2Proof.Machine

/-! ### Positions in a loop nest (R276) -/

/-- The indices as the loop-index stack. -/
def idxVec (l : List Nat) : Vector (BitVec 32) 6 := Vector.ofFn fun i => BitVec.ofNat 32 (l.getD i.val 0)

/-- The position of an index tuple in flattened order. -/
def flatOf : List Nat → List Nat → Nat
  | b :: bs, i :: is => i + b * flatOf bs is
  | _, _ => 0

/-- The index tuple at a flattened position. -/
def tupleOf : List Nat → Nat → List Nat
  | [], _ => []
  | b :: bs, n => n % b :: tupleOf bs (n / b)

/-- How many iterations an iteration of level RLVL of a ring CB holds. -/
def CB.perSlot (c : CB) : Nat := (c.bounds.take c.rlvl.toNat).foldl (fun n b => n * b) 1

/-! ### What an iteration moves -/

/-- How many elements an iteration of a conversion takes (R296). -/
def CB.group (c : CB) : Nat := max (perUnit c.w0.fmt) (perUnit c.w1.fmt)
/-- The source bytes of an iteration of a conversion. -/
def CB.cvtIn (c : CB) : Nat := c.group / perUnit c.w0.fmt * unitOf c.w0.fmt
/-- The destination bytes of an iteration of a conversion. -/
def CB.cvtOut (c : CB) : Nat := c.group / perUnit c.w1.fmt * unitOf c.w1.fmt
/-- The bytes of a row: U units of a format. -/
def CB.rowBytes (c : CB) (f : Byte) : Nat := (c.parm.extractLsb' 0 16).toNat * unitOf f

/-- The bytes that an iteration of a load CB delivers to a port. -/
def CB.portBytes (c : CB) : Nat :=
  match c.op.toNat with
  | 0x11 => c.cvtOut
  | 0x13 => c.rowBytes c.w0.fmt
  | 0x15 => unitOf c.w1.fmt
  | _ => unitOf c.w0.fmt

/-- The input port of a load CB. -/
def CB.inPort (c : CB) : Fin 4 := ⟨(c.port - 4) % 4, Nat.mod_lt _ (by decide)⟩
/-- The output port of a store CB. -/
def CB.outPort (c : CB) : Fin 2 := ⟨(c.port - 6) % 2, Nat.mod_lt _ (by decide)⟩

/-- A CB of the load engine that delivers to a port. -/
def CB.loadsPort (c : CB) : Bool := c.port != 0 && decide (0x10 ≤ c.op.toNat ∧ c.op.toNat ≤ 0x15)

/-- A generator after `n` draws. -/
def genAfter : Nat → Word → Word
  | 0, g => g
  | n + 1, g => genAfter n (genStep g)

/-- The chain at the head of an engine's queue changes. -/
def Engine.modHead (x : Engine) (f : Chain → Chain) : Engine :=
  match x.queue with
  | c :: r => { x with queue := f c :: r }
  | [] => x

/-! ### Entries that go back (R337) -/

/-- The load engine after `m` entries of its CB that the grid has not reserved are discarded: it goes back to the iteration that holds the
first byte that the grid has not got, and counts the bytes of it that come before. A ring load goes back within the slot that it
holds. (DEDUCED, log entry 55: a ring load holds a slot until the grid has its bytes.) -/
def Engine.rewind (x : Engine) (m : Nat) : Engine :=
  match x.cur, x.queue with
  | some f, ch :: _ =>
    let c := f.cb
    let b := max c.portBytes 1
    let flat := flatOf c.bounds (x.idx.toList.map BitVec.toNat)
    let done := if x.tail then c.trips else flat
    let first := 32 * (x.pushed - m)
    let back (i skip : Nat) (part : List (Byte × Bool)) : Engine :=
      let gen := if c.op = 0x11 ∧ (Mode.of ch.mode).rnd = .sr then genAfter (i * c.group) x.bodyGen else ch.gen
      { x with idx := idxVec (tupleOf c.bounds i), skip := BitVec.ofNat 32 skip, redo := done + x.redo - i, partIn := part,
               tail := false, slotOver := false, pushed := x.pushed - m }.modHead fun d => { d with gen }
    if x.stage ≠ .body ∨ done * b ≤ first then x
    else if c.rwin = 0xFF then back (first / b) (first % b) []
    else match x.ring with
      | none => x
      | some _ =>
        let per := max c.perSlot 1
        let start := (if x.slotOver ∨ x.tail then done - 1 else done) / per * per
        if first < start * b then back start 0 (x.carry.drop (x.carry.length - (start * b - first)))
        else back (first / b) (first % b) []
  | _, _ => x

/-- The entries that the grid has not reserved in the port of tile P's load engine, in the run in progress. -/
def State.unreserved (s : State) (P : TileId) : Nat :=
  match (s.tile P).grid.run, ((s.tile P).eng[engIx .ld]).cur with
  | some r, some f => if f.cb.loadsPort then (r.inp[f.cb.inPort]).length - (r.inHeld[f.cb.inPort]).length else 0
  | _, _ => 0

/-- The load engine of tile P takes back from its port what the grid has not reserved. -/
def Tile.giveBack (t : Tile) : Tile :=
  let x := t.eng[engIx .ld]
  match x.cur with
  | some f =>
    if f.cb.loadsPort then
      match t.grid.run with
      | some r =>
        let p := f.cb.inPort
        let held := (r.inHeld[p]).length
        { t with eng := t.eng.set (engIx .ld) (x.rewind ((r.inp[p]).length - held)),
                 grid := { t.grid with run := some { r with inp := r.inp.set p ((r.inp[p]).take held) } } }
      | none => { t with eng := t.eng.set (engIx .ld) (x.rewind 0) }
    else t
  | none => t

end Sys2Proof.Machine
end

