-- ==== Sys2Proof/Machine/ChainOps.lean ====
section
/-! DEFINITION. The chain queues of the engines (R105, R200 to R203), the lease of a quad array (R90, R91) and the schedule
selector (R86, R87): the operations that instructions and engine events share. -/
namespace Sys2Proof.Machine

/-! ### Chain queues -/

/-- Oldest: the number of the oldest chain that has not ended, or Issued (R200). -/
def Engine.oldest (e : Engine) : BitVec 32 :=
  match e.queue with
  | c :: _ => c.num
  | [] => e.issued

/-- SInt(a − b) < 0 in 32 bits: `a` comes before `b` in wrap-around order (R200). -/
def before32 (a b : BitVec 32) : Bool := (a - b).msb

/-- The core of tile P, if it waits for the given kind, executes its instruction again. -/
def State.rerun (s : State) (P : TileId) (k : WaitKind) : State :=
  match (s.core P).run with
  | .waiting _ j _ => if j = k then s.modCore P fun c => { c with run := .running } else s
  | _ => s

/-- A chain of tile P has ended: IDLE ends, and a core that waits for it or for a queue place looks again. -/
def State.chainEnded (s : State) (P : TileId) : State :=
  ((s.modTile P fun t => { t with wake := true }).rerun P .queue).rerun P .chain

/-- A chain joins the queue of an engine (R200). `need` is what its accesses must see (R387). -/
def Engine.enqueue (e : Engine) (head : Word) (mode : BitVec 6) (pkr : Word) (image : Option (BitVec 1)) (need : Clock) : Engine :=
  { e with
    issued := e.issued + 1,
    queue := e.queue ++ [{ num := e.issued, head, next := head, last := false, patch := 0, mode, pkr, gen := 0, image,
                           modes := 0, need }] }

/-- The engine has no current CB and nothing prefetched. -/
def Engine.clearCb (e : Engine) : Engine :=
  { e with ahead := [], cur := none, stage := .idle, block := .none, idx := Vector.replicate 6 0, started := false,
           acquired := false, elastic := false, onTime := false, result := 0, hash := 0, count := 0, slots := 0,
           ring := none, resw := 0, poisoned := false, byteWrites := false, partIn := [], staging := [], skip := 0, redo := 0, pushed := 0, carry := [],
           slotOver := false, patched := false, tail := false, rowDone := 0, rowIdx := none, sending := false, slipped := false, lines := [],
           readySince := none }

/-- The regions of every tile of tile P's task lose the holds of an engine of P. -/
def State.dropHolds (s : State) (P : TileId) (e : Eng) : State :=
  let one (s : State) (Q : TileId) : State :=
    if (s.tile Q).regions.toList.any fun r => match r with
        | some r => r.holds.any fun h => h.tile == P && h.eng == e
        | none => false then
      s.modTile Q fun t =>
        { t with regions := Vector.ofFn fun i => t.regions[i].map fun r =>
            { r with holds := r.holds.filter fun h => !(h.tile == P && h.eng == e) } }
    else s
  match s.taskOf P with
  | some k => s.eachTile k.tiles one
  | none => one s P

/-! ### Leases (R90, R91) -/

/-- Tile P holds the lease of its quad array. -/
def State.hasLease (s : State) (P : TileId) : Bool :=
  match (s.quad (quadOf P)).lease with
  | .held t _ _ => t == posOf P
  | _ => false

/-- Position t requests the lease. -/
def Quad.wantsBy (q : Quad) (t : BitVec 2) : Bool := q.wants.getLsbD t.toNat

/-- The next requesting position after `h`, if there is one other than `h`. -/
def Quad.nextWant (q : Quad) (h : BitVec 2) : Option (BitVec 2) :=
  [h + 1, h + 2, h + 3].find? fun t => q.wantsBy t

/-- The bit of a position. -/
def posBit (t : BitVec 2) : BitVec 4 := BitVec.ofNat 4 (2 ^ t.toNat)

/-- A lease is granted to a position: its request is met and the counts start again (R91). -/
def Quad.grant (q : Quad) (t : BitVec 2) (now : Nat) : Quad :=
  { q with lease := .held t now 0, wants := q.wants &&& ~~~ posBit t, yield := false }

/-- A lease ends (R91): hand-over to the next requesting position, a renewal for a holder that is still ready, or idle. -/
def Quad.endLease (q : Quad) (h : BitVec 2) (still : Bool) (now : Nat) : Quad :=
  match q.nextWant h with
  | some t => { q with lease := .switch t now, wants := if still then q.wants ||| posBit h else q.wants &&& ~~~ posBit h,
                       yield := false }
  | none => if still then q.grant h now else { q with lease := .idle, wants := q.wants &&& ~~~ posBit h, yield := false }

/-- The lease of tile P's array ends if P holds it, and P no longer requests it. -/
def State.dropLease (s : State) (P : TileId) : State :=
  if s.hasLease P then s.modQuad (quadOf P) fun q => q.endLease (posOf P) false s.tick
  else if (s.quad (quadOf P)).wantsBy (posOf P) then
    s.modQuad (quadOf P) fun q => { q with wants := q.wants &&& ~~~ posBit (posOf P) }
  else s

/-- Plane p of quad g. -/
def State.plane (s : State) (g : Nat) (p : BitVec 2) : Plane := (s.quad g).planes[p.toNat]'p.isLt

/-- Plane p of quad g changes by `f`. -/
def State.modPlane (s : State) (g : Nat) (p : BitVec 2) (f : Plane → Plane) : State :=
  s.modQuad g fun q => { q with planes := q.planes.set p.toNat (f (q.planes[p.toNat]'p.isLt)) p.isLt }

/-! ### Killing chains (R203) -/

/-- An engine of tile P leaves the queues of the ring semaphores in which it waits for a slot. -/
def State.leaveRings (s : State) (P : TileId) (e : Eng) : State :=
  match (s.taskOf P).map fun k => k.tiles with
  | some l => s.eachTile l fun s Q => if (s.tile Q).waiters.any fun w => w.who == .ring P e then s.semLeave Q (.ring P e) else s
  | none => s

/-- The running CB of an engine is cancelled: its queued header wait, its parked accesses, its holds, its slip hold and
its events are withdrawn (R203, R444). -/
def State.cancelCb (s : State) (P : TileId) (e : Eng) : State :=
  let s := (s.semLeave P (.header e)).unpark P (engSrc e)
  let s := (s.leaveRings P e).dropHolds P e
  let s := if e = .ld then s.modTile P Tile.giveBack else s
  let s := if e = .mx then ((s.countWait P).dropLease P).modPlane (quadOf P) (posOf P) fun p => { p with loading := false } else s
  let s := s.settleRcc.modTaskOf P fun k => { k with slipHold := k.slipHold.filter fun x => x != (P, e) }
  let s := s.modTile P fun t => { t with events := t.events.filter fun v => v.src != engSrc e }
  let s := s.modDie (dieOf P) fun d =>
    if e = .rt ∧ d.siphon.serving = some P then { d with siphon := { d.siphon with serving := none, last := P } } else d
  let s := s.modEngine P e fun x => { x.clearCb with hold := Vector.replicate 2 [] }
  if e = .gr then
    s.modTile P fun t => { t with grid := { t.grid with run := t.grid.run.map fun r => { r with drain := true, orphan := true } } }
  else s

/-- The chains of an engine from number n on end, killed: the refetch records of their CBs go (R444). -/
def State.killFrom (s : State) (P : TileId) (e : Eng) (n : BitVec 32) : State :=
  let x := s.engine P e
  let dead := x.queue.filter fun c => !before32 c.num n
  let runs : Bool := match x.queue with
    | c :: _ => !before32 c.num n
    | [] => false
  let s := if runs then s.cancelCb P e else s
  let gone (r : Refetch) : Bool := dead.any fun c => c.num == r.chain
  let s := s.modEngine P e fun x =>
    { x with queue := x.queue.filter fun c => before32 c.num n, killed := x.killed ++ dead.map fun c => c.num,
             refetch := x.refetch.filter fun r => !gone r }
  if dead.isEmpty then s else s.chainEnded P

/-- How many chains of an engine CHKILL of n ends (R203). -/
def Engine.killCount (e : Engine) (n : BitVec 32) : Nat :=
  if before32 n e.issued then (e.queue.filter fun c => !before32 c.num n).length else 0

/-- The engine waits for the target chain of its patch list (R293). -/
def Block.awaitsTarget : Block → Bool
  | .patchTarget _ _ => true
  | _ => false

/-- The planes that a product CB reads, by quad position (R312, R314). -/
def CB.planesOf (c : CB) (home : BitVec 2) : List (BitVec 2) :=
  let p := if c.opa.getLsbD 2 then c.opa.extractLsb' 0 2 else home
  if c.opa.getLsbD 5 then [p, p + 1] else [p]

/-- Another tile of the quad has started a product that names the home plane of tile P, and has not ended its loop nest. -/
def State.planeRead (s : State) (P : TileId) : Bool :=
  [0, 1, 2, 3].any fun t =>
    let Q : TileId := BitVec.ofNat 10 (4 * quadOf P + t)
    let x := s.engine Q .mx
    Q != P && decide (x.stage = .body) && (x.started || decide (x.idx ≠ Vector.replicate 6 0)) &&
    (match x.cur with
     | some f => (f.cb.op == 0x31 || f.cb.op == 0x32) && (f.cb.planesOf (posOf Q)).contains (posOf P)
     | none => false)

/-- A product names a plane whose WLOAD has started and not completed, or a WLOAD the plane of a product that has started and not
completed: one product computes against one load (R310). -/
def State.planeBusy (s : State) (P : TileId) (c : CB) : Bool :=
  ((c.op == 0x31 || c.op == 0x32) && (c.planesOf (posOf P)).any fun p => (s.plane (quadOf P) p).loading) ||
  (c.op == 0x30 && s.planeRead P)

/-- BLOCK of CHSTAT (R202, R310). (DEDUCED, log entry 41: blocks without a code.) -/
def State.blockCode (s : State) (P : TileId) (e : Eng) : Byte :=
  let x := s.engine P e
  if x.queue.isEmpty then 0
  else match x.cur with
    | none => 1
    | some f =>
      if x.block = .parked then 6
      else if x.block = .ring then 4
      else if x.block.awaitsTarget then 1
      else match x.stage with
        | .timed => 2
        | .header => 3
        | .body => if e = .mx ∧ 4 ≤ f.cb.op.toNat ∧ (s.hasLease P = false ∨ s.planeBusy P f.cb = true) then 5 else 0
        | _ => 0

/-! ### The schedule selector (R86, R87) -/

/-- The smallest class from index k on whose SIZEMAX covers the size. -/
def selectFrom (size : Nat) : List Word → Nat → Option Nat
  | [], _ => none
  | m :: r, k => if size ≤ m.toNat then some k else selectFrom size r (k + 1)

/-- Select(s): the class, and OVER when none covers the size (R86). -/
def KernelImage.select (g : KernelImage) (size : Nat) : Nat × Bool :=
  match selectFrom size g.sizemax 0 with
  | some k => (k, false)
  | none => (g.sizemax.length - 1, true)

/-- The record of a phase. -/
def Task.phaseRec (k : Task) (p : BitVec 32) : Option PhaseRec := k.phases.find? fun r => r.phase == p

/-- CHSEL's result word (R88). -/
def chselWord (ph : BitVec 32) (cls : Nat) (ovr : Bool) : Word :=
  ph ++ (0 : BitVec 23) ++ (if ovr then 1#1 else 0#1) ++ BitVec.ofNat 8 cls

/-- How far the tile that lags most is behind phase p. -/
def State.phaseLag (s : State) (k : Task) (p : BitVec 32) : Nat :=
  k.tiles.foldl (fun (m : Nat) (Q : TileId) =>
    let d := p - (s.core Q).phase
    if d.msb then m else max m d.toNat) 0

end Sys2Proof.Machine
end

