-- ==== Sys2Proof/Machine/Chains.lean ====
section
/-! DEFINITION. The chain, lease and selector instructions of the control core (R88, R200 to R205). -/
namespace Sys2Proof.Machine

/-- The queue of an engine takes a chain and its number goes to rd, or the core waits for a place (R200). -/
def issueChain (s : State) (i : Instr) (rd : BitVec 5) (h : Word) (e : Eng) (image : Option (BitVec 1)) : Res :=
  let x := s.engine s.cur e
  if 16 ≤ x.queue.length then waitFor s i .queue
  else
    let c := s.core s.cur
    writeRd (s.modEngine s.cur e fun x => x.enqueue h c.fmode c.pkr image (s.needOf (.core s.cur))) rd (x.issued.zeroExtend 64) 2

/-- CHAIN (R200). -/
def execChain (rd ra : BitVec 5) (e : Eng) (s : State) : Res :=
  let h := s.reg ra
  if tagOf h ≠ 0x00 ∧ tagOf h ≠ 0xF0 then trapTo s .badaddr h
  else if spansZero h = false then trapTo s .badaddr h
  else if h.extractLsb' 0 8 ≠ 0 then trapTo s .align h
  else issueChain s (.chain rd ra e) rd h e none

/-- CHWAIT (R201). -/
def execChwait (rd ra : BitVec 5) (e : Eng) (s : State) : Res :=
  let n := (s.reg ra).extractLsb' 0 32
  let x := s.engine s.cur e
  if before32 n x.issued = false then writeRd s rd 2 2
  else if before32 n x.oldest = false then waitFor s (.chwait rd ra e) .chain
  else if x.killed.contains n then writeRd s rd 1 2
  else writeRd (s.follows (.core s.cur) (agentOf s.cur e)) rd 0 2

/-- CHSTAT (R202). -/
def execChstat (rd : BitVec 5) (e : Eng) (s : State) : Res :=
  let x := s.engine s.cur e
  writeRd s rd (chstatWord x.oldest (s.blockCode s.cur e) x.queue.length) 2

/-- CHKILL (R203). While the body of a killed grid run drains, the core issues nothing further (R352).
(DEDUCED, log entry 46: at once.) -/
def execChkill (rd ra : BitVec 5) (e : Eng) (s : State) : Res :=
  let n0 := (s.reg ra).extractLsb' 0 32
  let x := s.engine s.cur e
  let n := if before32 n0 x.oldest then x.oldest else n0
  if before32 n0 x.issued = false then writeRd s rd 0 4
  else writeRd (s.killFrom s.cur e n) rd (BitVec.ofNat 64 (x.killCount n)) 4

/-- GCFG (R204): a chain of one internal GR.CFG. -/
def execGcfg (rd ra : BitVec 5) (slot : BitVec 1) (s : State) : Res :=
  let h := s.reg ra
  if tagOf h ≠ 0x00 ∧ tagOf h ≠ 0xF0 then trapTo s .badaddr h
  else if h.extractLsb' 0 6 ≠ 0 then trapTo s .align h
  else issueChain s (.gcfg rd ra slot) rd h .gr (some slot)

/-- MXLEASE (R205). -/
def execMxlease (rd ra : BitVec 5) (y q : BitVec 1) (s : State) : Res :=
  let old : Word := (s.core s.cur).leaseq.zeroExtend 64
  let a := s.reg ra
  if q = 0 ∧ ra ≠ 0 then illop s (.mxlease rd ra y q)
  else
    let s := if q = 1 then s.modCore s.cur fun c => { c with leaseq := leaseqOf a } else s
    let s := if y = 1 ∧ s.hasLease s.cur then s.modQuad (quadOf s.cur) fun g => { g with yield := true } else s
    writeRd s rd old 2

/-- CHSEL PROBE (R88). -/
def execChselProbe (rd ra : BitVec 5) (s : State) : Res :=
  let (k, ovr) := match s.taskOf s.cur with
    | some t => t.image.select (s.reg ra).toNat
    | none => (0, false)
  writeRd s rd (chselWord (s.core s.cur).phase k ovr) 4

/-- The class of a tile's current phase (R88). -/
def State.classNow (s : State) (P : TileId) : Nat × Bool :=
  match s.taskOf P with
  | some t => (match t.phaseRec (s.core P).phase with | some r => (r.cls.toNat, r.ovr) | none => (0, false))
  | none => (0, false)

/-- CHSEL CUR (R88). -/
def execChselCur (rd : BitVec 5) (s : State) : Res :=
  let (k, ovr) := s.classNow s.cur
  writeRd s rd (chselWord (s.core s.cur).phase k ovr) 4

/-- The tile takes the record of its next phase, which exists (R88). Records that every tile has left go, and tiles that
wait for a record look again (R87). -/
def State.advance (s : State) (P : TileId) (rd : BitVec 5) : State :=
  let s := s.modCore P fun c => { c with phase := c.phase + 1 }
  let (k, ovr) := s.classNow P
  let s := s.completeAt P rd (chselWord (s.core P).phase k ovr)
  match s.taskOf P with
  | none => s
  | some t =>
    let s := s.modTaskOf P fun x =>
      { x with phases := x.phases.filter fun r => t.tiles.any fun Q => !before32 r.phase (s.core Q).phase }
    s.eachTile t.tiles fun s Q => s.rerun Q .phase

/-- The record of phase p joins the selector. (DEDUCED, log entry 67: when the size is read.) -/
def State.formPhase (s : State) (P : TileId) (p : BitVec 32) (c : Nat × Bool) : State :=
  s.modTaskOf P fun t => { t with phases := t.phases ++ [{ phase := p, cls := BitVec.ofNat 8 c.1, ovr := c.2 }] }

/-- Another tile of the task has asked for the phase after `p` first, and its read of the size is parked or unanswered (R87). -/
def State.phaseAsked (s : State) (P : TileId) (k : Task) (p : BitVec 32) : Bool :=
  k.tiles.any fun Q => Q != P && (s.core Q).phase == p &&
    (match (s.core Q).run with
     | .waiting (.chselAdv _) .parked _ => true
     | .waiting (.chselAdv _) .flight _ => true
     | _ => false)

/-- CHSEL ADV (R87, R88): the first tile that asks for a phase triggers its selection. -/
def execChselAdv (rd : BitVec 5) (s : State) : Res :=
  let P := s.cur
  let p := (s.core P).phase
  let i : Instr := .chselAdv rd
  match s.taskOf P with
  | none => .next ((s.advance P rd).occupy P 4)
  | some t =>
    if (t.phaseRec (p + 1)).isSome then .next ((s.advance P rd).occupy P 4)
    else if 3 ≤ s.phaseLag t p then waitFor s i .phase
    else if t.image.sizeva = 0 then
      .next (((s.formPhase P (p + 1) (s.classNow P)).advance P rd).occupy P 4)
    else
      let va := t.image.sizeva
      if s.phaseAsked P t p then waitFor s i .phase
      else if va.extractLsb' 0 3 ≠ 0 then trapTo s .align va
      else match s.localCheck P va 8 with
        | some c => trapTo s c va
        | none =>
          match s.readVa (s.who P 0 (s.core P).pkr) va 8 .read true false with
          | (s, .bytes l, n) =>
            .next ((((s.acquireVa (.core P) (s.who P 0 (s.core P).pkr) 0x18 va).formPhase P (p + 1) (t.image.select (leNat l))).advance P rd).occupy P (4 + n))
          | (s, .zero, n) =>
            .next ((((s.setResfCore P).formPhase P (p + 1) (t.image.select 0)).advance P rd).occupy P (4 + n))
          | (s, .park _, _) => waitFor (s.parkAt (parkOwner va) (s.who P 0 (s.core P).pkr) va .read) i .parked
          | (s, .trap c, _) => trapTo s c va
          | (s, .poison _, _) => trapTo s .poison (lineVa va)
          | (s, .busy, _) => waitFor s i .flight

end Sys2Proof.Machine
end

