-- ==== Sys2Proof/Machine/Engine.lean ====
section
/-! DEFINITION. The engines: how a control block is fetched and becomes current (R42, R44, R281), how its windows reach memory and
ports (R31, R36, R277, R280, R284 to R287), how it holds ring slots (R35 to R40), and how it ends (R28, R44, R282, R283). -/
namespace Sys2Proof.Machine

/-! ### The work of an engine -/

/-- A current CB with what its accesses carry: its tile and engine, its address, its loop-index tuple, its chain's mode and
PKR. `mute` says that outbound writes have been made by the other tile of a PAIR (R434), `gather` that the iteration reads whole lines,
which it shares with others in flight, `later` that its writes wait for those of others (R279), and `cap` bounds the bytes that one step
takes from a port or sends. -/
structure Job where
  P    : TileId
  e    : Eng
  cb   : CB
  addr : Word
  idx  : List Nat
  mode : Mode
  pkr  : Word
  mute : Bool
  gather : Bool
  later : Bool := false
  cap : Nat := 65536
deriving DecidableEq, Repr

/-- The outcome of a part of an iteration: a value, an engine that is held (parked or with a cause raised), or something
that must be awaited with nothing done but the requests that have gone to peers. -/
inductive Eio (α : Type) where
  | ok (s : State) (a : α)
  | held (s : State)
  | busy (s : State)

/-- The next part after a value. -/
def Eio.then {α β : Type} (r : Eio α) (f : State → α → Eio β) : Eio β :=
  match r with
  | .ok s a => f s a
  | .held s => .held s
  | .busy s => .busy s

/-- A block that the engine itself tries to leave. -/
def Block.retries : Block → Bool
  | .none => true
  | .peer => true
  | .pair => true
  | .patchTarget _ _ => true
  | _ => false

/-- A CB of an rt chain that the Siphon runs (R354). -/
def CB.siphons (c : CB) (e : Eng) : Bool := e == .rt && decide (4 ≤ c.op.toNat)

/-- How far an engine has come, as a trailing engine compares it with its leading one. -/
def State.progress (s : State) (P : TileId) (e : Eng) :
    BitVec 32 × Option (BitVec 32 × Word) × Option Word × Stage × List (BitVec 32) × Option Nat :=
  let x := s.engine P e
  (x.issued, x.queue.head?.map fun c => (c.num, c.next), x.cur.map fun f => f.addr, x.stage, x.idx.toList,
   if e = .gr then (s.tile P).grid.run.map fun r => r.cycle else none)

/-- A trailing engine runs behind its leading one (R85, R434). -/
def State.engBehind (s : State) (P : TileId) (e : Eng) : Bool :=
  if (s.tile P).trailing then
    match s.twinTile P with
    | some L => s.progress P e != s.progress L e || (s.engine L e).block == .pair || (s.engine L e).block == .event ||
      (s.engine L e).block == .dead ||
      s.inCompare L (8 + (engSrc e).toNat)
    | none => true
  else true

/-- The engine has issued a patch write, so that its CB's steps 4 to 6 complete before its tile stops (R286). A CB that the Siphon runs is
abandoned instead (R367). -/
def Engine.finishing (x : Engine) (e : Eng) : Bool :=
  decide (x.stage = .signal) && x.patched && (match x.cur with | some f => !f.cb.siphons e | none => false)

/-- Tile P's task is RUNNING and the tile has not stopped, or its engine e must finish a CB first, and engine e is not held. A task
that is to end stops at the same boundaries (R415). -/
def State.engReady (s : State) (P : TileId) (e : Eng) : Bool :=
  (match s.taskOf P with
   | some k =>
     if (s.tile P).stopped then (decide (k.state = .saving) || k.ending.isSome) && (s.engine P e).finishing e
     else k.ending.isNone && decide (k.state = .running)
   | none => false) &&
  (s.engine P e).block.retries && decide ((s.engine P e).lag ≤ s.tick) && !s.io.lost

/-- Engine e can go on; a trailing one keeps behind its leading one. -/
def State.engGo (s : State) (P : TileId) (e : Eng) : Bool := s.engReady P e && s.engBehind P e

/-- The job of an engine that can go on. -/
def State.job (s : State) (P : TileId) (e : Eng) : Option Job :=
  let x := s.engine P e
  if s.engGo P e then
    match x.cur, x.queue with
    | some f, c :: _ =>
      some { P, e, cb := f.cb, addr := f.addr, idx := x.idx.toList.map BitVec.toNat, mode := Mode.of c.mode, pkr := c.pkr,
             mute := false, gather := false }
    | _, _ => none
  else none

/-- The requester of a job's accesses. -/
def Job.who (j : Job) (s : State) : Who := s.who j.P (engSrc j.e) j.pkr

/-- A job's engine changes. -/
def Job.mod (j : Job) (s : State) (f : Engine → Engine) : State := s.modEngine j.P j.e f

/-- The generator of the chain of a job (R105, R267). -/
def Job.gen (j : Job) (s : State) : Word :=
  match (s.engine j.P j.e).queue with
  | c :: _ => c.gen
  | [] => 0

/-- The chain's generator becomes `g`. -/
def Job.setGen (j : Job) (s : State) (g : Word) : State := j.mod s fun x => x.modHead fun c => { c with gen := g }

/-- Window n has met a non-resident zero-fill page (R28, R98, R235). -/
def Job.flag (j : Job) (s : State) (n : Nat) (nonres : Bool) : State :=
  if nonres then j.mod (s.setResfEng j.P) fun x => { x with resw := x.resw ||| BitVec.ofNat 5 (2 ^ n) } else s

/-! ### Addresses of windows (R277) -/

/-- The strides of a window over an index tuple. -/
def Window.offset (w : Window) (idx : List Nat) : Int :=
  (List.range 6).foldl (fun (t : Int) (l : Nat) => t + w.stride l * (idx.getD l 0 : Nat)) 0

/-- An address with the tag of `base` and a sum over [55:0]. -/
def tagged (base : Word) (sum : Int) : Word := base.extractLsb' 56 8 ++ BitVec.ofInt 56 sum

/-- [o, o + n) lies inside the span of a region. -/
def RegionDesc.holds (d : RegionDesc) (o n : Nat) : Bool :=
  decide (d.base.toNat ≤ o ∧ o + n ≤ d.base.toNat + d.slotb.toNat * d.nslot.toNat)

/-- The region that a window names, in the tile whose memory it addresses (R31). -/
def State.regionAt (s : State) (Q : TileId) (rgn : BitVec 16) : Option Region :=
  if rgn.toNat < 32 then s.region Q (rgn.extractLsb' 0 5) else none

/-- The address of `n` bytes of a ring window in the slot that the CB holds (R36).
(DESIGN CHOICE, log entry 73: an access before the start of its slot.) -/
def Job.ringAddr (j : Job) (s : State) (w : Window) (extra : Int) (n : Nat) : Except Word Word :=
  match (s.engine j.P j.e).ring with
  | none => .error w.base
  | some r =>
    match s.region r.tile r.rid with
    | none => .error w.base
    | some g =>
      let off : Int := (w.base.extractLsb' 0 19).toNat + w.offset j.idx + extra
      let at_ : Int := g.desc.base.toNat + r.slot.toNat * g.desc.slotb.toNat + off
      let a := tagged w.base ((w.base.extractLsb' 19 37).toNat * 2 ^ 19 + at_)
      if off < 0 ∨ (g.desc.slotb.toNat : Int) < off + n then .error a
      else if spansZero a = false then .error a
      else .ok a

/-- The tile of a write to the memory of another tile, if it is one. -/
def Job.remote (j : Job) (s : State) (va : Word) : Option TileId :=
  if tagOf va = 0xF1 then
    match s.mapTile j.P (vtOf va) with
    | some Q => if Q = j.P then none else some Q
    | none => none
  else none

/-- The address of `n` bytes of a window at the job's iteration, `extra` bytes on: or the address with which the iteration
raises BADADDR (R31, R36, R277). A write (`wr`) to another tile meets its region when it arrives there (R31). -/
def Job.winAddr (j : Job) (s : State) (w : Window) (extra : Int) (n : Nat) (wr : Bool := false) : Except Word Word :=
  if w.ring then j.ringAddr s w extra n
  else
    let sum : Int := (w.base.extractLsb' 0 56).toNat + w.offset j.idx + extra
    let a := tagged w.base sum
    if sum < 0 ∨ 2 ^ 56 ≤ sum then .error a
    else if spansZero a = false ∨ tagKnown a = false then .error a
    else if tagOf a ≠ 0x00 ∧ spansZero (a + BitVec.ofNat 64 (n - 1)) = false then .error a
    else if tagOf a = 0xF1 ∧ (s.mapTile j.P (vtOf a)).isNone then .error a
    else if w.rgn = 0xFFFF then .ok a
    else match s.tileAt j.P w.base with
      | none => .error a
      | some Q =>
        if wr && (j.remote s a).isSome then .ok a
        else match s.regionAt Q w.rgn with
        | some g => if g.desc.holds (offOf a) n then .ok a else .error a
        | none => .error a

/-! ### Writes on their way (R31, R198, R287) -/

/-- The lines of a written span take a mark (R440). -/
def State.markSpan (s : State) (g n : Nat) : State :=
  (List.range ((g % 64 + n + 63) / 64)).foldl (fun s i => s.mark (lineOf g + i)) s

/-- Pieces as places and bytes. -/
def plainPieces (l : List Piece) : List (Nat × List Byte) := l.map fun x => (x.off, x.data)

/-- The bytes of a write on its way. -/
def Transit.size (x : Transit) : Nat := segBytes (plainPieces x.pieces)

/-- A piece for another tile falls in the region that its window names, as that is bound at its arrival (R31). -/
def State.pieceBound (s : State) (line : Word) (p : Piece) : Bool :=
  if p.rgn = 0xFFFF then true
  else match s.regionAt p.home p.rgn with
    | some g => g.desc.holds (offOf line + p.off) p.data.length
    | none => false

/-- The first piece of a write on its way that its region does not hold. -/
def State.strayPiece (s : State) (x : Transit) : Option Piece := x.pieces.find? fun p => !s.pieceBound x.line p

/-- The engine goes back to the iteration of a piece, which a fault has stopped, after `done` iterations: they run again and count
once, and draw the same words (R267). -/
def Engine.goBack (x : Engine) (p : Piece) (done : Nat) : Engine :=
  match x.cur with
  | some f =>
    let at_ := flatOf f.cb.bounds (p.idx.toList.map BitVec.toNat)
    { x.modHead (fun c => { c with gen := p.gen }) with
        idx := p.idx, redo := x.redo + done - at_, stage := .body, tail := false, lines := [] }
  | none => x

/-- How many iterations of its current CB an engine has completed. -/
def Engine.doneIters (x : Engine) : Nat :=
  match x.cur with
  | some f => if x.stage = .body then flatOf f.cb.bounds (x.idx.toList.map BitVec.toNat) else f.cb.trips
  | none => 0

/-- Pieces of one line take their place in the memory of tile Q, with a mark where they failed a check on the way (R440), and then count
(R38, R287). -/
def State.landPieces (s : State) (Q : TileId) (line : Word) (l : List Piece) : State :=
  let g := gTile Q.toNat (offOf line)
  if l.isEmpty then s
  else
  let s := s.writePlainSegs g (plainPieces l)
  let s := l.foldl (fun (s : State) p => if p.lost then s.markSpan (g + p.off) p.data.length else s) s
  let s := s.wroteOver (lineOf g)
  (l.foldl (fun (s : State) p => s.byteArrive Q (offOf line + p.off) p.data.length) s).modTile Q fun t => { t with wake := true }

/-- A remote write arrives at its tile (R287): its pieces take their place up to the first one whose region is not bound there any more,
or does not hold it; that one raises BADADDR at its iteration (R31). `done` iterations of its engine have completed. -/
def State.arriveWrite (s : State) (x : Transit) (done : Nat) : State :=
  let tagged (s : State) : State := match x.tag with | some tag => s.enterDone x.tile x.line tag | none => s
  match s.strayPiece x with
  | some p =>
    let s := s.landPieces x.target x.line (x.pieces.takeWhile fun p => s.pieceBound x.line p)
    (s.modEngine x.tile x.eng fun y => y.goBack p done).raiseEng x.tile x.eng .badaddr (x.line + BitVec.ofNat 64 p.off) x.loc
  | none => tagged (s.landPieces x.target x.line x.pieces)

/-- A remote write's visibility is acknowledged: the counts that hold its bytes go down (R198), and the writer learns what the target's
die has (R386). -/
def State.ackWrite (s : State) (x : Transit) : State :=
  let n := BitVec.ofNat 32 x.size
  let s := if dieOf x.target = dieOf x.tile then s else s.learnClock (some x.tile) (dieOf x.target)
  let s := s.modTile x.tile fun t => { t with pending := t.pending - n }
  x.units.foldl (fun (s : State) (u : BarKey) =>
    s.modTask (barTask u) fun k => let b := k.barUnit u; k.setBar u { b with pending := b.pending - n }) s

/-- Every remote write of an engine arrives and is acknowledged, in issue order, up to one that raises BADADDR; the later ones are
dropped then (R285). `done` iterations have completed. -/
def State.flushWrites (s : State) (P : TileId) (e : Eng) (done : Nat) : State :=
  let mine (x : Transit) : Bool := x.tile == P && x.eng == e
  let s' := (s.transit.filter mine).foldl
    (fun (s : State) (x : Transit) =>
      (if x.arrived ∨ (s.engine P e).block = .event then s else s.arriveWrite x done).ackWrite x) s
  { s' with transit := s'.transit.filter fun x => !mine x }

/-- Some remote write of an engine is not acknowledged. -/
def State.unacked (s : State) (P : TileId) (e : Eng) : Bool := s.transit.any fun x => x.tile == P && x.eng == e

/-- The writes of a job's earlier iterations have arrived (R285). -/
def Job.settle (j : Job) (s : State) : State := s.flushWrites j.P j.e (s.engine j.P j.e).doneIters

/-- The engine raises a cause at its CB, once its earlier writes have arrived: a BADADDR that one of them raises comes first (R285). -/
def Job.raise (j : Job) (s : State) (c : Cause) (v : Word) : State :=
  if s.unacked j.P j.e then
    let s := j.settle s
    if (s.engine j.P j.e).block = .event then s else s.raiseEng j.P j.e c v j.addr
  else s.raiseEng j.P j.e c v j.addr

/-- An iteration of the engine raises a cause. -/
def Job.fault {α : Type} (j : Job) (s : State) (c : Cause) (v : Word) : Eio α := .held (j.raise s c v)

/-- The next part with the address of a window that is read, or BADADDR at this iteration. -/
def Job.at {β : Type} (j : Job) (s : State) (w : Window) (extra : Int) (n : Nat) (f : Word → Eio β) : Eio β :=
  match j.winAddr s w extra n with
  | .ok a => f a
  | .error v => j.fault s .badaddr v

/-- The next part with the address of a window that is written, or BADADDR at this iteration. -/
def Job.into {β : Type} (j : Job) (s : State) (w : Window) (extra : Int) (n : Nat) (f : Word → Eio β) : Eio β :=
  match j.winAddr s w extra n true with
  | .ok a => f a
  | .error v => j.fault s .badaddr v

/-! ### The hazard check (R284) -/

/-- An access of the job's CB to [o, o + n) of a tile is a hazard in a bound region: it falls in a slot that another CB holds, or that
none does. (DEDUCED, log entry 48: the second case of R284 lies within the first.) -/
def Region.hazard (g : Region) (j : Job) (o n : Nat) : Bool :=
  (List.range g.desc.nslot.toNat).any fun i =>
    let lo := g.desc.base.toNat + i * g.desc.slotb.toNat
    decide (lo < o + n ∧ o < lo + g.desc.slotb.toNat) &&
    (let held := g.holds.filter fun h => h.slot.toNat == i
     held.isEmpty || held.any fun h => !(h.tile == j.P && h.eng == j.e && h.cb == j.addr))

/-- The access at `a` raises HAZARD. -/
def Job.hazards (j : Job) (s : State) (a : Word) (n : Nat) : Bool :=
  j.cb.hz && (match s.taskOf j.P with | some k => k.debug | none => false) &&
  (match s.tileAt j.P a with
   | some Q => (s.tile Q).regions.toList.any fun r => match r with | some g => g.hazard j (offOf a) n | none => false
   | none => false)

/-! ### Reads -/

/-- The bytes that a window read delivers, each with whether it came from a non-resident zero-fill page, and whether a
mark travels with them (R235, R440). -/
structure Data where
  bytes : List (Byte × Bool)
  lost  : Bool
deriving DecidableEq, Repr

/-- The bytes alone. -/
def Data.raw (d : Data) : List Byte := d.bytes.map fun x => x.1
/-- Some byte came from a non-resident zero-fill page. -/
def Data.nonres (d : Data) : Bool := d.bytes.any fun x => x.2

/-- The bytes of a line whose check failed on the way: nothing is known of them (R440).
(DEDUCED, log entry 10: free bytes of a line that fails its check on the way.) -/
def State.lostBytes (s : State) (n : Nat) : State × List (Byte × Bool) :=
  ({ s with free := s.free + n }, (List.range n).map fun i => (Config.lostByte (s.free + i), false))

/-- An access of the engine parks at the owner of an address: its earlier iterations complete first (R285). A load takes back from its
port what the grid has not reserved (R337). -/
def Job.parkedAt (j : Job) (s : State) (d : Nat) (va : Word) (kind : AccKind) : State :=
  let s := if s.unacked j.P j.e then j.settle s else s
  if (s.engine j.P j.e).block = .event then s
  else
    let s := j.mod (s.parkAt d (j.who s) va kind) fun x => { x with block := .parked }
    if j.e = .ld then s.modTile j.P Tile.giveBack else s

/-- An access of the engine parks at the owner that its address names. -/
def Job.parks {α : Type} (j : Job) (s : State) (va : Word) (kind : AccKind) : Eio α := .held (j.parkedAt s (parkOwner va) va kind)

/-- What a line shared by the iterations of this step has given (R279). -/
def Engine.shared (x : Engine) (line : Word) : Option (List (Byte × Bool) × Bool) :=
  match x.lines.find? fun l => l.line == line with
  | some l => l.got
  | none => none

/-- A shared line of an engine changes; it is new when it is not there. -/
def Engine.modLine (x : Engine) (line : Word) (f : LineBuf → LineBuf) : Engine :=
  if x.lines.any fun l => l.line == line then { x with lines := x.lines.map fun l => if l.line = line then f l else l }
  else { x with lines := x.lines ++ [f { line, got := none, turn := 0, used := false, put := [] }] }

/-- The lines that an engine has read and that iterations still in flight share: 256 iterations may be in flight (R278). `n` is the number
of the present iteration. -/
def Engine.heldLines (x : Engine) (n : Nat) : List LineBuf :=
  (x.lines.filter fun l => l.got.isSome && decide (n < l.turn + 256)).map fun l => { l with used := false, put := [] }

/-- The number of a job's iteration. -/
def Job.turn (j : Job) : Nat := flatOf j.cb.bounds j.idx

/-- `n` bytes read line by line, `fuel` lines at most. A line that an iteration in flight has read is not read again (R279). With
`soft` a mark that the read's own check sets is not consumed (R440). (DESIGN CHOICE, log entry 7: a read sees what memory holds at
its step.) -/
def Job.readLines (j : Job) (soft : Bool) : Nat → State → Word → Nat → Eio Data
  | 0, s, _, _ => .ok s { bytes := [], lost := false }
  | fuel + 1, s, va, n =>
    if n = 0 then .ok s { bytes := [], lost := false }
    else
      let off := va.toNat % 64
      let k := min n (64 - off)
      let rest (s : State) (l : List (Byte × Bool)) (lost : Bool) : Eio Data :=
        (Job.readLines j soft fuel s (va + BitVec.ofNat 64 k) (n - k)).then fun s d =>
          .ok s { bytes := l ++ d.bytes, lost := lost || d.lost }
      let whole := j.gather && !(tagOf va == 0x00 && ownerOf va == 5)
      let (a, m) := if whole then (lineVa va, 64) else (va, k)
      let take (s : State) (l : List (Byte × Bool)) (lost : Bool) : Eio Data :=
        if whole then
          rest (j.mod s fun x => x.modLine a fun b => { b with got := some (l, lost), turn := j.turn, used := true })
            ((l.drop off).take k) lost
        else rest s l lost
      match (s.engine j.P j.e).shared (lineVa va) with
      | some (l, lost) => rest (j.mod s fun x => x.modLine (lineVa va) fun b => { b with used := true }) ((l.drop off).take k) lost
      | none =>
        match s.readVa (j.who s) a m .read true true with
        | (s, .bytes l, _) => take s (l.map fun b => (b, false)) false
        | (s, .zero, _) => take s (List.replicate m (0, true)) false
        | (s, .park _, _) => j.parks s va .read
        | (s, .trap c, _) => j.fault s c (if c = .poison then lineVa va else va)
        | (s, .poison found, _) =>
          if soft && !found then
            let (s, l) := s.lostBytes m
            take s l true
          else j.fault s .poison (lineVa va)
        | (s, .busy, _) => .busy s

/-- The tag check of a consumer's first read of a slot (R39): the cause's value on a mismatch. -/
def Job.tagFault (j : Job) (s : State) (r : RingPos) : Option Word :=
  match s.region r.tile r.rid with
  | none => none
  | some g =>
    let found := g.tags[r.slot.toNat]'r.slot.isLt
    let want := j.cb.genx + ((s.engine j.P j.e).slots - 1).truncate 8
    if found = want then none
    else some ((r.rid.zeroExtend 64) <<< 16 ||| (want.zeroExtend 64) <<< 8 ||| found.zeroExtend 64)

/-- The slot whose tag a read through window `win` has to check: the one that a consumer holds and has not read yet (R39). -/
def Job.unchecked (j : Job) (s : State) (win : Nat) : Option RingPos :=
  match (s.engine j.P j.e).ring with
  | some r => if j.cb.rrole == 1 && j.cb.rwin.toNat == win && !r.checked then some r else none
  | none => none

/-- A window read of `n` bytes at an address. The first one of a slot compares the slot's tag (R39). -/
def Job.read (j : Job) (s : State) (win : Nat) (va : Word) (n : Nat) (soft : Bool) : Eio Data :=
  let go (s : State) : Eio Data :=
    if j.hazards s va n then j.fault s .hazard va
    else (j.readLines soft (n / 64 + 2) s va n).then fun s d => .ok (j.flag s win d.nonres) d
  match j.unchecked s win with
  | none => go s
  | some r =>
    match j.tagFault s r with
    | some v => j.fault s .semgen v
    | none => go (j.mod s fun x => { x with ring := some { r with checked := true } })

/-! ### Writes -/

/-- The bytes of remote writes of tile P that are not acknowledged (R198): those of its engines, and a store of its core that is on its
way to another tile or another die. -/
def State.pendingOf (s : State) (P : TileId) : Nat :=
  (s.tile P).pending.toNat +
  (match (s.core P).flight with
   | some f => if f.reply.isNone && f.req.op.writes && s.remoteTo P f.req.ea then f.req.op.size else 0
   | none => 0)

/-- Tile P does not issue a remote write of `n` bytes to an address yet: its unacknowledged bytes would exceed 1 MiB (R198). -/
def State.limited (s : State) (P : TileId) (va : Word) (n : Nat) : Bool :=
  s.remoteTo P va && decide (2 ^ 20 < s.pendingOf P + n)

/-- Pieces of one line are written in one access, and bytes that reach a tile's memory are counted there once they are visible
(R38, R279, R287). A fault or a park is that of the first of them. The value says that a zero-fill page discarded them (R235). -/
def Job.putSegs (j : Job) (s : State) (line : Word) (segs : List Piece) : Eio Bool :=
  let plain := plainPieces segs
  let first := line + BitVec.ofNat 64 ((segs.map Piece.off).headD 0)
  if s.limited j.P line (segBytes plain) then .busy s
  else match s.writeTagged j.P line fun s => s.writeSegs (j.who s) line plain true with
    | (s, .done, _) =>
      let mark (s : State) : State :=
        match s.globalOf (j.who s) line .write with
        | some g => segs.foldl (fun (s : State) x => if x.lost then s.markSpan (g + x.off) x.data.length else s) s
        | none => s
      let s := if segs.any Piece.lost then mark s else s
      let count (s : State) (x : Piece) : State := s.byteArrive j.P (offOf line + x.off) x.data.length
      .ok (if tagOf line = 0xF0 ∨ tagOf line = 0xF1 then segs.foldl count s else s) false
    | (s, .zero, _) => .ok s true
    | (s, .park _, _) => j.parks s first .write
    | (s, .trap c, _) => j.fault s c (if c = .poison then line else first)
    | (s, .busy, _) => .busy s

/-- The piece that an iteration of a job writes through window `win`. -/
def Job.piece (j : Job) (s : State) (win off : Nat) (data : List Byte) (lost : Bool) : Piece :=
  let w := j.cb.win win
  { off, data, lost, idx := idxVec j.idx, gen := j.gen s, rgn := w.rgn, home := (s.tileAt j.P w.base).getD j.P }

/-- Bytes written line by line: whether a zero-fill page discarded some (R235).
(DEDUCED, log entry 69: the lines before a fault stay written.) -/
def Job.writeLines (j : Job) (win : Nat) (lost : Bool) : Nat → State → Word → List Byte → Eio Bool
  | 0, s, _, _ => .ok s false
  | fuel + 1, s, va, bs =>
    if bs.length = 0 then .ok s false
    else
      let k := min bs.length (64 - va.toNat % 64)
      let rest (s : State) (z : Bool) : Eio Bool :=
        (Job.writeLines j win lost fuel s (va + BitVec.ofNat 64 k) (bs.drop k)).then fun s r => .ok s (z || r)
      match j.putSegs s (lineVa va) [j.piece s win (va.toNat % 64) (bs.take k) lost] with
      | .ok s z => rest s z
      | r => r

/-- Bytes that wait, line by line, for the write that the iterations of this step share (R279). Every line is looked at now, so that its
fault or park is this iteration's. An iteration that writes a byte again, or writes to a peer, is not shared. -/
def Job.gatherLines (j : Job) (win : Nat) (lost : Bool) : Nat → State → Word → List Byte → Eio Bool
  | 0, s, _, _ => .ok s false
  | fuel + 1, s, va, bs =>
    if bs.length = 0 then .ok s false
    else
      let off := va.toNat % 64
      let k := min bs.length (64 - off)
      let rest (s : State) (z : Bool) : Eio Bool :=
        (Job.gatherLines j win lost fuel s (va + BitVec.ofNat 64 k) (bs.drop k)).then fun s r => .ok s (z || r)
      let join (s : State) : Eio Bool :=
        let again := (s.engine j.P j.e).lines.any fun l =>
          l.line == lineVa va && l.put.any fun p => decide (off < p.off + p.data.length ∧ p.off < off + k)
        if again then .busy s
        else rest (j.mod s fun x => x.modLine (lineVa va) fun b => { b with put := b.put ++ [j.piece s win off (bs.take k) lost] }) false
      if (j.remote s va).isSome || (j.mute && s.outbound j.P va) then join s
      else match s.locate (j.who s) va .write true with
        | (s, .plain _, _) => join s
        | (s, .die _ _ _, _) => join s
        | (s, .zero, _) => rest s true
        | (s, .park _, _) => j.parks s va .write
        | (s, .trap c, _) => j.fault s c (if c = .poison then lineVa va else va)
        | (s, .peer _, _) => .busy s

/-- Pieces of a line of the memory of tile Q are on their way until they arrive (R287), as one write (R279). One that crosses a link
carries a tag (R394, R395), and a tile keeps at most 1 MiB unacknowledged (R198). -/
def Job.send (j : Job) (s : State) (Q : TileId) (line : Word) (pieces : List Piece) : Eio Unit :=
  let n := segBytes (plainPieces pieces)
  if s.limited j.P line n || (s.crosses j.P line && s.engTagsFull j.P (s.ownerIx j.P line)) then .busy s
  else
    let (s, tag) := if s.crosses j.P line then ((s.takeTag j.P).1, some (s.takeTag j.P).2) else (s, none)
    let s := s.modTile j.P fun t => { t with pending := t.pending + BitVec.ofNat 32 n }
    let x : Transit := { tile := j.P, eng := j.e, loc := j.addr, line, target := Q, pieces, tag, arrived := false, units := [] }
    .ok { s with transit := s.transit ++ [x] } ()

/-- Bytes for the memory of tile Q are sent line by line. -/
def Job.sendLines (j : Job) (win : Nat) (Q : TileId) (lost : Bool) : Nat → State → Word → List Byte → Eio Unit
  | 0, s, _, _ => .ok s ()
  | fuel + 1, s, va, bs =>
    if bs.length = 0 then .ok s ()
    else
      let k := min bs.length (64 - va.toNat % 64)
      (j.send s Q (lineVa va) [j.piece s win (va.toNat % 64) (bs.take k) lost]).then fun s _ =>
      Job.sendLines j win Q lost fuel s (va + BitVec.ofNat 64 k) (bs.drop k)

/-- Some of `n` bytes at an address lie in a byte-mode region of the tile it names. -/
def State.byteModeAt (s : State) (P : TileId) (a : Word) (n : Nat) : Bool :=
  match s.tileAt P a with
  | some Q => (s.tile Q).regions.toList.any fun r =>
      match r with
      | some g =>
        g.desc.byteMode && decide (g.desc.base.toNat < offOf a + n ∧ offOf a < g.desc.base.toNat + g.desc.slotb.toNat * g.desc.nslot.toNat)
      | none => false
  | none => false

/-- The phase of a ring CB has written into a byte-mode region, so that no rollback can cancel it (R441). -/
def Job.noteWrite (j : Job) (s : State) (va : Word) (n : Nat) : State :=
  if j.cb.rwin != 0xFF && s.byteModeAt j.P va n then j.mod s fun x => { x with byteWrites := true } else s

/-- A window write at an address: to another tile it is on its way until it arrives. -/
def Job.write (j : Job) (s : State) (win : Nat) (va : Word) (d : Data) : Eio Unit :=
  let bs := d.raw
  let s := j.noteWrite s va bs.length
  if j.hazards s va bs.length then j.fault s .hazard va
  else if j.later then
    (j.gatherLines win d.lost (bs.length / 64 + 2) s va bs).then fun s z => .ok (j.flag s win z) ()
  else if j.mute && s.outbound j.P va then .ok s ()
  else match j.remote s va with
    | some Q => j.sendLines win Q d.lost (bs.length / 64 + 2) s va bs
    | none => (j.writeLines win d.lost (bs.length / 64 + 2) s va bs).then fun s z => .ok (j.flag s win z) ()

/-- The writes that the iterations of this step share are made, line by line (R279); the outbound ones of a trailing tile are its leading
tile's. -/
def Job.flushLines (j : Job) : List LineBuf → State → Eio Unit
  | [], s => .ok s ()
  | l :: r, s =>
    if l.put.isEmpty || (j.mute && s.outbound j.P l.line) then Job.flushLines j r s
    else match j.remote s l.line with
      | some Q => (j.send s Q l.line l.put).then fun s _ => Job.flushLines j r s
      | none => (j.putSegs s l.line l.put).then fun s _ => Job.flushLines j r s

/-- Plain bytes as data. -/
def Data.of (l : List Byte) : Data := { bytes := l.map fun b => (b, false), lost := false }

/-! ### Ports (R280) -/

/-- A 32-byte entry from bytes and their residency. -/
def entryOf (l : List (Byte × Bool)) : PortEntry :=
  { data := BitVec.ofNat 256 (leNat (l.map fun x => x.1)),
    mask := (List.range 8).foldl (fun (m : Byte) (k : Nat) =>
      if ((l.drop (4 * k)).take 4).any fun x => x.2 then m ||| BitVec.ofNat 8 (2 ^ k) else m) 0 }

/-- Whole entries of the load engine enter its port while a run takes data and the port has room, `n` at most: the grid's accesses
follow those of the load (R387). -/
def Job.pushPort (j : Job) : Nat → State → State
  | 0, s => s
  | n + 1, s =>
    match (s.tile j.P).grid.run with
    | none => s
    | some r =>
      let x := s.engine j.P j.e
      let p := j.cb.inPort
      if r.drain = false ∧ 32 ≤ x.partIn.length ∧ (r.inp[p]).length < 16 then
        let s := (j.mod s fun x => { x with partIn := x.partIn.drop 32, pushed := x.pushed + 1 }).follows
          (agentOf j.P .gr) (agentOf j.P j.e)
        Job.pushPort j n (s.modTile j.P fun t =>
          { t with grid := { t.grid with run := some { r with inp := r.inp.set p (r.inp[p] ++ [entryOf (x.partIn.take 32)]) } } })
      else s

/-- Bytes go to the load engine's port; those that a resumed load delivered before are dropped (R337). -/
def Job.toPort (j : Job) (s : State) (d : Data) : State :=
  let drop := min (s.engine j.P j.e).skip.toNat d.bytes.length
  let s := j.mod s fun x =>
    { x with skip := x.skip - BitVec.ofNat 32 drop, partIn := x.partIn ++ d.bytes.drop drop }
  j.pushPort 16 s

/-- A destination of a load: memory at an address, or its port. -/
def Job.deliver (j : Job) (s : State) (win : Nat) (dst : Option Word) (d : Data) : Eio Unit :=
  match dst with
  | some a => j.write s win a d
  | none => .ok (j.toPort s d) ()

/-- The entries in an output port of the run in progress. -/
def Grid.outPort (g : Grid) (p : Fin 2) : List PortEntry :=
  match g.run with
  | some r => r.outp[p]
  | none => []

/-- The entries that the store engine can take: its hold buffer, then its port. -/
def Job.outEntries (j : Job) (s : State) : List PortEntry :=
  (s.engine j.P j.e).hold[j.cb.outPort] ++ (s.tile j.P).grid.outPort j.cb.outPort

/-- The bytes that are ready for the store engine, those of a partly used entry first. -/
def Job.outBytes (j : Job) (s : State) : List (Byte × Bool) :=
  (s.engine j.P j.e).partIn ++
    (j.outEntries s).flatMap fun p => (leBytes 32 p.data.toNat).map fun b => (b, false)

/-- The store engine takes `n` bytes from its port: its accesses follow those of the grid (R387). -/
def Job.takePort (j : Job) (s : State) (n : Nat) : State :=
  let s := s.follows (agentOf j.P j.e) (agentOf j.P .gr)
  let part := (s.engine j.P j.e).partIn
  let all := j.outBytes s
  let used := (n - part.length + 31) / 32
  let left := if n ≤ part.length then part.drop n else (all.drop n).take ((32 - (n - part.length) % 32) % 32)
  let h := ((s.engine j.P j.e).hold[j.cb.outPort]).length
  let s := j.mod s fun x => { x with partIn := left, hold := x.hold.set j.cb.outPort (x.hold[j.cb.outPort].drop used) }
  s.modTile j.P fun t =>
    { t with grid := { t.grid with run := t.grid.run.map fun r =>
        { r with outp := r.outp.set j.cb.outPort ((r.outp[j.cb.outPort]).drop (used - h)) } } }

/-- The source of a store: memory at an address, or its port. The bytes of a port are only looked at. -/
def Job.source (j : Job) (s : State) (win : Nat) (src : Option Word) (n : Nat) (soft : Bool) : Eio Data :=
  match src with
  | some a => j.read s win a n soft
  | none =>
    let l := j.outBytes s
    if l.length < n then .busy s else .ok s { bytes := l.take n, lost := false }

/-- The address of the source window of a store, or none for a port. -/
def Job.atOrPort {β : Type} (j : Job) (s : State) (w : Window) (n : Nat) (f : Option Word → Eio β) : Eio β :=
  if j.cb.port = 0 then j.at s w 0 n fun a => f (some a) else f none

/-- The address of the destination window of a load, or none for a port. -/
def Job.intoOrPort {β : Type} (j : Job) (s : State) (w : Window) (n : Nat) (f : Option Word → Eio β) : Eio β :=
  if j.cb.port = 0 then j.into s w 0 n fun a => f (some a) else f none

/-! ### Ring slots (R35 to R39) -/

/-- The CB's ring window. -/
def CB.ringWin (c : CB) : Window := c.win c.rwin.toNat
/-- The CB consumes its ring. -/
def CB.consumes (c : CB) : Bool := c.rrole == 1

/-- No window that a producer reads is a ring window or a port, so its slots can be refetched (R442). -/
def CB.refetches (c : CB) : Bool :=
  match c.op.toNat with
  | 0x13 => c.rwin == 1
  | 0x20 => c.port == 0 && c.rwin == 1
  | 0x21 => c.port == 0 && c.rwin == 1
  | 0x22 => c.port == 0 && c.rwin == 2
  | 0x23 => c.port == 0 && c.rwin == 1
  | 0x12 => c.rwin != 0
  | n => decide (0x10 ≤ n ∧ n ≤ 0x15) && c.rwin == 1

/-- The tile and region of the CB's ring window. -/
def Job.ringPlace (j : Job) (s : State) : Option (TileId × BitVec 5 × Region) :=
  match s.tileAt j.P j.cb.ringWin.base with
  | some Q =>
    let id := j.cb.ringWin.rgn.extractLsb' 0 5
    (match s.region Q id with
     | some g => some (Q, id, g)
     | none => none)
  | none => none

/-- The engine waits for the next slot of its ring (R37). -/
def Job.askSlot (j : Job) (s : State) : State :=
  match j.ringPlace s with
  | none => j.raise s .badaddr j.cb.ringWin.base
  | some (Q, _, g) =>
    let (sem, n) : BitVec 6 × BitVec 32 :=
      if j.cb.consumes then (g.desc.full, if g.desc.byteMode then g.desc.slotb.zeroExtend 32 else 1) else (g.desc.free, 1)
    ((j.mod s fun x => { x with block := .ring }).tagCross j.P (dieOf Q) (some (s.tile Q).vt)).semJoin Q { sem, who := .ring j.P j.e, count := n }

/-- The number of the slot at a fill or consume count. -/
def RegionDesc.slotOf (d : RegionDesc) (n : BitVec 32) : BitVec 4 := BitVec.ofNat 4 (n.toNat % d.nslot.toNat)

/-- The engine's acquisition takes the next slot of its region (R35). A producer keeps what a refetch of the slot needs
(R442), and both keep the generator at the slot's start (R443). -/
def Job.takeSlot (j : Job) (s : State) : State :=
  match j.ringPlace s with
  | none => j.raise s .badaddr j.cb.ringWin.base
  | some (Q, id, g) =>
    let n := if j.cb.consumes then g.c else g.f
    let slot := g.desc.slotOf n
    let hold : SlotHold := { slot, tile := j.P, eng := j.e, cb := j.addr, fill := n, producer := !j.cb.consumes }
    let g' : Region := { g with holds := hold :: g.holds.filter fun h => !(h.slot == slot && h.tile == j.P && h.eng == j.e) }
    let s := s.setRegion Q id (if j.cb.consumes then { g' with c := g.c + 1 } else { g' with f := g.f + 1 })
    let gen := j.gen s
    let x := s.engine j.P j.e
    let rec_ : Refetch :=
      { chain := (match x.queue with | c :: _ => c.num | [] => 0), cbaddr := j.addr, rtile := (s.tile Q).vt, rid := id, slot, fill := n, idx := x.idx, gen, pkr := j.pkr,
        mode := (match x.queue with | c :: _ => c.mode | [] => 0) }
    j.mod s fun x =>
      { x with block := .none, ring := some { tile := Q, rid := id, slot, fill := n, checked := false },
               slotGen := gen, slots := x.slots + 1, poisoned := false, byteWrites := false, carry := x.partIn, slotOver := false,
               refetch := if !j.cb.consumes ∧ j.cb.refetches ∧ (j.e = .ld ∨ j.e = .st) then (rec_ :: x.refetch).take 32 else x.refetch }

/-- Every refetch record for a slot's fill goes, of the producers in the consumer's own copy or cluster of a pair (R442). -/
def State.dropRecords (s : State) (P : TileId) (Q : TileId) (id : BitVec 5) (fill : BitVec 32) : State :=
  let vt := (s.tile Q).vt
  let one (s : State) (T : TileId) : State :=
    let clean (s : State) (e : Eng) : State :=
      if (s.engine T e).refetch.any fun r => r.rtile == vt && r.rid == id && r.fill == fill then
        s.modEngine T e fun x => { x with refetch := x.refetch.filter fun r => !(r.rtile == vt && r.rid == id && r.fill == fill) }
      else s
    if (s.tile T).copy = (s.tile P).copy ∧ (s.tile T).trailing = (s.tile P).trailing then clean (clean s .ld) .st else s
  match s.taskOf P with
  | some k => s.eachTile k.tiles one
  | none => s

/-- A slot of a ring on another die is asked for or given back only while its die can take a request of the source (R395). -/
def Job.ringFull (j : Job) (s : State) : Bool :=
  match (s.engine j.P j.e).ring, s.tileAt j.P j.cb.ringWin.base with
  | some r, _ => s.crossFull j.P (dieOf r.tile)
  | none, some Q => s.crossFull j.P (dieOf Q)
  | none, none => false

/-- The release of the slot after the last inner iteration (R35, R37). A producer's writes have arrived. -/
def Job.freeSlot (j : Job) (s : State) : State :=
  match (s.engine j.P j.e).ring with
  | none => s
  | some r =>
    let s := match s.region r.tile r.rid with
      | none => s
      | some g =>
        let g' : Region := { g with holds := g.holds.filter fun h => !(h.slot == r.slot && h.tile == j.P && h.eng == j.e) }
        if j.cb.consumes then
          (((s.setRegion r.tile r.rid g').dropRecords j.P r.tile r.rid r.fill).tagCross j.P (dieOf r.tile) (some (s.tile r.tile).vt)).signal (agentOf j.P j.e) g.desc.obs r.tile g.desc.free 1
        else
          let s := s.setRegion r.tile r.rid
            { g' with tags := g.tags.set r.slot.toNat (r.fill.truncate 8) r.slot.isLt }
          if g.desc.byteMode then s else (s.tagCross j.P (dieOf r.tile) (some (s.tile r.tile).vt)).signal (agentOf j.P j.e) g.desc.obs r.tile g.desc.full 1
    j.mod s fun x => { x with ring := none, slotOver := false }

/-! ### Result word and end of the loop nest (R282, R283, R320, R329) -/

/-- The hash of no bytes (R283). -/
def fnvBasis : Word := 0xCBF29CE484222325
/-- The hash with one byte more (R283). -/
def fnvByte (h : Word) (b : Byte) : Word := (h ^^^ b.zeroExtend 64) * 0x100000001B3
/-- The hash with bytes more. -/
def fnv (h : Word) (l : List Byte) : Word := l.foldl fnvByte h

/-- The result word of a CB whose loop nest has ended. -/
def State.resultWord (s : State) (P : TileId) (e : Eng) (c : CB) : Word :=
  let x := s.engine P e
  let sat : Word := if (s.tile P).sat then 0x8000000000000000 else 0
  match c.op.toNat with
  | 0x01 => c.opc.zeroExtend 64
  | 0x02 => 0
  | 0x03 => 0
  | 0x04 => x.hash
  | 0x31 => sat ||| BitVec.ofNat 64 (x.count % 2 ^ 32)
  | 0x32 => sat ||| BitVec.ofNat 64 (x.count % 2 ^ 32)
  | 0x35 => sat ||| BitVec.ofNat 64 (x.count % 2 ^ 32)
  | 0x24 => x.result
  | 0x40 => x.result
  | 0x41 => x.result
  | 0x42 => (s.tile P).grid.active.zeroExtend 64
  | 0x50 => x.result
  | 0x51 => x.result
  | 0x52 => x.result
  | _ => BitVec.ofNat 64 x.count

/-- What step 3 of a matrix CB does besides its result word: MX.ADRN's SATCLR acts (R318), and the plane of an MX.WLOAD has its record, and
no rebuild-failure mark (R92, R309). -/
def State.endMatrix (s : State) (P : TileId) (f : Fetched) : State :=
  if f.cb.op = 0x35 ∧ f.cb.opa.getLsbD 1 then s.modTile P fun t => { t with sat := false }
  else if f.cb.op = 0x30 then
    s.modPlane (quadOf P) (posOf P) fun x =>
      { x with record := some (f.addr, f.cb.w0.fmt, BitVec.ofNat 9 f.cb.krows), mark := none }
  else s

/-- Step 3 (R44): the result word, and the crystal compare. -/
def State.endBody (s : State) (P : TileId) (e : Eng) : State :=
  match (s.engine P e).cur with
  | none => s
  | some f =>
    let s := s.endMatrix P f
    let s := s.modEngine P e fun x =>
      { x with result := s.resultWord P e f.cb, stage := if f.cb.pt then .patch else .signal, tail := false }
    if f.cb.kat ∧ (s.engine P e).hash ≠ f.cb.plist then
      let s := if s.unacked P e then s.flushWrites P e f.cb.trips else s
      if (s.engine P e).block = .event then s else s.raiseEng P e .crystal f.addr f.addr
    else s

/-! ### Starting (R281) -/

/-- A timed CB of the tile's task starts by its clock; under replay, TIME is not looked at (R465). -/
def State.timedCb (s : State) (P : TileId) (c : CB) : Bool := c.tm && (c.tb || s.recMode P != 2)

/-- The base of a CB as it read one tick ago. -/
def State.samplePrev (s : State) (P : TileId) (rccBase : Bool) : Nat :=
  if rccBase then
    (match s.taskOf P with
     | some k => if k.static then s.rccBefore k else 0
     | none => 0)
  else s.timePrev.toNat

/-- A saturating sum of `w` bits. -/
def satAdd (w : Nat) (a : BitVec w) (n : Nat) : BitVec w := BitVec.ofNat w (min (a.toNat + n) (2 ^ w - 1))

/-- The CB leaves its task's slip hold; the counter goes on when nobody is left in it (R420). -/
def State.leaveHold (s : State) (P : TileId) (e : Eng) : State :=
  match s.taskOf P with
  | some k =>
    if k.slipHold.contains (P, e) then
      s.settleRcc.modTaskOf P fun k => { k with slipHold := k.slipHold.filter fun x => x != (P, e), slipSince := none }
    else s
  | none => s

/-- The CB has acquired its header wait (step 1 of R44): its lateness is counted, unless it has raised SLIP (R461), and its loop nest starts, or ends at once
for a zero-trip CB. `late` is the base at the acquisition less TSTART. -/
def State.startBody (s : State) (P : TileId) (e : Eng) (late : Nat) : State :=
  match (s.engine P e).cur with
  | none => s
  | some f =>
    let s := if f.cb.wsem = 0xFF then s else s.acquireSem (agentOf P e) P (f.cb.wsem.truncate 6)
    let s := if s.timedCb P f.cb ∧ late ≠ 0 ∧ (s.engine P e).slipped = false then
        s.modEngine P e fun x => { x with lateCount := satAdd 32 x.lateCount 1, lateSum := satAdd 64 x.lateSum late }
      else s
    let s := (s.leaveHold P e).modEngine P e fun x =>
      { x with stage := .body, acquired := true, since := s.tick,
               bodyGen := (match x.queue with | c :: _ => c.gen | [] => 0) }
    if f.cb.zeroTrip then s.endBody P e else s

/-- How late the base is now for the current CB. (DEDUCED, log entry 52: lateness across several ticks.) -/
def State.lateness (s : State) (P : TileId) (c : CB) : Nat := s.sample P c.tb - c.tstart.toNat

/-- The CB's header wait joins its semaphore's queue; a CB without one starts. -/
def State.askHeader (s : State) (P : TileId) (e : Eng) : State :=
  match (s.engine P e).cur with
  | none => s
  | some f =>
    if f.cb.wsem = 0xFF then s.startBody P e (s.lateness P f.cb)
    else
      (s.modEngine P e fun x => { x with stage := .header, since := s.tick }).semJoin P
        { sem := f.cb.wsem.truncate 6, who := .header e, count := f.cb.wcnt.zeroExtend 32 }

/-- A stopped CB resumes at step 3: its loop nest has ended, and no patch write has been issued (R286). One whose cause is with the
supervisor waits for its action. -/
def Engine.atStep3 (x : Engine) : Bool :=
  decide (x.block ≠ .event) && (decide (x.stage = .patch) || decide (x.stage = .signal)) && !x.patched

/-- A fetched CB becomes current (R281). After a pre-emption, a CB that had acquired its header wait goes on where it stopped, or at step 3
(R286), and a slipped CB that is to run elastically does so (R46, R409, R420). Its accesses follow those of the core before the CHAIN
(R387). -/
def State.makeCurrent (s : State) (P : TileId) (e : Eng) (f : Fetched) : State :=
  let old := s.engine P e
  let s := match old.queue with
    | c :: _ => s.mustSee (agentOf P e) c.need
    | [] => s
  let s := s.modEngine P e fun x =>
    if old.acquired then { x with cur := some f, since := s.tick }
    else { x.clearCb with ahead := x.ahead, cur := some f, stage := .header, hash := fnvBasis, since := s.tick,
                          elastic := old.elastic, slipped := old.slipped }
  match f.fault with
  | some (c, v) => s.raiseEng P e c v f.addr
  | none =>
    if old.acquired then (if old.atStep3 then s.endBody P e else s)
    else if old.elastic then s.askHeader P e
    else if s.timedCb P f.cb then
      s.modEngine P e fun x => { x with stage := .timed, onTime := decide (s.samplePrev P f.cb.tb < f.cb.tstart.toNat) }
    else s.askHeader P e

/-! ### Completion (step 6 of R44) -/

/-- The count of completed CBs of an engine goes up (R460); of a PAIR or TWIN task one copy counts. -/
def State.countCb (s : State) (P : TileId) (e : Eng) : State :=
  if (s.tile P).copy || (s.tile P).trailing then s
  else s.modTaskOf P fun k =>
    { k with ctr := { k.ctr with cbdone := k.ctr.cbdone.set (engIx e) (k.ctr.cbdone[engIx e] + 1) } }

/-- A matrix CB counts against its lease (R90, R319). -/
def State.countLease (s : State) (P : TileId) (e : Eng) (c : CB) : State :=
  if e = .mx ∧ c.zeroTrip = false ∧ (c.op.toNat = 4 ∨ 0x30 ≤ c.op.toNat) then
    s.modQuad (quadOf P) fun q =>
      match q.lease with
      | .held t since n => if t = posOf P then { q with lease := .held t since (n + 1) } else q
      | _ => q
  else s

/-- The current CB has released its signal: the next CB of its chain becomes current, or the chain has drained (R44, R47). -/
def State.completeCb (s : State) (P : TileId) (e : Eng) : State :=
  match (s.engine P e).cur with
  | none => s
  | some f =>
    let s := (s.countCb P e).countLease P e f.cb
    let s := if f.cb.op = 0x30 then s.modPlane (quadOf P) (posOf P) fun x => { x with loading := false } else s
    if f.cb.last then
      (s.modEngine P e fun x => { x.clearCb with queue := x.queue.drop 1 }).chainEnded P
    else if (s.tile P).stopped then
      s.modEngine P e fun x =>
        let at_ := match x.ahead with | g :: _ => some g.addr | [] => none
        x.clearCb.modHead fun c => { c with next := at_.getD c.next, last := false }
    else match (s.engine P e).ahead with
      | g :: r => ((s.modEngine P e fun x => { x.clearCb with ahead := x.ahead }).modEngine P e fun x => { x with ahead := r }).makeCurrent P e g
      | [] => s.modEngine P e fun x => x.clearCb

end Sys2Proof.Machine
end

