-- ==== Sys2Proof/Machine/Iterate.lean ====
section
/-! DEFINITION. How an engine runs its loop nest, one iteration after another (R44, R276, R285), under PAIR together with the other
tile (R434), and the conversions and draws of a chain (R259 to R267). -/
namespace Sys2Proof.Machine

/-! ### Loop indices (R276) -/

/-- The next index tuple in flattened order, or none after the last. -/
def nextTuple : List Nat → List Nat → Option (List Nat)
  | b :: bs, i :: is => if i + 1 < b then some ((i + 1) :: is) else (nextTuple bs is).map fun r => 0 :: r
  | _, _ => none

/-- Every index below a level is the last of its bound (R276). -/
def lastBelow (bounds idx : List Nat) (n : Nat) : Bool :=
  (List.range n).all fun k => idx.getD k 0 + 1 == bounds.getD k 0

/-! ### One iteration -/

/-- What an iteration wrote, what it adds to the count of the result word (R282, R283), and for a step of several iterations the lines
that they shared (R279) and how many they were, the bytes that it took from a source that moves in parts, and the combine requests that it sent (R302). `more` says that a part of the iteration's row
is still to come. -/
structure Done where
  out    : List Byte
  count  : Nat
  lines  : List LineBuf := []
  served : Nat := 1
  took   : Nat := 0
  sent   : List Staged := []
  more   : Bool := false
deriving DecidableEq, Repr

/-- An iteration has completed: hash, counts, the slot's release at its last inner iteration, and the next tuple or the end
of the loop nest (R37, R276, R460). An iteration that is delivered again counts once (R337). A load into a port ends, and gives its
slot back, once the grid has its bytes. CRYS writes nothing (R295). (DEDUCED, log entry 59: SBYTES counts what a port takes.) -/
def Job.advance (j : Job) (s : State) (d : Done) : State :=
  let again := decide (0 < (s.engine j.P j.e).redo)
  let s := j.mod s fun x =>
    if again then { x with block := .none, started := true, redo := if d.more then x.redo else x.redo - 1 }
    else { x with block := .none, started := true, count := x.count + d.count,
                  hash := if j.cb.kat then fnv x.hash d.out else x.hash }
  let s := if again = false ∧ (j.e = .ld ∨ j.e = .st) ∧ j.cb.op ≠ 0x04 ∧ !((s.tile j.P).copy || (s.tile j.P).trailing) then
      s.modTaskOf j.P fun k => { k with ctr := { k.ctr with sbytes := k.ctr.sbytes + BitVec.ofNat 64 d.out.length } }
    else s
  let ends := !d.more && j.cb.rwin != 0xFF && lastBelow j.cb.bounds j.idx j.cb.rlvl.toNat
  let s := if ends then s.flushWrites j.P j.e (flatOf j.cb.bounds j.idx + 1) else s
  if d.more ∨ (s.engine j.P j.e).block = .event then s
  else
    let s := if ends then j.mod s fun x => { x with lines := [] } else s
    let s := if ends = false then s
      else if j.cb.loadsPort then j.mod s fun x => { x with slotOver := true }
      else j.freeSlot s
    match nextTuple j.cb.bounds j.idx with
    | some i => j.mod s fun x => { x with idx := idxVec i }
    | none =>
      if j.cb.loadsPort then j.mod s fun x => { x with tail := true }
      else (j.mod s fun x => { x with partIn := [] }).endBody j.P j.e

/-- The lines that iterations have shared are gone: an iteration that is abandoned starts again from its reads (R285). -/
def Job.unshare (j : Job) (s : State) : State :=
  if (s.engine j.P j.e).lines.isEmpty then s else j.mod s fun x => { x with lines := [] }

/-- The lines that iterations in flight share go on into the next step, their writes made (R278, R279). -/
def Job.keepLines (j : Job) (s : State) : State :=
  if (s.engine j.P j.e).lines.isEmpty then s else j.mod s fun x => { x with lines := x.heldLines j.turn }

/-- What a trailing engine of a PAIR has read when it starts a step: its own lines, and the outbound ones of its leading engine (R434). -/
def Job.startLines (j : Job) (s : State) (lead : Option Done) : List LineBuf :=
  let own := (s.engine j.P j.e).heldLines j.turn
  match lead with
  | none => own
  | some d =>
    let theirs := (d.lines.filter fun l => s.outbound j.P l.line).map fun l => { l with used := false, put := [] }
    (own.filter fun l => !s.outbound j.P l.line) ++ theirs

/-- One iteration of tile P's engine. `lead` is what the leading tile of a PAIR has done, and `gather` says that its reads are of whole
lines, which it shares with iterations in flight (R279). -/
def State.iterate (s : State) (P : TileId) (e : Eng) (lead : Option Done) (gather : Bool) (iter : State → Job → Eio Done) : Eio Done :=
  match s.job P e with
  | none => .busy s
  | some j =>
    let j := { j with mute := lead.isSome, gather, cap := match lead with | some d => d.took | none => 65536 }
    match iter (j.mod s fun x => { x with block := .none, lines := if gather then j.startLines s lead else [] }) j with
    | .ok s d => .ok (j.advance (j.keepLines s) d) { d with lines := (s.engine P e).lines }
    | .held s => .held (j.unshare s)
    | .busy t => .busy (s.withAsked t)

/-- The iteration after one that has completed, unless a slot is released, the loop nest ends with it, or the port has bytes for an
entry. -/
def Job.following (j : Job) (t : State) (d : Done) : Option (State × Job) :=
  if d.more ∨ (j.cb.rwin ≠ 0xFF ∧ lastBelow j.cb.bounds j.idx j.cb.rlvl.toNat) ∨ (nextTuple j.cb.bounds j.idx).isNone ∨
      (j.cb.loadsPort ∧ 32 ≤ (t.engine j.P j.e).partIn.length) then none
  else
    let u := j.advance t d
    (u.job j.P j.e).map fun k => (k.mod u fun x => { x with block := .none }, { k with mute := j.mute, gather := true, later := true })

/-- How many lines an engine's iterations have pieces to write to. -/
def Engine.putLines (x : Engine) : Nat := (x.lines.filter fun l => !l.put.isEmpty).length

/-- The iterations that share their line accesses (R279): from the job's iteration on, in order, as long as each completes, `cap` of
them, and then on as long as no further line is written, `fuel` at most; the last of them takes `most` bytes of a row. The answer is the state before the last of them counts as
complete, its job and what it did, all the bytes, and how many they are. (DEDUCED, log entry 51: the iterations that share a line
access.) -/
def shareLines (iter : State → Job → Eio Done) (cap most : Nat) :
    Nat → Nat → State → Job → List Byte → Option (State × Job × Done × List Byte × Nat)
  | 0, _, _, _, _ => none
  | fuel + 1, served, s, j0, buf =>
    let j := if fuel = 0 then { j0 with cap := most } else j0
    match iter s j with
    | .ok t d =>
      if cap ≤ served ∧ (s.engine j.P j.e).putLines < (t.engine j.P j.e).putLines then none
      else
        let all := buf ++ d.out
        let stop := some (t, j, d, all, served + 1)
        match j.following t d with
        | none => stop
        | some (u, k) =>
          match shareLines iter cap most fuel (served + 1) u k all with
          | some r => some r
          | none => stop
    | _ => none

/-- The iterations of tile P's engine that share their line accesses, and then their writes (R278, R279): up to 64 and to the end of the
line that they write. A trailing tile of a PAIR takes what its leading tile has read, and as many iterations (R434). Where one of the writes does not
complete, the first iteration goes alone. -/
def State.iterateLines (s : State) (P : TileId) (e : Eng) (lead : Option Done) (iter : State → Job → Eio Done) : Eio Done :=
  match s.job P e with
  | none => .busy s
  | some j =>
    let j := { j with mute := lead.isSome, gather := true, later := true }
    let (cap, most, fuel) := match lead with
      | some d => (d.served, d.took, d.served)
      | none => (64, 65536, 256)
    match shareLines iter cap most fuel 0 (j.mod s fun x => { x with block := .none, lines := j.startLines s lead }) j [] with
    | none => s.iterate P e lead true iter
    | some (t, k, d, all, served) =>
      let lines := (t.engine P e).lines
      match k.flushLines lines t with
      | .ok u _ => .ok (k.advance (k.keepLines u) d) { d with out := all, lines, served }
      | _ => s.iterate P e lead true iter

/-- The outbound requests of a step of a tile, as the compare buffer sees them: the lines that it reads and writes, the bytes written with
their places, and its combine requests with their tags (R434). -/
def State.asks (s : State) (P : TileId) (d : Done) : List (Word × Bool × List (Nat × List Byte)) × List Staged :=
  (((d.lines.filter fun l => s.outbound P l.line && (l.used || !l.put.isEmpty)).map fun l => (l.line, l.used, plainPieces l.put)),
   d.sent.filter fun x => s.outbound P x.addr)

/-- The outcome of a step of an engine. An engine that must wait for a peer says so once, with the requests that have gone out. -/
def Eio.toRes {α : Type} (r : Eio α) (s : State) (P : TileId) (e : Eng) (name : String) : Res :=
  match r with
  | .ok s _ => .next s
  | .held s => .next s
  | .busy t =>
    let asked := s.withAsked t
    if (s.engine P e).block = .none then .next (asked.modEngine P e fun x => { x with block := .peer })
    else if asked.io.outReqs.length ≠ s.io.outReqs.length then .next asked
    else notNow name

/-- The event that engine e of tile P has just raised is the refusal of an outbound request: its value is the address that was refused. -/
def State.refusedOut (s : State) (P : TileId) (e : Eng) : Option Event :=
  if (s.engine P e).block = .event then
    match (s.tile P).events.reverse.find? fun v => v.src == engSrc e && !v.recorded with
    | some v =>
      if (v.cause = .badaddr ∨ v.cause = .prot ∨ v.cause = .poison) ∧ s.outbound P v.val then some v else none
    | none => none
  else none

/-- The reply of an outbound request reaches the trailing tile Q 64 ticks after the leading one: its engine does not go on before (R85,
R434). -/
def State.lagEngine (s : State) (Q : TileId) (e : Eng) : State := s.modEngine Q e fun x => { x with lag := s.tick + pairLag }

/-- The tag counter of tile P's source stands as it did in `t`: the trailing tile takes the tags that its leading one has taken (R434). -/
def State.tagsOf (s : State) (P : TileId) (t : State) : State :=
  match t.taskOf P with
  | some k =>
    let key := tagKey (t.tile P).vt (t.tile P).copy
    s.modTaskOf P fun x => { x with tags := kset x.tags key (kget 0 k.tags key) }
  | none => s

/-- A step of an engine that makes outbound requests waits for the other tile of a PAIR, whose engine must have come to the same point
`what`, with the same targets. The step is then made on both tiles, the trailing one with the tags and replies of the leading one and
writing nothing outbound, and their requests are compared: on a difference neither is issued (R434, R435). A refusal reaches both. Where
the leading engine is held by a cause of its own, the trailing one meets `alone`.
(DEDUCED, log entry 42: a compared step is one step of both tiles.) -/
def pairedEng {α : Type} (s : State) (P : TileId) (e : Eng) (name : String) (what : List Nat) (alone : α) (same : α → α → Bool)
    (f : State → TileId → Option α → Eio α) : Res :=
  if s.isPair P = false then (f s P none).toRes s P e name
  else match s.pairGate P (engSrc e).toNat what with
    | (s', .wait) =>
      if (s.engine P e).block = .pair then notNow name else .next (s'.modEngine P e fun x => { x with block := .pair })
    | (s', .mismatch) => .next (s'.pairMismatch P)
    | (s', .go L) =>
      match f s' L none with
      | .ok s2 a =>
        (match s2.follower L with
         | some Q => (match f (s2.tagsOf L s') Q (some a) with
           | .ok s3 b => .next (if same a b then (s3.tagsOf L s2).lagEngine Q e else s'.pairMismatch L)
           | .held s3 => .next ((s3.tagsOf L s2).lagEngine Q e)
           | .busy _ => notNow name)
         | none => .next s2)
      | .held s2 =>
        (match s2.follower L, s2.refusedOut L e with
         | some Q, some v => .next ((s2.raiseEng Q e v.cause v.val v.loc).lagEngine Q e)
         | some Q, none =>
           if (s2.engine L e).block = .event then
             (match f (s2.tagsOf L s') Q (some alone) with
              | .held s3 => .next (s3.tagsOf L s2)
              | _ => .next s2)
           else .next s2
         | none, _ => .next s2)
      | .busy t =>
        if t.io.outReqs.length ≠ s'.io.outReqs.length then .next (s.withAsked t) else notNow name

/-- The addresses outside a tile's cluster that a CB's windows name at an iteration (R434). -/
def Job.targets (j : Job) (s : State) : List Nat :=
  [j.cb.w0, j.cb.w1, j.cb.w2].flatMap fun w =>
    if w = Window.zero then []
    else
      let a := match j.winAddr s w 0 1 true with
        | .ok a => a
        | .error a => a
      if s.outbound j.P a then [a.toNat] else []

/-- A used window reaches outside the tile's own cluster, or the Siphon runs the CB (R434). A window on the side of a port, and W2 of a
product, reach no memory. -/
def Job.outward (j : Job) (s : State) : Bool :=
  let port (w : Window) : Bool := (j.e == .ld || j.e == .st) && j.cb.port != 0 && w.portOk
  let reaches (w : Window) : Bool := w != Window.zero && !port w && s.outbound j.P w.base
  j.cb.siphons j.e || (if j.e = .mx then [j.cb.w0, j.cb.w1] else [j.cb.w0, j.cb.w1, j.cb.w2]).any reaches

/-- The entries of the load engine go on into its port while there is room (R280). Once the grid has reserved every whole entry, the slot of
a ring load that is over is given back, and a loop nest that is over ends (R337). -/
def Job.drainPort (j : Job) (s : State) (name : String) : Res :=
  let x := s.engine j.P j.e
  let part := x.partIn
  let pad := if x.tail then (32 - part.length % 32) % 32 else 0
  let s1 := j.pushPort 16 (j.mod s fun x => { x with partIn := part ++ List.replicate pad (0, false) })
  let left := (s1.engine j.P j.e).partIn
  if left.length < 32 ∧ s1.unreserved j.P = 0 ∧ (x.tail = false ∨ left.isEmpty) then
    let s2 := if x.slotOver then j.freeSlot s1 else s1
    .next (if x.tail then s2.endBody j.P j.e else s2)
  else if left.length < part.length + pad then .next s1
  else notNow name

/-- The current CB of engine e of tile P is in its loop nest with the opcode `op`. -/
def State.inBody (s : State) (P : TileId) (e : Eng) (op : Nat) : Option Job :=
  match s.job P e with
  | some j => if (s.engine P e).stage = .body ∧ j.cb.op.toNat = op then some j else none
  | none => none

/-- The next thing that a CB's loop nest needs: a port's room, a ring slot, and then what `run` does. -/
def bodyRun (s : State) (P : TileId) (e : Eng) (op : Nat) (name : String)
    (run : State → TileId → Eng → Option Done → Eio Done) : Res :=
  match s.inBody P e op with
  | none => notNow name
  | some j =>
    let x := s.engine P e
    if j.cb.rwin ≠ 0xFF ∧ j.ringFull s then notNow name
    else if x.tail ∨ x.slotOver ∨ (e = .ld ∧ 32 ≤ x.partIn.length) then j.drainPort s name
    else if j.cb.rwin ≠ 0xFF ∧ x.ring.isNone then .next (j.askSlot s)
    else if j.outward s then
      pairedEng s P e name (j.addr.toNat :: j.idx ++ j.targets s) { out := [], count := 0 }
        (fun a b => s.asks P a == s.asks P b && (e == .ld || a.out == b.out)) fun s P lead => run s P e lead
    else (run s P e none).toRes s P e name

/-- A CB's loop nest, one iteration at a time. -/
def bodyStep (s : State) (P : TileId) (e : Eng) (op : Nat) (name : String) (iter : State → Job → Eio Done) : Res :=
  bodyRun s P e op name fun s P e lead => s.iterate P e lead false iter

/-- A CB's loop nest, by line accesses that several iterations share (R279). -/
def lineStep (s : State) (P : TileId) (e : Eng) (op : Nat) (name : String) (iter : State → Job → Eio Done) : Res :=
  bodyRun s P e op name fun s P e lead => s.iterateLines P e lead iter

/-! ### Conversion of elements (R259 to R267) -/

/-- The elements of a list converted, one draw each under SR: the results and the generator after them. -/
def convertAll (src dst : Fmt) (m : Mode) : Word → List Nat → List Nat × Word
  | g, [] => ([], g)
  | g, x :: r =>
    let g := if m.rnd = .sr then genStep g else g
    let (l, g') := convertAll src dst m g r
    (convert src dst x m (genWord g) :: l, g')

/-- Bytes of one scalar format converted to another, unit by unit (R296).
(DESIGN CHOICE, log entry 99: bytes after the last whole unit.) -/
def convertBytes (src dst : Byte) (m : Mode) (g : Word) (l : List Byte) : List Byte × Word :=
  match scalarFmt src, scalarFmt dst with
  | some a, some b =>
    let n := l.length / unitOf src * perUnit src
    let (r, g) := convertAll a b m g (elemsOf a.width n l)
    (leBytes (n / perUnit dst * unitOf dst) (packElems b.width r), g)
  | _, _ => (l, g)

end Sys2Proof.Machine
end

