-- ==== Sys2Proof/Machine/Streams.lean ====
section
/-! DEFINITION. The control blocks that every engine shares (R288, R289, R294, R295) and those of the load and store engines (R296 to
R303), each as one iteration of its loop nest. -/
namespace Sys2Proof.Machine

/-! ### NOP, PATCH, MODE -/

/-- A CB without a loop nest ends its step 2. -/
def emptyBody (P : TileId) (e : Eng) (op : Nat) (name : String) (s : State) : Res :=
  match s.inBody P e op with
  | some _ => .next (s.endBody P e)
  | none => notNow name

/-- CB_NOP (R288). -/
def execCbNop (P : TileId) (e : Eng) (s : State) : Res := emptyBody P e 0x01 "CB_NOP" s
/-- PATCH (R294): its work is step 4. -/
def execPatch (P : TileId) (e : Eng) (s : State) : Res := emptyBody P e 0x03 "PATCH" s

/-- The seed of FE lane l of element f (R289). -/
def feSeed (z : Word) (f l : Nat) : Word := z ^^^ (0x9E3779B97F4A7C15 * BitVec.ofNat 64 (1 + 8 * f + l))

/-- The generators of every lane of the grid are seeded (R289). -/
def Grid.seed (g : Grid) (z : Word) : Grid :=
  { g with fes := Vector.ofFn fun f => { g.fes[f] with gen := Vector.ofFn fun l => feSeed z f.val l.val } }

/-- The SEED record of a MODE CB, or the recorded seed under replay (R464, R465): none while the log is full. -/
def Job.seedLog (j : Job) (s : State) (z : Word) : Option (State × Word) :=
  let w := j.who s
  match (s.engine j.P j.e).queue with
  | [] => some (s, z)
  | c :: _ =>
    if s.recMode j.P = 1 then
      (s.logAppend w.ctx 4 w.vt.toNat c.modes.toNat (leBytes 1 j.e.code.toNat ++ leBytes 4 c.num.toNat ++ leBytes 8 z.toNat)).map
        fun s => (s, z)
    else if s.recMode j.P = 2 then
      match s.logFind w.ctx 4 c.modes.toNat (fun v l => v == w.vt.toNat && leNat (l.take 1) == j.e.code.toNat &&
          leNat ((l.drop 1).take 4) == c.num.toNat) with
      | some l => some (s, BitVec.ofNat 64 (leNat ((l.drop 5).take 8)))
      | none => some (s, z)
    else some (s, z)

/-- MODE (R289): the chain's mode, and with SEED its generators. -/
def execCbMode (P : TileId) (e : Eng) (s : State) : Res :=
  match s.inBody P e 0x02 with
  | none => notNow "MODE"
  | some j =>
    let mode := j.cb.opa.extractLsb' 0 6
    let done (s : State) : Res :=
      .next ((j.mod s fun x => x.modHead fun c => { c with mode, modes := c.modes + 1 }).endBody P e)
    if j.cb.opa.getLsbD 6 then
      match j.seedLog s (j.cb.opc ++ j.cb.opb) with
      | none => notNow "MODE"
      | some (s, z) =>
        if e = .gr then done (s.modTile P fun t => { t with grid := t.grid.seed z }) else done (j.setGen s z)
    else done s

/-! ### CRYS (R295) -/

/-- The 32 bytes of iteration n of the pattern with seed p. -/
def crysBytes (n : Nat) (p : Byte) : List Byte :=
  (List.range 32).map fun k => BitVec.ofNat 8 ((32 * n + k) * 0x9D + p.toNat)

/-- One pass of the pattern's iteration through a datapath: the converted bytes and the generator. The Siphon's score converter is exact,
and of the chain mode only the draws apply to it (R267, R359, R369). -/
def Job.crysPass (j : Job) (g : Word) : List Byte × Word :=
  convertBytes (j.cb.opa.extractLsb' 0 8) (j.cb.opa.extractLsb' 8 8)
    (if j.e = .rt then (if j.mode.rnd = .sr then { Mode.rne with rnd := .sr } else Mode.rne) else j.mode) g
    (crysBytes (j.idx.getD 0 0) (j.cb.opb.extractLsb' 0 8))

/-- `n` passes, one after another. -/
def Job.crysPasses (j : Job) : Nat → Word → List Byte × Word
  | 0, g => ([], g)
  | n + 1, g =>
    let (l, g) := j.crysPass g
    let (r, g) := Job.crysPasses j n g
    (l ++ r, g)

/-- One iteration of CRYS: in a gr chain each of the 16 elements converts it (R329). -/
def iterCrys (s : State) (j : Job) : Eio Done :=
  let (l, g) := j.crysPasses (if j.e = .gr then 16 else 1) (j.gen s)
  .ok (j.setGen s g) { out := l, count := 0 }

/-- The unit that a CB's step 2 needs beside its engine: the lease of the quad array for a matrix CB (R319, R320), which
has begun and whose count is not spent, and the Siphon for an rt CB (R354, R369). The Siphon serves the single compared request of a PAIR, that of the leading
tile (R435). -/
def State.unitReady (s : State) (P : TileId) (e : Eng) : Bool :=
  match e with
  | .mx =>
    (match (s.quad (quadOf P)).lease with
     | .held t since n =>
       t == posOf P && decide (since ≤ s.tick) && ((s.engine P .mx).started || (decide (n < (s.core P).leaseq.toNat) && !(s.quad (quadOf P)).yield))
     | _ => false)
  | .rt =>
    (match (s.die (dieOf P)).siphon.serving with
     | some Q => Q == P || ((s.tile P).trailing && s.twinTile P == some Q)
     | none => false)
  | _ => true

/-- A tile whose rt engine is ready for the Siphon. (DEDUCED, log entry 57: when the Siphon takes a tile.) -/
def State.siphonWants (s : State) (P : TileId) : Bool :=
  match s.job P .rt with
  | some j => decide ((s.engine P .rt).stage = .body) && j.cb.siphons .rt && !(s.tile P).trailing
  | none => false

/-- The free Siphon of a die takes the next ready tile after the one it served last (R354). -/
def State.takeSiphon (s : State) (d : Nat) : State :=
  let x := (s.die d).siphon
  if x.serving.isSome then s
  else
    let ready (P : TileId) : Bool := dieOf P == d && s.siphonWants P
    let all := (s.tiles.map fun p => (BitVec.ofNat 10 p.1 : TileId)).filter ready
    match (all.find? fun P => x.last.toNat < P.toNat), all with
    | some P, _ => s.modDie d fun y => { y with siphon := { x with serving := some P } }
    | none, P :: _ => s.modDie d fun y => { y with siphon := { x with serving := some P } }
    | none, [] => s

/-- CRYS. -/
def execCrys (P : TileId) (e : Eng) (s : State) : Res :=
  let s := if e = .rt then s.takeSiphon (dieOf P) else s
  if s.unitReady P e then bodyStep s P e 0x04 "CRYS" iterCrys else notNow "CRYS"

/-! ### Loads (R296 to R300) -/

/-- One iteration of LD.COPY. -/
def iterLdCopy (s : State) (j : Job) : Eio Done :=
  let n := unitOf j.cb.w0.fmt
  j.at s j.cb.w0 0 n fun a =>
  j.intoOrPort s j.cb.w1 n fun dst =>
  (j.read s 0 a n dst.isSome).then fun s d =>
  (j.deliver s 1 dst d).then fun s _ => .ok s { out := d.raw, count := 1 }

/-- LD_COPY (R296). -/
def execLdCopy (P : TileId) (s : State) : Res := lineStep s P .ld 0x10 "LD_COPY" iterLdCopy

/-- The flags of the bytes of a conversion: a byte that holds part of an element whose source bytes include a flagged one is
flagged (R280). `a` and `b` are the bits of an element in the source and in the result, `n` the bytes of the result. -/
def carryFlags (a b : Nat) (l : List Bool) (n : Nat) : List Bool :=
  let flagged (k : Nat) : Bool := (l.drop (a * k / 8)).take ((a * k + a + 7) / 8 - a * k / 8) |>.any fun x => x
  (List.range n).map fun i => (List.range ((8 * i + 7) / b - 8 * i / b + 1)).any fun k => flagged (8 * i / b + k)

/-- What a conversion delivers: the bytes, each with whether what it holds was read from a non-resident page, and the
generator. -/
def Job.converted (j : Job) (s : State) (d : Data) : Data × Word :=
  let (l, g) := convertBytes j.cb.w0.fmt j.cb.w1.fmt j.mode (j.gen s) d.raw
  let flags := match scalarFmt j.cb.w0.fmt, scalarFmt j.cb.w1.fmt with
    | some a, some b => carryFlags a.width b.width (d.bytes.map Prod.snd) l.length
    | _, _ => []
  ({ bytes := (List.range l.length).map fun i => (l.getD i 0, flags.getD i d.nonres), lost := d.lost }, g)

/-- One iteration of LD.CVT. -/
def iterLdCvt (s : State) (j : Job) : Eio Done :=
  j.at s j.cb.w0 0 j.cb.cvtIn fun a =>
  j.intoOrPort s j.cb.w1 j.cb.cvtOut fun dst =>
  (j.read s 0 a j.cb.cvtIn dst.isSome).then fun s d =>
  let (d, g) := j.converted s d
  (j.deliver s 1 dst d).then fun s _ => .ok (j.setGen s g) { out := d.raw, count := 1 }

/-- LD_CVT (R296). -/
def execLdCvt (P : TileId) (s : State) : Res := lineStep s P .ld 0x11 "LD_CVT" iterLdCvt

/-- The values of the 48 elements that LD.ALIGN reads. -/
def alignValues (f : Byte) (l : List Byte) : List Val :=
  match scalarFmt f with
  | some x => (elemsOf x.width 48 l).map fun b => x.read false b
  | none => []

/-- One iteration of LD.ALIGN: the AL16 unit at W1 and the exponent byte at W2 (R269). -/
def iterLdAlign (s : State) (j : Job) : Eio Done :=
  let n := 48 * unitOf j.cb.w0.fmt
  j.at s j.cb.w0 0 n fun a =>
  j.into s j.cb.w1 0 96 fun b =>
  j.into s j.cb.w2 0 1 fun c =>
  (j.read s 0 a n true).then fun s d =>
  let vs := alignValues j.cb.w0.fmt d.raw
  let x := alignScale vs
  let m := vs.flatMap fun v => leBytes 2 (alignElem x v)
  (j.write s 1 b { Data.of m with lost := d.lost }).then fun s _ =>
  (j.write s 2 c { Data.of [BitVec.ofNat 8 x] with lost := d.lost }).then fun s _ =>
  .ok s { out := m ++ [BitVec.ofNat 8 x], count := 1 }

/-- LD_ALIGN (R297). -/
def execLdAlign (P : TileId) (s : State) : Res := lineStep s P .ld 0x12 "LD_ALIGN" iterLdAlign

/-- The bits and the number of the elements of one access unit of any format. -/
def fmtElems (f : Byte) : Nat × Nat :=
  match scalarFmt f, mxFmt f with
  | some x, _ => (x.width, perUnit f)
  | none, some m => (m.bits, if m.kind = .mx then 32 else 48)
  | none, none => (8, 1)

/-- The pad value of a window as one access unit (R29). -/
def Window.padUnit (w : Window) : List Byte :=
  let (b, n) := fmtElems w.fmt
  leBytes (unitOf w.fmt) (packElems b (List.replicate n (if w.padValue then w.pad.toNat else 0)))

/-- The index that an index window gives at an iteration (R298). `soft` as for `readLines`. -/
def Job.index (j : Job) (s : State) (win : Nat) (soft : Bool) : Eio (Int × Bool) :=
  let w := j.cb.win win
  let n := unitOf w.fmt
  j.at s w 0 n fun a =>
  (j.read s win a n soft).then fun s d => .ok s (intOf (8 * n) true (leNat d.raw), d.lost)

/-- The index of an iteration whose row moves in parts: it is read once (R298). -/
def Job.rowIndex (j : Job) (s : State) (win : Nat) (soft : Bool) : Eio (Int × Bool) :=
  match (s.engine j.P j.e).rowIdx with
  | some x => .ok s x
  | none => j.index s win soft

/-- The index lies in 0 to N − 1. -/
def CB.inRows (c : CB) (x : Int) : Bool := decide (0 ≤ x ∧ x < (c.opb.toNat : Int))
/-- The table offset of an index. -/
def CB.rowOff (c : CB) (x : Int) : Int := x * c.opc.toInt

/-- One iteration of LD.GATHER. An index that was lost on its way chooses no row: the mark lands with bytes of which nothing is known (R440).
(DEDUCED, log entry 10. DESIGN CHOICE, log entry 98: the formats of table and destination may differ.) -/
def iterLdGather (s : State) (j : Job) : Eio Done :=
  let n := j.cb.rowBytes j.cb.w0.fmt
  j.intoOrPort s j.cb.w1 n fun dst =>
  (j.index s 2 dst.isSome).then fun s (x, lost) =>
  if lost then
    let (s, l) := s.lostBytes n
    (j.deliver s 1 dst { bytes := l, lost }).then fun s _ => .ok s { out := l.map Prod.fst, count := 0 }
  else if j.cb.inRows x then
    j.at s j.cb.w0 (j.cb.rowOff x) n fun a =>
    (j.read s 0 a n dst.isSome).then fun s d =>
    (j.deliver s 1 dst d).then fun s _ =>
    .ok s { out := d.raw, count := 0 }
  else if j.cb.opa.getLsbD 3 then
    let d := Data.of (List.replicate (j.cb.parm.extractLsb' 0 16).toNat j.cb.w0.padUnit).flatten
    (j.deliver s 1 dst d).then fun s _ => .ok s { out := d.raw, count := 1 }
  else j.fault s .badaddr (BitVec.ofInt 64 x)

/-- LD_GATHER (R298). -/
def execLdGather (P : TileId) (s : State) : Res := lineStep s P .ld 0x13 "LD_GATHER" iterLdGather

/-- The coordinate of an axis at an iteration of LD.CONV (R299). -/
def Job.convCoord (j : Job) (a : Nat) : Int :=
  let origin : BitVec 8 := j.cb.opb.extractLsb' (8 * a) 8
  (List.range 6).foldl (fun (t : Int) (l : Nat) =>
    if (j.cb.convMap l).1 = a then t + ((j.cb.convMap l).2 * j.idx.getD l 0 : Nat) else t) origin.toInt

/-- The element of an iteration of LD.CONV is the pad value. -/
def Job.convPads (j : Job) : Bool :=
  (List.range 4).any fun a => j.cb.axisNamed a && !decide (0 ≤ j.convCoord a ∧ j.convCoord a < (j.cb.extent a : Int))

/-- One iteration of LD.CONV. -/
def iterLdConv (s : State) (j : Job) : Eio Done :=
  let n := unitOf j.cb.w0.fmt
  j.intoOrPort s j.cb.w1 n fun dst =>
  if j.convPads then
    let d := Data.of j.cb.w0.padUnit
    (j.deliver s 1 dst d).then fun s _ => .ok s { out := d.raw, count := 1 }
  else
    let off := (List.range 4).foldl (fun (t : Int) (a : Nat) => t + j.convCoord a * j.cb.axisStride a) 0
    j.at s j.cb.w0 off n fun a =>
    (j.read s 0 a n dst.isSome).then fun s d =>
    (j.deliver s 1 dst d).then fun s _ => .ok s { out := d.raw, count := 0 }

/-- LD_CONV (R299). -/
def execLdConv (P : TileId) (s : State) : Res := lineStep s P .ld 0x14 "LD_CONV" iterLdConv

/-- One unit of LD.FILL (R300). -/
def CB.fillUnit (c : CB) : List Byte :=
  let (b, n) := fmtElems c.w1.fmt
  leBytes (unitOf c.w1.fmt) (packElems b (List.replicate n (c.opc ++ c.parm).toNat))

/-- One iteration of LD.FILL. -/
def iterLdFill (s : State) (j : Job) : Eio Done :=
  j.intoOrPort s j.cb.w1 (unitOf j.cb.w1.fmt) fun dst =>
  (j.deliver s 1 dst (Data.of j.cb.fillUnit)).then fun s _ => .ok s { out := j.cb.fillUnit, count := 1 }

/-- LD_FILL (R300). -/
def execLdFill (P : TileId) (s : State) : Res := lineStep s P .ld 0x15 "LD_FILL" iterLdFill

/-! ### Stores (R296, R298) -/

/-- The bytes that a store took from its port leave it. -/
def Job.taken (j : Job) (s : State) (src : Option Word) (n : Nat) : State := if src.isNone then j.takePort s n else s

/-- One iteration of ST.COPY. -/
def iterStCopy (s : State) (j : Job) : Eio Done :=
  let n := unitOf j.cb.w0.fmt
  j.atOrPort s j.cb.w0 n fun src =>
  j.into s j.cb.w1 0 n fun b =>
  (j.source s 0 src n true).then fun s d =>
  (j.write s 1 b d).then fun s _ => .ok (j.taken s src n) { out := d.raw, count := 1 }

/-- ST_COPY (R296). -/
def execStCopy (P : TileId) (s : State) : Res := lineStep s P .st 0x20 "ST_COPY" iterStCopy

/-- One iteration of ST.CVT. -/
def iterStCvt (s : State) (j : Job) : Eio Done :=
  j.atOrPort s j.cb.w0 j.cb.cvtIn fun src =>
  j.into s j.cb.w1 0 j.cb.cvtOut fun b =>
  (j.source s 0 src j.cb.cvtIn true).then fun s d =>
  let (r, g) := j.converted s d
  (j.write s 1 b r).then fun s _ => .ok (j.taken (j.setGen s g) src j.cb.cvtIn) { out := r.raw, count := 1 }

/-- ST_CVT (R296). -/
def execStCvt (P : TileId) (s : State) : Res := lineStep s P .st 0x21 "ST_CVT" iterStCvt

/-- How many bytes of a row of `n` bytes the store engine moves in this step: the rest of it, of a port as many whole units as it
holds, and `most` at most. -/
def Job.rowPart (j : Job) (s : State) (src : Option Word) (n most : Nat) : Nat :=
  let left := min (n - (s.engine j.P j.e).rowDone) most
  let u := max (unitOf j.cb.w0.fmt) 1
  match src with
  | some _ => left
  | none => min left (min j.cap (j.outBytes s).length / u * u)

/-- `k` bytes of the iteration's row have found their place, and leave the port. -/
def Job.rowMoved (j : Job) (s : State) (src : Option Word) (k : Nat) : State :=
  j.mod (j.taken s src k) fun x => { x with rowDone := x.rowDone + k }

/-- The step ends, which took `took` bytes: the iteration, whose row the index `x` chose, is complete once its whole row of `n` bytes is
in place. -/
def Job.rowEnd (j : Job) (s : State) (x : Option (Int × Bool)) (n : Nat) (out : List Byte) (count took : Nat) : Eio Done :=
  if n ≤ (s.engine j.P j.e).rowDone then .ok (j.mod s fun y => { y with rowDone := 0, rowIdx := none }) { out, count, took }
  else .ok (j.mod s fun y => { y with rowIdx := x }) { out, count := 0, took, more := true }

/-- The next bytes of the iteration's row are read, at `done` bytes into it, and `put` finds their place. -/
def Job.moveRow (j : Job) (s : State) (x : Option (Int × Bool)) (src : Option Word) (n count : Nat)
    (put : State → Nat → Data → Eio (List Byte)) : Eio Done :=
  let done := (s.engine j.P j.e).rowDone
  let k := j.rowPart s src n n
  if k = 0 then .busy s
  else
    (j.source s 0 (src.map fun a => a + BitVec.ofNat 64 done) k true).then fun s d =>
    (put s done d).then fun s out => j.rowEnd (j.rowMoved s src k) x n out count k

/-- One iteration of ST.SCAT, or the part of it whose bytes the port holds. An index that was lost on its way names some row, which takes
the mark, or none (R440). (DEDUCED, log entry 10. DESIGN CHOICE, log entry 98: the formats of source and table may differ.) -/
def iterStScat (s : State) (j : Job) : Eio Done :=
  let n := j.cb.rowBytes j.cb.w0.fmt
  j.atOrPort s j.cb.w0 n fun src =>
  (j.rowIndex s 1 true).then fun s (x, lost) =>
  if j.cb.inRows x then
    j.into s j.cb.w2 (j.cb.rowOff x) n fun b =>
    j.moveRow s (some (x, lost)) src n 0 fun s done d =>
      (j.write s 2 (b + BitVec.ofNat 64 done) { d with lost := d.lost || lost }).then fun s _ => .ok s d.raw
  else if j.cb.opa.getLsbD 3 || lost then j.moveRow s (some (x, lost)) src n (if lost then 0 else 1) fun s _ _ => .ok s []
  else j.fault s .badaddr (BitVec.ofInt 64 x)

/-- ST_SCAT (R298). -/
def execStScat (P : TileId) (s : State) : Res := lineStep s P .st 0x22 "ST_SCAT" iterStScat

/-! ### ST.RED (R301, R302) -/

/-- One element combined: op 0 ADD, 1 MIN, 2 MAX; ctl FTZ, CAN, SAT (R301). -/
def redElem (f : Fmt) (op : Nat) (ctl : BitVec 3) (x y : Nat) : Nat :=
  match f with
  | .fl g => fredResult g op (ctl.getLsbD 0) (ctl.getLsbD 1) (ctl.getLsbD 2) x y
  | .int n _ =>
    let a := intOf n true x
    let b := intOf n true y
    intBits n (if op = 0 then (if ctl.getLsbD 2 then clampInt n true (a + b) else a + b)
      else if op = 1 then min a b else max a b)
  | .e8m0 => y

/-- The elements of two numbers combined, one by one. -/
def redAll (f : Fmt) (op : Nat) (ctl : BitVec 3) (n x y : Nat) : Nat :=
  packElems f.width ((List.range n).map fun k =>
    redElem f op ctl (x / 2 ^ (f.width * k) % 2 ^ f.width) (y / 2 ^ (f.width * k) % 2 ^ f.width))

/-- Source bytes staged by the destination lines they go to, each with a fresh tag (R302). A piece holds whole elements of `u` bytes; an
element that crosses into the next line is a piece of its own (R301). -/
def Job.stageLines (j : Job) (u : Nat) : Nat → State → Word → List Byte → State × List Staged
  | 0, s, _, _ => (s, [])
  | fuel + 1, s, va, bs =>
    if bs.length = 0 then (s, [])
    else
      let fit := min bs.length (64 - va.toNat % 64) / u * u
      let k := if fit = 0 then min bs.length u else fit
      let (s, tag) := s.takeTag j.P
      let (s, r) := Job.stageLines j u fuel s (va + BitVec.ofNat 64 k) (bs.drop k)
      (s, { addr := va, data := bs.take k, tag } :: r)

/-- The combine of a staged piece may not be sent yet: its source has 4,096 unacknowledged requests at the owner, and this is not one
of them (R395). -/
def State.combineWaits (s : State) (P : TileId) (x : Staged) : Bool :=
  s.engTagsFull P (s.ownerIx P x.addr) &&
  !(s.doneTable (s.ownerIx P x.addr)).any fun r => r.src == s.srcOf P && r.tag == x.tag

/-- A staged piece's combine at its owner, once under its tag, in recorded order under replay (R302, R464, R465). -/
def Job.combine (j : Job) (s : State) (x : Staged) : Eio Unit :=
  match scalarFmt j.cb.w1.fmt with
  | none => .ok s ()
  | some f =>
    let n := x.data.length
    let op := (j.cb.opa.extractLsb' 3 2).toNat
    let new (old : Nat) : Option Nat := some (redAll f op (j.cb.opa.extractLsb' 5 3) (8 * n / f.width) old (leNat x.data))
    if j.mute && s.outbound j.P x.addr then .ok s ()
    else if tagOf x.addr = 0x00 ∧ ownerOf x.addr = 5 then j.fault s .badaddr x.addr
    else if j.hazards s x.addr n then j.fault s .hazard x.addr
    else if s.combineWaits j.P x || s.limited j.P x.addr n then .busy s
    else match (s.locate (j.who s) x.addr .rmw true).2.1 with
      | .zero => .ok (j.flag s 1 true) ()
      | _ =>
        let r := s.onceAt j.P x.addr x.tag 0 fun s0 =>
          if s0.orderHeld j.P x.addr x.tag then (s0, .busy, 0)
          else match s0.rmwSpan (j.who s0) x.addr n new with
            | (s, .bytes _, t) =>
              (match s.orderLog j.P x.addr x.tag 0x23 with
               | some s => (s, .done, t)
               | none => (s0, .busy, 0))
            | (s, g, t) => (s, g.out fun _ => .done, t)
        match r with
        | (s, .done, _) =>
          let s := match s.tileAt j.P x.addr with | some Q => s.byteArrive Q (offOf x.addr) n | none => s
          .ok (s.touchTile j.P x.addr) ()
        | (s, .parked, _) => j.parks s x.addr .rmw
        | (s, .trap c, _) => j.fault s c (if c = .poison then lineVa x.addr else x.addr)
        | (s, .busy, _) => .busy s
        | (s, _, _) => .ok s ()

/-- The bytes that staged pieces hold. -/
def stagedBytes (l : List Staged) : List Byte := l.flatMap Staged.data

/-- The owner of a staged piece holds its combine for a recorded order; one that has been applied has its reply (R394, R465). -/
def Job.ordered (j : Job) (s : State) (x : Staged) : Bool :=
  !(j.mute && s.outbound j.P x.addr) && (s.liveEntry j.P x.addr x.tag).isNone && s.orderHeld j.P x.addr x.tag

/-- The staged pieces are combined, in order, and each leaves the buffer when it has been; `cap` bounds the bytes. One that its owner holds
for a recorded order stays behind (R465). What comes before one that must wait, parks or faults stays done. `kept` are those that stay,
and the value is the pieces combined.
(DESIGN CHOICE, log entry 90: the bytes that a crystal of ST.RED hashes.) -/
def Job.combineAll (j : Job) (kept : List Staged) : List Staged → List Staged → State → Eio (List Staged)
  | [], sent, s => if sent.isEmpty && !kept.isEmpty then .busy s else .ok s sent
  | x :: r, sent, s =>
    let full := decide (j.cap < (stagedBytes sent).length + x.data.length)
    if full && !sent.isEmpty then .ok s sent
    else if j.ordered s x then Job.combineAll j (kept ++ [x]) r sent s
    else match j.combine s x with
    | .ok s _ => Job.combineAll j kept r (sent ++ [x]) (j.mod s fun y => { y with staging := kept ++ r, rowDone := y.rowDone + x.data.length })
    | .held t => if sent.isEmpty then .held t else .ok s sent
    | .busy t => if sent.isEmpty then .busy t else .ok s sent

/-- Bytes join the staged pieces of a row from its address `b` on: the last piece grows up to the end of its line (R302). -/
def Job.stageMore (j : Job) (u : Nat) (s : State) (b : Word) (bs : List Byte) : State :=
  let x := s.engine j.P j.e
  let at_ (n : Nat) : Word := b + BitVec.ofNat 64 n
  let done := x.rowDone + (stagedBytes x.staging).length
  let put (s : State) (l : List Staged) : State := j.mod s fun y => { y with staging := l }
  match x.staging.reverse with
  | last :: before =>
    let from_ := done - last.data.length
    let (s, l) := j.stageLines u 128 s (at_ from_) (last.data ++ bs)
    put s (before.reverse ++ match l with | y :: r => { y with tag := last.tag } :: r | [] => [])
  | [] =>
    let (s, l) := j.stageLines u 128 s (at_ done) bs
    put s l

/-- The combine requests of the staged lines of a row are sent (R302). -/
def Job.sendRow (j : Job) (s : State) (x : Option (Int × Bool)) (n staged : Nat) : Eio Done :=
  (j.combineAll [] (s.engine j.P j.e).staging [] s).then fun s sent =>
  let s := j.mod s fun z => { z with sending := !z.staging.isEmpty }
  (j.rowEnd s x n (stagedBytes sent) 0 (staged + (stagedBytes sent).length)).then fun s d => .ok s { d with sent }

/-- One step of a row of ST.RED of `n` bytes to an address (R302): its source bytes are staged, as far as 64 destination lines go, and
then their combine requests are sent. Lines that an abandoned attempt staged are sent again with their tags. What the step takes is the
bytes that it stages and those that it sends. -/
def Job.redRow (j : Job) (s : State) (x : Option (Int × Bool)) (src : Option Word) (u n : Nat) (b : Word) : Eio Done :=
  let y := s.engine j.P j.e
  let have_ := (stagedBytes y.staging).length
  let first := b + BitVec.ofNat 64 y.rowDone
  let whole := min (n - y.rowDone) ((4096 - first.toNat % 64) / u * u)
  if y.sending = false ∧ have_ < whole then
    let k := min (whole - have_) (match src with | some _ => whole | none => min j.cap (j.outBytes s).length / u * u)
    if k = 0 then .busy s
    else
      (j.source s 0 (src.map fun a => a + BitVec.ofNat 64 (y.rowDone + have_)) k false).then fun s d =>
      let s := j.mod (j.stageMore u (j.taken s src k) b d.raw) fun z => { z with rowIdx := x, sending := decide (have_ + k = whole), since := s.tick }
      let rest : Eio Done := .ok s { out := [], count := 0, took := k, more := true }
      if have_ = 0 ∧ k = whole ∧ 2 * k ≤ j.cap then
        match j.sendRow s x n k with
        | .ok t d => if (stagedBytes d.sent).length = k then .ok t d else rest
        | _ => rest
      else rest
  else j.sendRow s x n 0

/-- One step of an iteration of ST.RED (R301, R302). -/
def iterStRed (s : State) (j : Job) : Eio Done :=
  let u := max (unitOf j.cb.w0.fmt) 1
  let n := if j.cb.opa.getLsbD 8 then j.cb.rowBytes j.cb.w0.fmt else unitOf j.cb.w0.fmt
  j.atOrPort s j.cb.w0 n fun src =>
  if j.cb.opa.getLsbD 8 then
    (j.rowIndex s 2 false).then fun s (x, _) =>
    if j.cb.inRows x then j.at s j.cb.w1 (j.cb.rowOff x) n fun b => j.redRow s (some (x, false)) src u n b
    else if j.cb.opa.getLsbD 9 then j.moveRow s (some (x, false)) src n 1 fun s _ _ => .ok s []
    else j.fault s .badaddr (BitVec.ofInt 64 x)
  else j.at s j.cb.w1 0 n fun b => j.redRow s none src u n b

/-- ST_RED (R301). -/
def execStRed (P : TileId) (s : State) : Res := bodyStep s P .st 0x23 "ST_RED" iterStRed

/-! ### ST.MIGR (R303) -/

/-- The die of ST.MIGR. -/
def CB.migrDie (c : CB) : Nat := (c.opa.extractLsb' 8 3).toNat

/-- A line of a frame read under a KEYID, or the reason why not: poison, an empty key slot (R242), or a key outside HBM. -/
def State.migrRead (s : State) (d pa : Nat) (key : Byte) : State × Except Cause (List Byte) :=
  if !(s.die d).keyReady (keyLeaf key) then (s, .error .prot)
  else if key ≠ 0 ∧ !inHbm pa 64 then (s, .error .badaddr)
  else
    let (s, got) := s.readKeyed d pa 64 key
    match s.readOver (lineOf (gDie d pa)) got with
    | (s, .bytes l) => (s, .ok l)
    | (s, _) => (s, .error .poison)

/-- A whole line of a frame written under a KEYID with fresh counters, or the reason why not. -/
def State.migrWrite (s : State) (d pa : Nat) (key : Byte) (l : List Byte) : State × Put :=
  if !(s.die d).keyReady (keyLeaf key) then (s, .trap .prot)
  else if key ≠ 0 ∧ !inHbm pa 64 then (s, .trap .badaddr)
  else
    let (s, r) := s.writeDie d pa (keyLeaf key) l
    (s.wroteOver (lineOf (gDie d pa)), r)

/-- The copy is abandoned at a line: the result word, and a report to the die's supervisor with the CB, the line and the reason (R241,
R303, R412). -/
def Job.abandonCopy (j : Job) (s : State) (i : Nat) (why : Cause) : State :=
  let report : EventRec :=
    { seqno := 0, cause := 0, src := 7, ptile := BitVec.ofNat 10 (256 * j.cb.migrDie), ctx := (j.who s).ctx,
      val := BitVec.ofNat 64 (2 ^ 63 + why.code.toNat * 2 ^ 32 + i), loc := j.addr }
  let s := s.modDie j.cb.migrDie fun x => { x with reports := x.reports ++ [(report, s.tick)] }
  (j.mod s fun x => { x with result := BitVec.ofNat 64 (2 ^ 63 + i) }).endBody j.P j.e

/-- ST_MIGR (R303): one line for each iteration. A write past the last MAJOR of its page parks there (R248), and both replies carry the
die's clock (R386). (DESIGN CHOICE, log entry 50: the report of a failed copy.) -/
def execStMigr (P : TileId) (s : State) : Res :=
  match s.inBody P .st 0x24 with
  | none => notNow "ST_MIGR"
  | some j =>
    let i := j.idx.getD 0 0
    let d := j.cb.migrDie
    match s.migrRead d (j.cb.w0.base.toNat + 64 * i) (j.cb.opb.extractLsb' 0 8) with
    | (s, .error c) => .next (j.abandonCopy s i c)
    | (s, .ok l) =>
      let s := s.learnClock (some P) d
      match s.migrWrite d (j.cb.w1.base.toNat + 64 * i) (j.cb.opb.extractLsb' 8 8) l with
      | (s, .trap c) => .next (j.abandonCopy s i c)
      | (s, .park _) => .next (j.parkedAt s d (j.cb.w1.base + BitVec.ofNat 64 (64 * i)) .write)
      | (s, _) =>
        let s := s.learnClock (some P) d
        let s := j.mod s fun x => { x with result := j.cb.bnd[0].zeroExtend 64 }
        .next (j.advance s { out := l, count := 1 })

end Sys2Proof.Machine
end

