-- ==== Sys2Proof/Machine/EngineEvents.lean ====
section
/-! DEFINITION. The events of the engines: fetching a CB (R42), timed starts (R281), patch lists (R290 to R293), header signals (R287),
semaphore signals and grants (R103, R388), remote writes (R198, R287), barrier releases (R198) and leases (R90, R91). -/
namespace Sys2Proof.Machine

/-! ### CB_FETCH (R42) -/

/-- The slot and active bits of a tile's grid as the CBs ahead of a new one leave them (R328). -/
structure SlotView where
  full0  : Bool
  full1  : Bool
  active : Bool
deriving DecidableEq, Repr

/-- What one gr CB ahead does to them. -/
def SlotView.after (v : SlotView) (c : CB) : SlotView :=
  let one := c.opa.getLsbD 0
  match c.op.toNat with
  | 0x40 => if one then { v with full1 := true } else { v with full0 := true }
  | 0x42 => { v with active := if c.opa.getLsbD 1 then !v.active else one }
  | _ => v

/-- The view at the end of what the gr engine of tile P has fetched. -/
def State.slotView (s : State) (P : TileId) : SlotView :=
  let g := (s.tile P).grid
  let x := s.engine P .gr
  let running := match x.cur with
    | some f => if x.stage = .patch ∨ x.stage = .signal then [] else [f.cb]
    | none => []
  (running ++ x.ahead.map fun f => f.cb).foldl SlotView.after
    { full0 := g.slot0.isSome, full1 := g.slot1.isSome, active := g.active == 1 }

/-- A GR.RUN names a slot that is filled (R107, R328). -/
def SlotView.fills (v : SlotView) (c : CB) : Bool :=
  let one := if c.opa.getLsbD 1 then v.active else c.opa.getLsbD 0
  if one then v.full1 else v.full0

/-- The shape-and-stride entry of a Siphon CB (R356). -/
structure Shape where
  nexp  : Nat
  topk  : Nat
  norm  : Bool
  capen : Bool
  cap   : Nat
  srow  : Int
  sexp  : Int
  crow  : Nat
deriving DecidableEq, Repr

/-- The entry of 64 bytes, if it keeps to R356 for a score format's alignment. -/
def shapeOf (l : List Byte) (align : Nat) : Option Shape :=
  let sfl := fld l 3 1
  let x : Shape :=
    { nexp := fld l 0 2, topk := fld l 2 1, norm := sfl % 4 == 1, capen := sfl / 4 % 2 == 1, cap := fld l 4 4,
      srow := (bvf 32 l 8 4).toInt, sexp := (bvf 32 l 12 4).toInt, crow := fld l 16 4 }
  if 1 ≤ x.nexp ∧ x.nexp ≤ 1024 ∧ 1 ≤ x.topk ∧ x.topk ≤ 8 ∧ x.topk ≤ x.nexp ∧ sfl % 4 < 2 ∧ sfl < 8 ∧
      (if x.capen then 1 ≤ x.cap ∧ x.cap ≤ 1048576 else x.cap = 0) ∧ x.crow % 16 = 0 ∧ 16 * x.topk ≤ x.crow ∧
      x.srow % (align : Int) = 0 ∧ x.sexp % (align : Int) = 0 ∧ leNat ((l.drop 20).take 44) = 0 then some x
  else none

/-- The checks of a fetched CB that look at its tile and task (R27, R36, R108, R328, R356).
(DESIGN CHOICE, log entry 95: a window that breaks its form and names a refused virtual tile too.) -/
def State.checkCb (s : State) (P : TileId) (e : Eng) (addr : Word) (c : CB) : Option (Cause × Word) :=
  let (kmode, static) := match s.taskOf P with
    | some k => (k.image.kmode, k.static)
    | none => (false, false)
  let w := c.ringWin
  if c.formOk e kmode static = false then some (.cbformat, addr)
  else if c.rwin ≠ 0xFF ∧ tagOf w.base ≠ 0xF0 ∧ tagOf w.base ≠ 0xF1 then some (.cbformat, addr)
  else if c.rwin ≠ 0xFF ∧ (s.tileAt P w.base).isNone then some (.badaddr, w.base)
  else if c.rwin != 0xFF && (match s.tileAt P w.base with | some Q => (s.regionAt Q w.rgn).isNone | none => true) then
    some (.cbformat, addr)
  else if c.op = 0x41 ∧ (s.slotView P).fills c = false then some (.cbformat, addr)
  else none

/-- The CB that GCFG forms inside the gr engine (R204). -/
def gcfgCb (image : Word) (slot : BitVec 1) : CB :=
  { CB.zero with
    op := 0x40, flg := 0x10, wsem := 0xFF, ssem := 0xFF, rwin := 0xFF, opa := slot.zeroExtend 16, depth := 1,
    bnd := #v[1, 0, 0, 0, 0, 0], w0 := { Window.zero with base := image, fmt := 0x0F, rgn := 0xFFFF } }

/-- The address of entry S of the task's shape table, for a Siphon CB (R356). -/
def State.shapeAddr (s : State) (P : TileId) (c : CB) : Option Word :=
  match s.taskOf P with
  | some k =>
    let i := (c.opa.extractLsb' 0 8).toNat
    if i < k.image.nshape then some (k.image.shapetab + BitVec.ofNat 64 (64 * i)) else none
  | none => none

/-- What a fetch delivers: bytes, a fault, or nothing yet. -/
inductive FetchGot where
  | bytes (l : List Byte)
  | fault (c : Cause) (v : Word)
  | park
  | busy
deriving DecidableEq, Repr

/-- A read by an engine's fetch path: every non-resident page parks it (R42), and owner 5 serves none (R239). -/
def State.fetchBytes (s : State) (P : TileId) (e : Eng) (pkr va : Word) (n : Nat) : State × FetchGot :=
  if tagOf va = 0x00 ∧ ownerOf va = 5 then (s, .fault .badaddr va)
  else match State.readSpan (s.who P (engSrc e) pkr) false false (n / 64 + 2) s va n with
  | (s, l, none) => (s, .bytes l)
  | (s, _, some (a, .trap c)) => (s, .fault c a)
  | (s, _, some (a, .poison _)) => (s, .fault .poison (lineVa a))
  | (s, _, some (_, .busy)) => (s, .busy)
  | (s, _, some _) => (s, .park)

/-- A fetched CB takes its place: current, or behind those fetched before it. -/
def State.placeCb (s : State) (P : TileId) (e : Eng) (f : Fetched) : State :=
  let s := s.modEngine P e fun x => x.modHead fun c => { c with next := f.addr + 256, last := f.cb.last && f.fault.isNone }
  if (s.engine P e).cur.isNone then s.makeCurrent P e f
  else s.modEngine P e fun x => { x with ahead := x.ahead ++ [f] }

/-- The fetch of an engine's CB parks: a fetch ahead of the running CB is left until that CB has ended. -/
def State.fetchParks (s : State) (P : TileId) (e : Eng) (pkr va : Word) (kind : AccKind) : Eio Unit :=
  if (s.engine P e).cur.isSome then .busy s
  else .held ((s.parkAt (parkOwner va) (s.who P (engSrc e) pkr) va kind).modEngine P e fun x => { x with block := .parked })

/-- The CB's bytes have come: the shape entry of a Siphon CB is read, and the CB is checked. -/
def State.takeCb (s : State) (P : TileId) (e : Eng) (pkr addr : Word) (c : CB) : Eio Unit :=
  let place (s : State) (shape : List Byte) (fault : Option (Cause × Word)) : Eio Unit :=
    .ok (s.placeCb P e { addr, cb := c, shape, fault }) ()
  match s.checkCb P e addr c with
  | some f => place s [] (some f)
  | none =>
    if e = .rt ∧ 0x50 ≤ c.op.toNat then
      match s.shapeAddr P c with
      | none => place s [] (some (.cbformat, addr))
      | some va =>
        match s.fetchBytes P e pkr va 64 with
        | (s, .bytes l) =>
          let ok := (shapeOf l (if c.op = 0x50 then unitOf c.w0.fmt else 1)).isSome
          place s l (if ok then none else some (.cbformat, addr))
        | (s, .fault x v) => place s [] (some (x, v))
        | (s, .park) => s.fetchParks P e pkr va .read
        | (s, .busy) => .busy s
    else place s [] none

/-- Engine e of tile P has room for one CB more, and the CBs before it have been fetched without a fault. -/
def State.fetches (s : State) (P : TileId) (e : Eng) : Bool :=
  let x := s.engine P e
  let bad (f : Fetched) : Bool := f.fault.isSome
  s.engGo P e && !(s.tile P).stopped && (x.cur.isNone || decide (x.ahead.length < 4)) &&
  !(x.ahead.any bad) && !(x.cur.toList.any bad)

/-- The next CB of a chain is fetched once any patch gate is open. The value is what has been fetched. -/
def State.fetchCb (s : State) (P : TileId) (e : Eng) : Eio (List Byte) :=
  match (s.engine P e).queue with
  | [] => .busy s
  | c :: _ =>
    match s.fetchBytes P e c.pkr c.next 256 with
    | (s, .bytes l) =>
      let b := cbOf l
      if b.pg ∧ c.patch.toNat < b.pcnt.toNat then .busy s
      else (s.takeCb P e c.pkr c.next b).then fun s _ => .ok s []
    | (s, .fault z v) => .ok (s.placeCb P e { addr := c.next, cb := CB.zero, shape := [], fault := some (z, v) }) []
    | (s, .park) => (s.fetchParks P e c.pkr c.next .fetch).then fun s _ => .ok s []
    | (s, .busy) => .busy s

/-- The outcome of a fetch: an engine whose fetch waits goes on with what it has. -/
def Eio.fetched {α : Type} (r : Eio α) (s : State) : Res :=
  match r with
  | .ok s _ => .next s
  | .held s => .next s
  | .busy t => if t.io.outReqs.length ≠ s.io.outReqs.length then .next (s.withAsked t) else notNow "CB_FETCH"

/-- CB_FETCH (R42): a CB at most four ahead of the running one, once any patch gate is open. A fetch from virtual memory is compared under
PAIR: the two tiles fetch the same CB (R434). -/
def execCbFetch (P : TileId) (e : Eng) (s : State) : Res :=
  match (s.engine P e).queue with
  | [] => notNow "CB_FETCH"
  | c :: _ =>
    if !s.fetches P e || c.last then notNow "CB_FETCH"
    else match c.image with
      | some slot =>
        let b := gcfgCb c.head slot
        .next (s.placeCb P e { addr := c.head, cb := b, shape := [], fault := s.checkCb P e c.head b })
      | none =>
        let path := 8 + (engSrc e).toNat
        if s.isPair P = false ∨ s.outbound P c.next = false then (s.fetchCb P e).fetched s
        else if s.inCompare P path then notNow "CB_FETCH"
        else match s.fetchCb P e with
          | .busy t => (Eio.busy t : Eio Unit).fetched s
          | _ =>
            match s.pairGate P path [c.next.toNat] with
            | (s', .wait) => .next s'
            | (s', .mismatch) => .next (s'.pairMismatch P)
            | (s', .go L) =>
              match s'.fetchCb L e with
              | .ok s2 _ =>
                (match s2.follower L with
                 | some Q => if s2.fetches Q e then ((s2.fetchCb Q e).then fun s _ => .ok (s.lagEngine Q e) ()).fetched s2 else .next s2
                 | none => .next s2)
              | r => r.fetched s'

/-! ### TIMED_START (R281, R420, R421) -/

/-- The header wait of a CB can be acquired now. -/
def State.headerReady (s : State) (P : TileId) (c : CB) : Bool :=
  c.wsem == 0xFF || s.semReady P (c.wsem.truncate 6) (c.wcnt.zeroExtend 32)

/-- The header wait of a CB is acquired now, and its loop nest starts. -/
def State.takeHeader (s : State) (P : TileId) (e : Eng) (c : CB) (late : Nat) : State :=
  let s := if c.wsem = 0xFF then s else s.semTake P (c.wsem.truncate 6) (c.wcnt.zeroExtend 32)
  s.startBody P e late

/-- The task's slip count goes up (R421); of a PAIR or TWIN task one copy counts. -/
def State.countSlip (s : State) (P : TileId) : State :=
  if (s.tile P).copy || (s.tile P).trailing then s else s.modTaskOf P fun k => { k with slips := satAdd 32 k.slips 1 }

/-- Engine e of tile P raises SLIP at its CB (R281). -/
def State.raiseSlip (s : State) (P : TileId) (e : Eng) (f : Fetched) : State :=
  (s.modEngine P e fun x => { x with slipped := true }).raiseEng P e .slip f.addr f.addr

/-- A strict CB has missed its start tick. Against the region cycle counter it joins its copy's hold, or starts one and
raises SLIP; against TIME it raises SLIP (R420, R421). -/
def State.slip (s : State) (P : TileId) (e : Eng) (f : Fetched) : State :=
  let (held, first) := match s.taskOf P with
    | some k => (k.slipHold.any fun h => (s.tile h.1).copy == (s.tile P).copy, k.slipHold.isEmpty)
    | none => (false, true)
  if f.cb.tb then
    let s := s.settleRcc.modTaskOf P fun k => { k with slipHold := k.slipHold ++ [(P, e)] }
    let s := if first then s.modTaskOf P fun k => { k with slipSince := some 0, slipFrom := s.tick } else s
    if held then (s.modEngine P e fun x => { x with elastic := true }).askHeader P e
    else (s.countSlip P).raiseSlip P e f
  else (s.countSlip P).raiseSlip P e f

/-- The timed start of a trailing engine of a PAIR: it does what its leading engine has done at the same CB, a SLIP included, and neither
counts it nor holds the counter (R420, R421, R434). (DEDUCED, log entry 42: the trailing cluster follows the start of the leading one.) -/
def State.trailStart (s : State) (P : TileId) (e : Eng) (f : Fetched) : Res :=
  match s.twinTile P with
  | none => notNow "TIMED_START"
  | some L =>
    if s.progress L e == s.progress P e then
      (if (s.tile L).events.any fun v => v.src == engSrc e && v.cause == .slip then .next (s.raiseSlip P e f) else notNow "TIMED_START")
    else if s.headerReady P f.cb then .next (s.takeHeader P e f.cb (s.lateness P f.cb))
    else .next (s.askHeader P e)

/-- TIMED_START (R281). A CB on time acquires its wait in its start tick: when that tick has passed in one lapse of several
ticks, the base read TSTART in it. -/
def execTimedStart (P : TileId) (e : Eng) (s : State) : Res :=
  let x := s.engine P e
  match x.cur with
  | some f =>
    let base := s.sample P f.cb.tb
    if x.stage = .timed ∧ (s.tile P).trailing ∧ s.engReady P e then s.trailStart P e f
    else if x.stage ≠ .timed ∨ s.engGo P e = false ∨ base < f.cb.tstart.toNat then notNow "TIMED_START"
    else
      let ready := s.headerReady P f.cb
      if f.cb.strict ∧ (x.onTime = false ∨ ready = false) then .next (s.slip P e f)
      else if ready then
        let passed := x.onTime && decide (f.cb.tstart.toNat ≤ s.samplePrev P f.cb.tb)
        .next (s.takeHeader P e f.cb (if passed then 0 else s.lateness P f.cb))
      else .next (s.askHeader P e)
  | none => notNow "TIMED_START"

/-! ### PATCH_LIST (R290 to R293) -/

/-- A patch descriptor (R291). -/
structure Patch where
  toff  : Int
  foff  : Nat
  wid   : Nat
  skind : Nat
  clamp : Bool
  mult  : Nat
  src   : Word
  add   : Int
  max   : Nat
deriving DecidableEq, Repr

/-- The header of a patch list (R290), if it is well formed for a CB of engine e. -/
def patchHeader (l : List Byte) (e : Eng) : Option (Word × Eng × Nat) :=
  let thead := bvf 64 l 0 8
  let n := fld l 9 1
  match srcEng (BitVec.ofNat 3 (fld l 8 1 + 1)) with
  | some t =>
    if fld l 8 1 ≤ 4 ∧ n ≤ 8 ∧ leNat ((l.drop 10).take 22) = 0 ∧ (thead ≠ 0 ∨ t = e) then some (thead, t, n) else none
  | none => none

/-- A patch descriptor, if it is well formed (R291). `own` says that THEAD is 0.
(DEDUCED, log entry 49: a source that is not aligned is malformed.) -/
def patchOf (own : Bool) (l : List Byte) : Option Patch :=
  let wid := 2 ^ (fld l 3 1 % 4)
  let p : Patch :=
    { toff := (bvf 16 l 0 2).toInt, foff := fld l 2 1, wid, skind := fld l 4 1, clamp := fld l 5 1 == 1, mult := fld l 6 2,
      src := bvf 64 l 8 8, add := (bvf 64 l 16 8).toInt, max := fld l 24 4 }
  if (if own then 1 else 0) ≤ p.toff ∧ p.foff % wid = 0 ∧ p.foff + wid ≤ 256 ∧ fld l 3 1 < 4 ∧ p.skind ≤ 2 ∧ fld l 5 1 ≤ 1 ∧
      fld l 28 4 = 0 ∧ (p.skind = 2 → p.src = 0) ∧ (p.skind = 1 → p.src.toNat % 8 = 0) then some p
  else none

/-- The descriptors of a list: none when one is malformed. -/
def patchesOf (own : Bool) (l : List Byte) : Nat → Option (List Patch)
  | 0 => some []
  | n + 1 =>
    match patchOf own (l.take 32), patchesOf own (l.drop 32) n with
    | some p, some r => some (p :: r)
    | _, _ => none

/-- Bytes that step 4 reads: faults, parks and poison go as for a control-core load (R292, R440). -/
def Job.stepRead (j : Job) (s : State) (va : Word) (n : Nat) (zf : Bool) : Eio (List Byte) :=
  match State.readSpan (j.who s) zf false (n / 64 + 2) s va n with
  | (s, l, none) => .ok s l
  | (s, _, some (_, .zero)) => .ok (s.setResfEng j.P) (List.replicate n 0)
  | (s, _, some (a, .park _)) => j.parks s a .read
  | (s, _, some (a, .trap c)) => j.fault s c a
  | (s, _, some (a, .poison _)) => j.fault s .poison (lineVa a)
  | (s, _, some _) => .busy s

/-- The source value of a descriptor (R292). -/
def Job.patchValue (j : Job) (s : State) (p : Patch) : Eio Nat :=
  if p.skind = 0 then .ok s p.src.toNat
  else if p.skind = 2 then .ok s (s.engine j.P j.e).result.toNat
  else match s.localCheck j.P p.src 8 with
    | some c => j.fault s c p.src
    | none => (j.stepRead s p.src 8 true).then fun s l => .ok s (leNat l)

/-- The source values of all descriptors, in order. -/
def Job.patchValues (j : Job) : List Patch → State → Eio (List Nat)
  | [], s => .ok s []
  | p :: r, s => (j.patchValue s p).then fun s v => (Job.patchValues j r s).then fun s l => .ok s (v :: l)

/-- The value that a descriptor stores, or none for PATCHOOR (R292). -/
def Patch.result (p : Patch) (v : Nat) : Option Nat :=
  let w := if p.max < v then (if p.clamp then some p.max else none) else some v
  w.map fun v => (((v * p.mult : Nat) : Int) + p.add) % (2 ^ (8 * p.wid) : Int) |>.toNat

/-- One store of step 4, which may have to wait for its tile's unacknowledged bytes (R198), and carries a tag over a link (R394). A
non-resident page parks it. -/
def Job.patchStore (j : Job) (s : State) (va : Word) (n x : Nat) : Eio Unit :=
  if j.mute && s.outbound j.P va then .ok s ()
  else if s.limited j.P va n then .busy s
  else match s.writeTagged j.P va fun s => s.writeVa (j.who s) va (leBytes n x) false with
    | (s, .done, _) => .ok s ()
    | (s, .trap c, _) => j.fault s c va
    | (s, .busy, _) => .busy s
    | (s, _, _) => j.parks s va .write

/-- The stores of step 4 in order, after each has been found possible. -/
def Job.patchStores (j : Job) (l : List (Word × Nat × Nat)) (s : State) : Eio Unit :=
  let try_ := l.foldl (fun (r : Eio Unit) (x : Word × Nat × Nat) =>
    match r with
    | .ok _ () => (match j.patchStore s x.1 x.2.1 x.2.2 with | .ok _ () => r | b => b)
    | b => b) (.ok s ())
  match try_ with
  | .ok _ () => l.foldl (fun r x => r.then fun s _ => j.patchStore s x.1 x.2.1 x.2.2) (.ok s ())
  | b => b

/-- The patch counter of the target chain goes up, or the engine waits for that chain (R43, R293). What the stores follow, the CBs
that they ungate follow too (R387). -/
def Job.patchCount (j : Job) (s : State) (thead : Word) (t : Eng) : State :=
  let need := s.needOf (agentOf j.P j.e)
  let up (c : Chain) : Chain := { c with patch := satAdd 16 c.patch 1, need := clockMax c.need need }
  let s := j.mod s fun x => { x with patched := true }
  let finish (s : State) : State := j.mod s fun x => { x with stage := .signal, block := .none }
  if thead = 0 then finish (j.mod s fun x => x.modHead up)
  else match (s.engine j.P t).queue.find? fun c => c.head == thead with
    | some c =>
      finish (s.modEngine j.P t fun x => { x with queue := x.queue.map fun d => if d.num = c.num then up d else d })
    | none => j.mod s fun x => { x with block := .patchTarget thead t }

/-- Step 4 of R44 (R292). -/
def Job.patchList (j : Job) (s : State) : Eio (List Nat) :=
  (j.stepRead s j.cb.plist 32 false).then fun s h =>
  match patchHeader h j.e with
  | none => j.fault s .cbformat j.addr
  | some (thead, t, n) =>
    (j.stepRead s (j.cb.plist + 32) (32 * n) false).then fun s l =>
    match patchesOf (thead == 0) l n with
    | none => j.fault s .cbformat j.addr
    | some ps =>
      (j.patchValues ps s).then fun s vs =>
      let xs := ps.zip (vs.zip (List.range n))
      match xs.find? fun x => (x.1.result x.2.1).isNone with
      | some x => j.fault s .patchoor (j.cb.plist + BitVec.ofNat 64 (32 + 32 * x.2.2))
      | none =>
        let base := if thead = 0 then j.addr else thead
        let stores := xs.map fun x =>
          (base + BitVec.ofInt 64 (256 * x.1.toff + x.1.foff), x.1.wid, (x.1.result x.2.1).getD 0)
        (j.patchStores stores s).then fun s _ =>
        .ok (j.patchCount s thead t) (stores.flatMap fun x => [x.1.toNat, x.2.1, x.2.2])

/-- PATCH_LIST (R292): once every write of the CB's loop nest has been performed. -/
def execPatchList (P : TileId) (e : Eng) (s : State) : Res :=
  match s.job P e with
  | none => notNow "PATCH_LIST"
  | some j =>
    if (s.engine P e).stage ≠ .patch ∨ s.unacked P e then notNow "PATCH_LIST"
    else match (s.engine P e).block with
      | .patchTarget h t =>
        if (s.engine P t).queue.any fun c => c.head == h then .next (j.patchCount s h t) else notNow "PATCH_LIST"
      | _ =>
        let run (s : State) (P : TileId) (lead : Option (List Nat)) : Eio (List Nat) :=
          match s.job P e with
          | some j => { j with mute := lead.isSome }.patchList (j.mod s fun x => { x with block := .none })
          | none => .busy s
        if tagOf j.cb.plist = 0x00 ∨ tagOf j.addr = 0x00 then
          pairedEng s P e "PATCH_LIST" [j.addr.toNat, j.cb.plist.toNat] [] (fun a b => a == b) run
        else (run s P none).toRes s P e "PATCH_LIST"

/-! ### HEADER_SIGNAL (R28, R44, R287) -/

/-- Some window of the CB asks for a residency report. -/
def CB.reports (c : CB) : Bool := c.w0.resr || c.w1.resr || c.w2.resr

/-- Step 5: RESW. -/
def Job.writeResw (j : Job) (s : State) : Eio Unit :=
  if j.cb.reports = false then .ok s ()
  else j.patchStore s (j.addr + 0xFC) 4 (s.engine j.P j.e).resw.toNat

/-- The Siphon is free again after an rt CB that it ran (R354). -/
def Job.freeSiphon (j : Job) (s : State) : State :=
  if j.e = .rt ∧ 4 ≤ j.cb.op.toNat then
    s.modDie (dieOf j.P) fun x =>
      if x.siphon.serving = some j.P then { x with siphon := { x.siphon with serving := none, last := j.P } } else x
  else s

/-- Steps 5 and 6: RESW, then the signal, and the CB is complete. -/
def Job.signal (j : Job) (s : State) : Eio Unit :=
  (j.writeResw s).then fun s _ =>
  let m := j.cb.sobs.extractLsb' 0 6
  let s := if j.cb.ssem = 0xFF then s.release (agentOf j.P j.e) m
    else s.signal (agentOf j.P j.e) m j.P (j.cb.ssem.truncate 6) (j.cb.scnt.zeroExtend 32)
  .ok ((j.freeSiphon s).completeCb j.P j.e) ()

/-- HEADER_SIGNAL (R287): once every write of the CB has been acknowledged. -/
def execHeaderSignal (P : TileId) (e : Eng) (s : State) : Res :=
  match s.job P e with
  | none => notNow "HEADER_SIGNAL"
  | some j =>
    if (s.engine P e).stage ≠ .signal ∨ s.unacked P e then notNow "HEADER_SIGNAL"
    else
      let run (s : State) (P : TileId) (lead : Option Unit) : Eio Unit :=
        match s.job P e with
        | some j => { j with mute := lead.isSome }.signal (j.mod s fun x => { x with block := .none })
        | none => .busy s
      if j.cb.reports ∧ tagOf j.addr = 0x00 then
        pairedEng s P e "HEADER_SIGNAL" [j.addr.toNat, (s.engine P e).resw.toNat] () (fun _ _ => true) run
      else (run s P none).toRes s P e "HEADER_SIGNAL"

/-! ### Semaphores (R103, R388) -/

/-- SEM_SIGNAL (R103): a signal from outside the tile reaches the file. `reach` says that its release mask reaches the tile's
waiters (R388). -/
def execSemSignal (P : TileId) (n : BitVec 6) (c : BitVec 32) (reach : Bool) (s : State) : Res :=
  .next (s.signal .launch (if reach then 0x08 else 0) P n c)

/-- A ring-slot wait can be met: its slot is not refetch-pending (R443). -/
def State.slotFree (s : State) (T : TileId) (e : Eng) : Bool :=
  match s.job T e, (s.engine T e).cur with
  | some _, _ => true
  | none, none => false
  | none, some f =>
    let j : Job := { P := T, e, cb := f.cb, addr := f.addr, idx := [], mode := Mode.rne, pkr := 0, mute := false, gather := false }
    match j.ringPlace s with
    | some (_, _, g) =>
      let slot := g.desc.slotOf (if f.cb.consumes then g.c else g.f)
      !g.pending.getLsbD slot.toNat
    | none => true

/-- The job of an engine that waits for a ring slot. -/
def State.ringJob (s : State) (T : TileId) (e : Eng) : Option Job :=
  let x := s.engine T e
  match x.cur, x.queue with
  | some f, c :: _ =>
    if x.block = .ring then
      some { P := T, e, cb := f.cb, addr := f.addr, idx := x.idx.toList.map BitVec.toNat, mode := Mode.of c.mode,
             pkr := c.pkr, mute := false, gather := false }
    else none
  | _, _ => none

/-- SEM_WAIT_GRANT (R194, R388): the head of a semaphore's queue is met. A core's wait is met no later than in the tick in which it
expires. -/
def execSemWaitGrant (P : TileId) (n : BitVec 6) (s : State) : Res :=
  match (s.tile P).semHead n with
  | none => notNow "SEM_WAIT_GRANT"
  | some w =>
    if (s.sem P n).toNat < w.count.toNat then notNow "SEM_WAIT_GRANT"
    else match w.who with
      | .core => if (s.tile P).stopped ∨ s.waitOver P then notNow "SEM_WAIT_GRANT" else .next (s.grantCore P n w.count)
      | .header e =>
        if s.engGo P e = false ∨ (s.engine P e).stage ≠ .header then notNow "SEM_WAIT_GRANT"
        else match (s.engine P e).cur with
          | some f => .next (((s.semLeave P (.header e)).semTake P n w.count).startBody P e (s.lateness P f.cb))
          | none => notNow "SEM_WAIT_GRANT"
      | .ring T e =>
        if (s.tile T).stopped ∨ s.slotFree T e = false then notNow "SEM_WAIT_GRANT"
        else match s.ringJob T e with
          | some j => .next (j.takeSlot (((s.semLeave P (.ring T e)).semTake P n w.count).acquireSem (agentOf T e) P n))
          | none => notNow "SEM_WAIT_GRANT"

/-! ### Remote writes and barriers (R198, R287) -/

/-- The remote writes of an engine that have not arrived are abandoned (R285). -/
def State.dropWrites (s : State) (P : TileId) (e : Eng) : State :=
  let mine (x : Transit) : Bool := x.tile == P && x.eng == e && !x.arrived
  let s' := (s.transit.filter mine).foldl State.ackWrite s
  { s' with transit := s'.transit.filter fun x => !mine x }

/-- REMOTE_WRITE_ARRIVAL (R287): the k-th write on its way arrives, after the earlier ones of its engine to that tile. One that raises
BADADDR there stops its CB at its iteration, and the later ones are abandoned (R31, R285). -/
def execRemoteWriteArrival (k : Nat) (s : State) : Res :=
  match s.transit[k]? with
  | none => notNow "REMOTE_WRITE_ARRIVAL"
  | some x =>
    let before := (s.transit.take k).any fun y => y.tile == x.tile && y.eng == x.eng && y.target == x.target && !y.arrived
    if x.arrived ∨ before then notNow "REMOTE_WRITE_ARRIVAL"
    else
      let t := s.arriveWrite x (s.engine x.tile x.eng).doneIters
      .next (if (s.strayPiece x).isNone then { t with transit := t.transit.set k { x with arrived := true } } else t.dropWrites x.tile x.eng)

/-- REMOTE_WRITE_ACK (R198): the acknowledgement of an arrived write returns. -/
def execRemoteWriteAck (k : Nat) (s : State) : Res :=
  match s.transit[k]? with
  | none => notNow "REMOTE_WRITE_ACK"
  | some x =>
    if x.arrived then .next ({ s with transit := s.transit.eraseIdx k }.ackWrite x) else notNow "REMOTE_WRITE_ACK"

/-- BARRIER_RELEASE (R198). (DESIGN CHOICE, log entry 85: a release reaches every waiter of its unit in one step.) -/
def execBarrierRelease (u : BarKey) (s : State) : Res :=
  match s.task? (barTask u) with
  | none => notNow "BARRIER_RELEASE"
  | some k =>
    if (k.barUnit u).due ∧ k.state = .running then
      let s := s.setTask (barTask u) (k.setBar u (k.barUnit u).released)
      .next (s.eachTile k.tiles fun s P => s.barReach u P)
    else notNow "BARRIER_RELEASE"

/-! ### Leases (R90, R91, R310) -/

/-- The header wait of the current CB of tile P's mx engine can be acquired: it heads its semaphore's queue, and the count suffices. -/
def State.headsQueue (s : State) (P : TileId) (c : CB) : Bool :=
  match (s.tile P).semHead (c.wsem.truncate 6) with
  | some w => w.who == .header .mx && decide (w.count.toNat ≤ (s.sem P (c.wsem.truncate 6)).toNat)
  | none => false

/-- The head CB of tile P's mx engine is ready: any timed start has passed, its header wait is acquired or can be, and no plane that it
names is being loaded (R90, R310). -/
def State.mxReady (s : State) (P : TileId) : Bool :=
  match s.job P .mx with
  | some j =>
    !s.planeBusy P j.cb &&
    (match (s.engine P .mx).stage with
     | .body => true
     | .header => s.headsQueue P j.cb
     | .timed => decide (j.cb.tstart.toNat ≤ s.sample P j.cb.tb) && s.headerReady P j.cb
     | _ => false)
  | none => false

/-- A CB whose step 2 runs under the lease (R319). -/
def CB.leased (c : CB) : Bool := decide (4 ≤ c.op.toNat) && !c.zeroTrip

/-- The mx engine of tile P has a ready CB whose step 2 needs the lease (R90, R319). -/
def State.leaseReady (s : State) (P : TileId) : Bool :=
  s.mxReady P && (match (s.engine P .mx).cur with | some f => f.cb.leased | none => false)

/-- A CB of tile P's mx engine is running, whose steps are not over (R44). With `under` only one that runs under the lease counts. One
that has raised a cause does not run: its lease ends as at a CHKILL (R321). -/
def State.mxRuns (s : State) (P : TileId) (under : Bool) : Bool :=
  let x := s.engine P .mx
  (match x.cur with
   | some f => !under || f.cb.leased
   | none => false) &&
  decide (x.block ≠ .event) && (decide (x.stage = .body ∧ x.started = true) || decide (x.stage = .patch ∨ x.stage = .signal))

/-- The tile at a position of a quad. -/
def tileIn (g : Nat) (t : BitVec 2) : TileId := BitVec.ofNat 10 (4 * g + t.toNat)

/-- LEASE_REQUEST (R90): an idle array grants it at its next tick (R91). -/
def execLeaseRequest (P : TileId) (s : State) : Res :=
  let q := s.quad (quadOf P)
  if s.leaseReady P = false ∨ s.hasLease P ∨ q.wantsBy (posOf P) then notNow "LEASE_REQUEST"
  else match q.lease with
    | .idle => .next (s.modQuad (quadOf P) fun q => q.grant (posOf P) (s.tick + 1))
    | _ =>
      let s := s.modQuad (quadOf P) fun q => { q with wants := q.wants ||| posBit (posOf P) }
      .next (s.modEngine P .mx fun x => { x with readySince := some s.tick })

/-- The holder's lease ends; a renewal keeps it (R91). -/
def State.leaseEnds (s : State) (g : Nat) (h : BitVec 2) : State :=
  let P := tileIn g h
  let still := s.leaseReady P
  let s := s.modQuad g fun q => q.endLease h still s.tick
  if still ∧ s.hasLease P = false then s.modEngine P .mx fun x => { x with readySince := some s.tick } else s

/-- LEASE_END (R90, R321): LEASEQ CBs are done, a yield was asked for, or the holder runs no CB and has none ready. -/
def execLeaseEnd (g : BitVec 8) (s : State) : Res :=
  match (s.quad g.toNat).lease with
  | .held h _ n =>
    let P := tileIn g.toNat h
    let spent := decide ((s.core P).leaseq.toNat ≤ n) || (s.quad g.toNat).yield
    if s.mxRuns P true then notNow "LEASE_END"
    else if spent || !(s.mxReady P || s.mxRuns P false) then .next (s.leaseEnds g.toNat h)
    else notNow "LEASE_END"
  | _ => notNow "LEASE_END"

/-- LEASE_TIMEOUT (R90): 65,536 ticks after the grant, at an iteration boundary. -/
def execLeaseTimeout (g : BitVec 8) (s : State) : Res :=
  match (s.quad g.toNat).lease with
  | .held h t _ =>
    if s.passed (g.toNat / 64) t 65536 then .next (s.leaseEnds g.toNat h)
    else notNow "LEASE_TIMEOUT"
  | _ => notNow "LEASE_TIMEOUT"

/-- LEASE_HANDOVER (R91): eight ticks after a lease's end the next position is granted, if it still asks. -/
def execLeaseHandover (g : BitVec 8) (s : State) : Res :=
  match (s.quad g.toNat).lease with
  | .switch t since =>
    if s.passed (g.toNat / 64) since 8 then
      let q := s.quad g.toNat
      if q.wantsBy t then
        .next ((s.modQuad g.toNat fun q => q.grant t s.tick).countWait (tileIn g.toNat t))
      else .next (s.modQuad g.toNat fun q =>
        match q.nextWant t with
        | some u => { q with lease := .switch u s.tick }
        | none => { q with lease := .idle })
    else notNow "LEASE_HANDOVER"
  | _ => notNow "LEASE_HANDOVER"

end Sys2Proof.Machine
end

