-- ==== Sys2Proof/Machine/Reals.lean ====
section
/-! DEFINITION. Exact results beyond sums and products (R342, R343, R347, R348): reciprocals, square roots, powers of two and
logarithms, each with as many bits as any rounding of R259 looks at and one more that says whether anything lies below. -/
namespace Sys2Proof.Machine

/-- floor(√n), built from bit k − 1 down. -/
def isqrtFrom (n : Nat) : Nat → Nat → Nat
  | 0, r => r
  | k + 1, r => isqrtFrom n k (if (r + 2 ^ k) * (r + 2 ^ k) ≤ n then r + 2 ^ k else r)
/-- floor(√n). -/
def isqrt (n : Nat) : Nat := isqrtFrom n (Nat.log2 n / 2 + 1) 0

/-- The value q · 2^e, or one just above it when `exact` is false. -/
def Val.sticky (neg : Bool) (q : Nat) (e : Int) (exact : Bool) : Val := .fin neg (2 * q + (if exact then 0 else 1)) (e - 1)

/-- A scale that no format's range needs, bounded so that it can be computed: beyond it every rounding gives the same. -/
def nearScale (k : Int) : Int := max (-4000) (min 4000 k)

/-- 1 / a for a finite non-zero a. -/
def Val.recip : Val → Val
  | .fin s m e => .sticky s (2 ^ 192 / m) (-e - 192) (decide (2 ^ 192 % m = 0))
  | v => v

/-- 1 / √a for a finite positive a. -/
def Val.rsqrt : Val → Val
  | .fin _ m e =>
    let (m, e) := if e % 2 = 0 then (m, e) else (2 * m, e - 1)
    let q := isqrt (2 ^ 384 / m)
    .sticky false q (-(e / 2) - 192) (decide (q * q * m = 2 ^ 384))
  | v => v

/-- 2^f · 2^320 for the `n`-bit fraction f, from its lowest bit up. -/
def exp2Frac (f : Nat) : Nat → Nat → Nat → Nat
  | 0, _, y => y
  | n + 1, k, y => exp2Frac f n (k + 1) (isqrt (y * 2 ^ 320 * (if f.testBit k then 2 else 1)))

/-- 2^a for a finite a. -/
def Val.exp2 : Val → Val
  | .fin s m e =>
    if 0 ≤ e then
      let i : Int := if 4000 < m * 2 ^ (min e.toNat 12) then 4000 else m * 2 ^ (min e.toNat 12)
      .fin false 1 (if s then -i else i)
    else
      let n := (-e).toNat
      let t : Int := if s then -(m : Int) else m
      let i := nearScale (t / (2 ^ n : Nat))
      let f := (t % (2 ^ n : Nat)).toNat
      if f = 0 then .fin false 1 i else .sticky false (exp2Frac f n 0 (2 ^ 320)) (i - 320) false
  | v => v

/-- The first `n` bits of log2 of x / 2^512, for x from 2^512 up to 2^513, below the bits of `acc`. -/
def log2Bits : Nat → Nat → Nat → Nat
  | 0, _, acc => acc
  | n + 1, x, acc =>
    let y := x * x / 2 ^ 512
    if 2 ^ 513 ≤ y then log2Bits n (y / 2) (2 * acc + 1) else log2Bits n y (2 * acc)

/-- log2 a for a finite positive a. -/
def Val.logTwo : Val → Val
  | .fin _ m e =>
    let l := Nat.log2 m
    if m = 2 ^ l then .ofInt (e + l)
    else
      let t : Int := (e + l) * 2 ^ 192 + log2Bits 192 (m * 2 ^ 512 / 2 ^ l) 0
      let u := 2 * t + 1
      .fin (decide (u < 0)) u.natAbs (-193)
  | v => v

/-- a + b, where an exact zero of operands of opposite sign takes the sign that the rounding direction gives (R341). -/
def Val.addDir (down : Bool) (a b : Val) : Val :=
  match a.add b with
  | .fin s 0 e => .fin (if a.neg == b.neg then s else down) 0 e
  | v => v

/-- The exact sum of many values (R349, R350): the first NaN; ∞ − ∞ is a NaN. -/
def Val.sum (down : Bool) (l : List Val) : Val :=
  match firstNaN l with
  | some v => v
  | none =>
    match l with
    | [] => .fin false 0 0
    | a :: r =>
      match r.foldl Val.add a with
      | .fin s 0 e => .fin (if r.all fun b => b.neg == a.neg then s else down) 0 e
      | v => v

/-- The smaller or the larger of two values with −0 below +0, NaN operands first. -/
def Val.pick (larger : Bool) (a b : Val) : Val :=
  match firstNaN [a, b] with
  | some v => v
  | none => if larger then (if a.below b then b else a) else (if b.below a then b else a)

end Sys2Proof.Machine
end

