-- ==== Sys2Proof/Machine/Fabric.lean ====
section
/-! DEFINITION. Fabric elements: the fields of a slot and which of them GR.CFG accepts (R124 to R130, R132, R326), the lanes and
element rules of R341, and the X and Y operations (R342 to R348). -/
namespace Sys2Proof.Machine

/-! ### Slots (R124 to R130) -/

/-- The opcode and the fields of a 42-bit slot (R124). -/
def slotOf (w : BitVec 42) : Byte × SlotArgs :=
  (w.extractLsb' 34 8, { dst := w.extractLsb' 30 4, a := w.extractLsb' 26 4, b := w.extractLsb' 22 4, c := w.extractLsb' 18 4,
                         pred := w.extractLsb' 15 3, typ := w.extractLsb' 12 3, imm := w.extractLsb' 0 12 })
/-- The 42 bits of a slot. -/
def slotBits (op : Byte) (o : SlotArgs) : BitVec 42 := op ++ o.dst ++ o.a ++ o.b ++ o.c ++ o.pred ++ o.typ ++ o.imm
/-- The place of a family's slot in a bundle (R124). -/
def slotBase (fam : Nat) : Nat := if fam = 0 then 86 else if fam = 1 then 44 else 2
/-- The slot of a family (0 X, 1 Y, 2 Z) of a bundle. -/
def slotIn (w : BitVec 128) (fam : Nat) : BitVec 42 := if fam = 0 then w.extractLsb' 86 42 else if fam = 1 then w.extractLsb' 44 42 else w.extractLsb' 2 42
/-- END of a bundle. -/
def bundleEnd (w : BitVec 128) : Bool := w.getLsbD 0

/-- The element format of a lane type (R127). -/
def laneFmt (typ : BitVec 3) (n32 : Bool) : Fmt :=
  match typ.toNat with
  | 0 => .fl fp32 | 1 => .fl fp16 | 2 => .fl bf16 | 3 => .int 32 (!n32) | 4 => .int 16 true | 5 => .int 8 true
  | 6 => .int 16 false | _ => .int 8 false

end Sys2Proof.Machine

namespace Sys2Proof

open Machine

/-- The element format of a slot. -/
def SlotArgs.fmt (o : SlotArgs) : Fmt := laneFmt o.typ (o.imm.getLsbD 11)
/-- The source format of CVT (R346). -/
def SlotArgs.cvtSrc (o : SlotArgs) : Fmt := laneFmt (o.imm.extractLsb' 0 3) (o.imm.getLsbD 3)
/-- A floating-point lane type. -/
def SlotArgs.isFl (o : SlotArgs) : Bool := decide (o.typ.toNat < 3)
/-- SEL of a compare: 0 with one element for each lane (R345). -/
def SlotArgs.selOk (o : SlotArgs) (sel : BitVec 2) : Bool := sel == 0 || (o.typ != 0 && o.typ != 3)

/-- The floating-point format of a slot. -/
def SlotArgs.flt (o : SlotArgs) : FloatFmt := if o.typ = 0 then fp32 else if o.typ = 1 then fp16 else bf16

/-- The bits and signedness of an integer lane type. -/
def SlotArgs.intTy (o : SlotArgs) : Nat × Bool :=
  match o.fmt with
  | .int n sg => (n, sg)
  | f => (f.width, false)

end Sys2Proof

namespace Sys2Proof.Machine

/-- A check of a slot: the lowest of its bits that would fail it, and whether it holds (R132). -/
abbrev SlotCheck := Nat × Bool

/-- The bits of a field at `p` must be 0. -/
def zeroBits {n : Nat} (p : Nat) (x : BitVec n) : SlotCheck := (p + ((List.range n).find? x.getLsbD).getD 0, x == 0)
/-- The field dst must be 0. -/
def noDst (o : SlotArgs) : SlotCheck := zeroBits 30 o.dst
/-- The field a must be 0. -/
def noA (o : SlotArgs) : SlotCheck := zeroBits 26 o.a
/-- The field b must be 0. -/
def noB (o : SlotArgs) : SlotCheck := zeroBits 22 o.b
/-- The field c must be 0. -/
def noC (o : SlotArgs) : SlotCheck := zeroBits 18 o.c
/-- A predicate operand at `p` names q0 to q3. -/
def predAt (p : Nat) (x : BitVec 4) : SlotCheck := zeroBits (p + 2) (x.extractLsb' 2 2)
/-- The operation accepts the lane type. -/
def typed (ok : Bool) : SlotCheck := (12, ok)
/-- No bit of imm12 is set outside a mask, but [11] with type 3. -/
def immIn (o : SlotArgs) (m : BitVec 12) : SlotCheck := zeroBits 0 (o.imm &&& ~~~ (m ||| if o.typ = 3 then 0x800 else 0))
/-- imm12 must be 0. -/
def noImm (o : SlotArgs) : SlotCheck := zeroBits 0 o.imm

/-- What GR.CFG checks in CVT and CVTSR (R346). -/
def cvtChecks (o : SlotArgs) : List SlotCheck :=
  let d := o.fmt
  let s := o.cvtSrc
  let narrow := decide (s.width = 2 * d.width)
  let widen := decide (d.width = 2 * s.width)
  [immIn o 0x1F, (3, o.imm.extractLsb' 0 3 == 3 || !o.imm.getLsbD 3), (0, s != d && (decide (s.width = d.width) || narrow || widen)), noC o,
   if narrow then typed true else noB o, (4, widen || !o.imm.getLsbD 4)]

/-- What GR.CFG checks in an X slot (R132, R342, R344). -/
def xChecks (op : Byte) (o : SlotArgs) : List SlotCheck :=
  match op.toNat with
  | 1 | 2 | 3 | 7 | 8 | 9 => [typed o.isFl, noImm o, noC o]
  | 4 | 5 | 6 => [typed o.isFl, noImm o]
  | 10 | 11 | 12 | 13 => [typed o.isFl, noImm o, noB o, noC o]
  | 14 | 15 | 16 => [typed !o.isFl, immIn o 1, noC o]
  | 17 => [typed !o.isFl, immIn o 1]
  | 18 | 19 | 20 => [typed !o.isFl, immIn o 0, noC o]
  | 21 => [typed (o.typ == 3 || o.typ == 4 || o.typ == 5), zeroBits 0 (o.imm &&& 0xFFE), noB o, noC o]
  | 22 => [typed (o.typ == 5 || o.typ == 7), immIn o 1]
  | 23 => [typed (o.typ == 1 || o.typ == 2), noImm o]
  | _ => [(34, false)]

/-- What GR.CFG checks in a Y slot (R132, R345 to R348). -/
def yChecks (op : Byte) (o : SlotArgs) : List SlotCheck :=
  match op.toNat with
  | 1 | 2 | 3 => [immIn o 0, noC o]
  | 4 | 5 | 6 =>
    [typed !o.isFl, immIn o 0x3F, noC o, if o.imm.getLsbD 5 then noB o else zeroBits 0 (o.imm.extractLsb' 0 5)]
  | 7 => [typed o.isFl, predAt 30 o.dst, noC o, immIn o 0x1F, (3, o.selOk (o.imm.extractLsb' 3 2))]
  | 8 =>
    [typed !o.isFl, predAt 30 o.dst, noC o, immIn o 0x1F, (0, decide ((o.imm.extractLsb' 0 3).toNat < 6)),
     (3, o.selOk (o.imm.extractLsb' 3 2))]
  | 9 => [predAt 18 o.c, immIn o 0]
  | 10 => [immIn o 0, noB o, noC o]
  | 11 =>
    [noA o, noB o, noC o,
     (8, if o.typ = 5 then o.imm.extractLsb' 8 4 == (if o.imm.getLsbD 7 then 0xF else 0)
         else o.typ != 7 || o.imm.extractLsb' 8 4 == 0)]
  | 12 | 13 => cvtChecks o
  | 14 => [typed (o.typ == 0), noC o, (0, o.imm.extractLsb' 0 3 != 7), immIn o 0x1F]
  | 15 => [typed o.isFl, noImm o, noB o, noC o]
  | 16 => [typed o.isFl, noImm o, noC o]
  | 17 => [typed o.isFl, predAt 30 o.dst, noB o, noC o, (10, o.selOk (o.imm.extractLsb' 10 2))]
  | 18 => [typed (o.typ == 0), predAt 30 o.dst, predAt 26 o.a, predAt 22 o.b, noC o, immIn o 0xF]
  | 19 => [typed (o.typ == 3), noA o, noB o, noC o]
  | 20 => [typed (o.typ == 3), (11, o.imm.getLsbD 11), zeroBits 0 (o.imm &&& 0x7FF), noA o, noB o, noC o]
  | 21 => [typed (o.typ == 0), predAt 30 o.dst, noA o, noB o, noC o, immIn o 0xF]
  | _ => [(34, false)]

/-- What GR.CFG checks in a Z slot (R132, R326, R349, R350). -/
def zChecks (op : Byte) (o : SlotArgs) : List SlotCheck :=
  let f := o.imm.extractLsb' 0 3
  match op.toNat with
  | 1 => [typed (o.typ == 0), noDst o, noB o, noC o, immIn o 0xF, (0, o.imm != 0)]
  | 2 => [typed (o.typ == 0), noA o, noB o, noC o, immIn o 3]
  | 3 => [typed (o.typ == 0), noA o, noB o, noC o, immIn o 7, (0, o.imm.getLsbD 2 || o.imm &&& 3 == 0)]
  | 4 => [typed (o.typ == 0), noDst o, noB o, noC o, noImm o]
  | 5 =>
    [typed (o.typ == 0 || o.typ == 3), noB o, noC o, immIn o 0x1F, (0, f != 7 && (f != 3 || o.typ == 0)),
     (4, !o.imm.getLsbD 4 || (f == 0 && o.typ == 3))]
  | 6 => [typed (o.typ == 0), noC o, immIn o 0x3F, if o.imm.getLsbD 5 then zeroBits 0 (o.imm.extractLsb' 0 5) else noB o]
  | 7 => [typed (o.typ == 0), noB o, noC o, immIn o 7]
  | 8 => [typed (o.typ == 0), noA o, noB o, noC o, immIn o 0x3FF]
  | 9 =>
    [typed (o.typ == 0 || o.typ == 3), noB o, noC o, immIn o 7, (0, o.imm.extractLsb' 0 2 != 3),
     (2, !o.imm.getLsbD 2 || (o.imm.extractLsb' 0 2 == 0 && o.typ == 3))]
  | 10 => [typed (o.typ == 0), noA o, noB o, noC o, (0, decide (o.imm.toNat ≤ 10))]
  | 11 => [typed (o.typ == 0), noDst o, noB o, noC o, immIn o 0x1F]
  | _ => [(34, false)]

/-- What GR.CFG checks in a slot that is not a NOP. -/
def slotChecks (fam : Nat) (op : Byte) (o : SlotArgs) : List SlotCheck :=
  if fam = 0 then xChecks op o else if fam = 1 then yChecks op o else zChecks op o

/-- GR.CFG accepts a slot that is not a NOP. -/
def slotOk (fam : Nat) (op : Byte) (o : SlotArgs) : Bool := (slotChecks fam op o).all fun c => c.2

/-! ### An issued slot -/

/-- What an issued slot reads: the run, its element's registers, the lanes that it selects, the chain mode and the index
tuple of its iteration. -/
structure FeCtx where
  run  : GridRun
  fe   : Fe
  sel  : Byte
  mode : Mode
  idx  : List Nat

/-- The lanes that a predicate code selects (R126). -/
def Fe.lanes (f : Fe) (pred : BitVec 3) : Byte :=
  match pred.toNat with
  | 0 => 0xFF | 1 => f.q[1] | 2 => f.q[2] | 3 => f.q[3] | 4 => f.q[0]
  | 5 => ~~~ f.q[1] | 6 => ~~~ f.q[2] | _ => ~~~ f.q[3]

/-- The run of a tile's grid and one element, for a slot of an iteration of its CB that has started. -/
def State.feCtx (s : State) (f : FeAt) (o : SlotArgs) : Option FeCtx :=
  match (s.tile f.tile).grid.run with
  | none => none
  | some r =>
    if f.iter < r.begun then
      let e := (s.tile f.tile).grid.fes[f.fe.toNat]'f.fe.isLt
      some { run := r, fe := e, sel := e.lanes o.pred, mode := Mode.of r.mode, idx := tupleOf r.cb.bounds f.iter }
    else none

/-- The run of a tile's grid changes. -/
def State.modRun (s : State) (P : TileId) (f : GridRun → GridRun) : State :=
  s.modTile P fun t => { t with grid := { t.grid with run := t.grid.run.map f } }

/-- An element of a tile's grid changes. -/
def State.modFe (s : State) (P : TileId) (i : BitVec 4) (f : Fe → Fe) : State :=
  s.modTile P fun t =>
    { t with grid := { t.grid with fes := t.grid.fes.set i.toNat (f (t.grid.fes[i.toNat]'i.isLt)) i.isLt } }

/-- A landing takes its place among those in flight: of two for one register and cycle the later-issued one lands last
(R334). -/
def insertLanding (x : Landing) : List Landing → List Landing
  | [] => [x]
  | y :: r => if x.rank < y.rank then x :: y :: r else y :: insertLanding x r

/-- A result of latency `lat` of family `fam` is on its way (R334). -/
def State.land (s : State) (f : FeAt) (c : FeCtx) (fam lat : Nat) (d : Dest) (v : BitVec 256) : State :=
  s.modRun f.tile fun r =>
    { r with landings := insertLanding { cycle := c.run.cycle + lat - 1, fe := f.fe, dest := d, lanes := c.sel, value := v,
                                         rank := 3 * c.run.cycle + fam } r.landings }

/-- A slot issues: it is accepted, and its iteration has started. -/
def feIssue (name : String) (fam : Nat) (op : Byte) (f : FeAt) (o : SlotArgs) (s : State) (body : FeCtx → Res) : Res :=
  if slotOk fam op o then match s.feCtx f o with | some c => body c | none => notNow name else notNow name

/-! ### Lanes and elements (R341) -/

/-- Lane k of a register. -/
def laneAt (v : BitVec 256) (k : Nat) : Nat := (v.extractLsb' (32 * k) 32).toNat
/-- A register from its lanes. -/
def ofLanes (l : List Nat) : BitVec 256 := BitVec.ofNat 256 (packElems 32 l)
/-- Element i of a lane. -/
def elemAt (w x i : Nat) : Nat := x / 2 ^ (w * i) % 2 ^ w
/-- A register operand. -/
def FeCtx.reg (c : FeCtx) (r : BitVec 4) : BitVec 256 := c.fe.v[r.toNat]'r.isLt
/-- A predicate operand. -/
def FeCtx.pred (c : FeCtx) (q : BitVec 4) : Byte := c.fe.q[q.toNat % 4]'(Nat.mod_lt _ (by decide))
/-- Lane k is selected. -/
def FeCtx.on (c : FeCtx) (k : Nat) : Bool := c.sel.getLsbD k

/-- Elements formed one after another, each with a draw under SR. -/
def drawAll (sr : Bool) : List (Nat → Nat) → Word → List Nat × Word
  | [], g => ([], g)
  | e :: r, g =>
    let g := if sr then genStep g else g
    let (l, g') := drawAll sr r g
    (e (genWord g) :: l, g')

/-- A result whose lane k is made of the `n` elements `h k i rnd` of `w` bits; under `sr` each element of a selected lane draws
(R267). -/
def FeCtx.elems (c : FeCtx) (sr : Bool) (w n : Nat) (h : Nat → Nat → Nat → Nat) : BitVec 256 × Vector Word 8 :=
  let lane (k : Nat) : Nat × Word :=
    let g := c.fe.gen.toList.getD k 0
    if c.on k then
      let (l, g) := drawAll sr ((List.range n).map fun i => h k i) g
      (packElems w l, g)
    else (0, g)
  let all := (List.range 8).map lane
  (ofLanes (all.map fun x => x.1), Vector.ofFn fun i => (all.getD i.val (0, 0)).2)

/-- A vector result with the generators after its draws. -/
def State.landVec (s : State) (f : FeAt) (o : SlotArgs) (c : FeCtx) (fam lat : Nat) (x : BitVec 256 × Vector Word 8) : State :=
  (s.modFe f.tile f.fe fun e => { e with gen := x.2 }).land f c fam lat (.vec o.dst) x.1

/-- The chain mode rounds stochastically. -/
def FeCtx.sr (c : FeCtx) : Bool := decide (c.mode.rnd = .sr)
/-- The chain mode rounds towards −∞. -/
def FeCtx.down (c : FeCtx) : Bool := decide (c.mode.rnd = .rdn)

/-! ### X operations (R342 to R344) -/

/-- A floating-point operation on elements: its exact value, rounded once. -/
def feFloat (name : String) (op : Byte) (lat : Nat) (draws : Bool) (f : FeAt) (o : SlotArgs) (s : State)
    (h : FeCtx → Val → Val → Val → Val) : Res :=
  feIssue name 0 op f o s fun c =>
    let t := o.flt
    let w := t.width
    .next (s.landVec f o c 0 lat (c.elems (draws && c.sr) w (32 / w) fun k i rnd =>
      let v (r : BitVec 4) : Val := t.read c.mode.ftz (elemAt w (laneAt (c.reg r) k) i)
      t.round (h c (v o.a) (v o.b) (v o.c)) c.mode rnd))

/-- FADD (R342). -/
def execFadd (f : FeAt) (o : SlotArgs) (s : State) : Res := feFloat "FADD" 1 4 true f o s fun c a b _ => a.addDir c.down b
/-- FSUB (R342). -/
def execFsub (f : FeAt) (o : SlotArgs) (s : State) : Res :=
  feFloat "FSUB" 2 4 true f o s fun c a b _ => a.addDir c.down b.negate
/-- FMUL (R342). -/
def execFmul (f : FeAt) (o : SlotArgs) (s : State) : Res := feFloat "FMUL" 3 4 true f o s fun _ a b _ => a.mul b
/-- a · b + c with the sign of the product and of the addend given, the first NaN operand first. -/
def fusedSum (down negP negC : Bool) (a b c : Val) : Val :=
  match firstNaN [a, b, c] with
  | some v => v
  | none =>
    let p := a.mul b
    (if negP then p.negate else p).addDir down (if negC then c.negate else c)
/-- FMA (R342). -/
def execFma (f : FeAt) (o : SlotArgs) (s : State) : Res :=
  feFloat "FMA" 4 4 true f o s fun c x y z => fusedSum c.down false false x y z
/-- FMS (R342). -/
def execFms (f : FeAt) (o : SlotArgs) (s : State) : Res :=
  feFloat "FMS" 5 4 true f o s fun c x y z => fusedSum c.down false true x y z
/-- FNMA (R342). -/
def execFnma (f : FeAt) (o : SlotArgs) (s : State) : Res :=
  feFloat "FNMA" 6 4 true f o s fun c x y z => fusedSum c.down true false x y z
/-- FMAX (R342). -/
def execFmax (f : FeAt) (o : SlotArgs) (s : State) : Res := feFloat "FMAX" 7 2 false f o s fun _ a b _ => Val.pick true a b
/-- FMIN (R342). -/
def execFmin (f : FeAt) (o : SlotArgs) (s : State) : Res := feFloat "FMIN" 8 2 false f o s fun _ a b _ => Val.pick false a b
/-- The larger magnitude with sign 0; a NaN operand is kept as it is. -/
def Val.largerAbs (a b : Val) : Val := Val.pick true (if a.isNaN then a else a.abs) (if b.isNaN then b else b.abs)
/-- FMAXA (R342). -/
def execFmaxa (f : FeAt) (o : SlotArgs) (s : State) : Res := feFloat "FMAXA" 9 2 false f o s fun _ a b _ => a.largerAbs b

/-- 1 / a with the fixed results of R343. -/
def recipOf : Val → Val
  | .fin s 0 _ => .inf s
  | .inf s => .fin s 0 0
  | v => v.recip
/-- 1 / √a with the fixed results of R343. -/
def rsqrtOf : Val → Val
  | .fin s 0 _ => .inf s
  | .inf false => .fin false 0 0
  | .inf true => .canon
  | .fin true _ _ => .canon
  | v => v.rsqrt
/-- 2^a with the fixed results of R343. (UNVERIFIED, log entry 54: rounding of the evaluation to 320 bits.) -/
def exp2Of : Val → Val
  | .inf true => .fin false 0 0
  | .inf false => .inf false
  | v => v.exp2
/-- log2 a with the fixed results of R343. (UNVERIFIED, log entry 54: rounding of the evaluation to 320 bits.) -/
def logTwoOf : Val → Val
  | .fin _ 0 _ => .inf true
  | .inf false => .inf false
  | .inf true => .canon
  | .fin true _ _ => .canon
  | v => v.logTwo

/-- FRCP (R342, R343). -/
def execFrcp (f : FeAt) (o : SlotArgs) (s : State) : Res := feFloat "FRCP" 10 8 true f o s fun _ a _ _ => recipOf a
/-- FRSQ (R342, R343). -/
def execFrsq (f : FeAt) (o : SlotArgs) (s : State) : Res := feFloat "FRSQ" 11 8 true f o s fun _ a _ _ => rsqrtOf a
/-- FEX2 (R342, R343). -/
def execFex2 (f : FeAt) (o : SlotArgs) (s : State) : Res := feFloat "FEX2" 12 8 true f o s fun _ a _ _ => exp2Of a
/-- FLG2 (R342, R343). -/
def execFlg2 (f : FeAt) (o : SlotArgs) (s : State) : Res := feFloat "FLG2" 13 8 true f o s fun _ a _ _ => logTwoOf a

/-- An integer kept in an element: clamped, or its low bits (R341). -/
def fitInt (w : Nat) (signed sat : Bool) (i : Int) : Nat := intBits w (if sat then clampInt w signed i else i)

/-- An integer operation on elements. `h` gets the width. -/
def feInt (name : String) (op : Byte) (lat : Nat) (f : FeAt) (o : SlotArgs) (s : State) (h : Nat → Int → Int → Int → Int) : Res :=
  feIssue name 0 op f o s fun c =>
    let (w, sg) := o.intTy
    .next (s.landVec f o c 0 lat (c.elems false w (32 / w) fun k i _ =>
      let v (r : BitVec 4) : Int := intOf w sg (elemAt w (laneAt (c.reg r) k) i)
      fitInt w sg (o.imm.getLsbD 0) (h w (v o.a) (v o.b) (v o.c))))

/-- IADD (R344). -/
def execIadd (f : FeAt) (o : SlotArgs) (s : State) : Res := feInt "IADD" 14 1 f o s fun _ a b _ => a + b
/-- ISUB (R344). -/
def execIsub (f : FeAt) (o : SlotArgs) (s : State) : Res := feInt "ISUB" 15 1 f o s fun _ a b _ => a - b
/-- IMUL (R344). -/
def execImul (f : FeAt) (o : SlotArgs) (s : State) : Res := feInt "IMUL" 16 3 f o s fun _ a b _ => a * b
/-- IMAD (R344). -/
def execImad (f : FeAt) (o : SlotArgs) (s : State) : Res := feInt "IMAD" 17 3 f o s fun _ a b c => a * b + c
/-- IMULH (R344): the upper half of the exact product. -/
def execImulh (f : FeAt) (o : SlotArgs) (s : State) : Res := feInt "IMULH" 18 3 f o s fun w a b _ => a * b / 2 ^ w
/-- IMIN (R344). -/
def execImin (f : FeAt) (o : SlotArgs) (s : State) : Res := feInt "IMIN" 19 1 f o s fun _ a b _ => min a b
/-- IMAX (R344). -/
def execImax (f : FeAt) (o : SlotArgs) (s : State) : Res := feInt "IMAX" 20 1 f o s fun _ a b _ => max a b
/-- IABS (R344). -/
def execIabs (f : FeAt) (o : SlotArgs) (s : State) : Res := feInt "IABS" 21 1 f o s fun _ a _ _ => (a.natAbs : Int)

/-- DOT4 (R344): c plus the products of the four bytes, in a 32-bit lane. -/
def execDot4 (f : FeAt) (o : SlotArgs) (s : State) : Res :=
  feIssue "DOT4" 0 22 f o s fun c =>
    let sg := o.typ == 5
    .next (s.landVec f o c 0 3 (c.elems false 32 1 fun k _ _ =>
      let b (r : BitVec 4) (i : Nat) : Int := intOf 8 sg (elemAt 8 (laneAt (c.reg r) k) i)
      let t : Int := (List.range 4).foldl (fun (t : Int) i => t + b o.a i * b o.b i) (intOf 32 sg (laneAt (c.reg o.c) k))
      fitInt 32 sg (o.imm.getLsbD 0) t))

/-- FDOT2 (R344): c plus the two products, exact and rounded once to FP32. -/
def execFdot2 (f : FeAt) (o : SlotArgs) (s : State) : Res :=
  feIssue "FDOT2" 0 23 f o s fun c =>
    let t := o.flt
    .next (s.landVec f o c 0 4 (c.elems c.sr 32 1 fun k _ rnd =>
      let v (r : BitVec 4) (i : Nat) : Val := t.read c.mode.ftz (elemAt 16 (laneAt (c.reg r) k) i)
      let z := fp32.read c.mode.ftz (laneAt (c.reg o.c) k)
      let r := match firstNaN [v o.a 0, v o.a 1, v o.b 0, v o.b 1, z] with
        | some n => n
        | none => Val.sum c.down [z, (v o.a 0).mul (v o.b 0), (v o.a 1).mul (v o.b 1)]
      fp32.round r c.mode rnd))

/-! ### Y operations (R345 to R348) -/

/-- An operation on whole lanes. -/
def feLane (name : String) (op : Byte) (f : FeAt) (o : SlotArgs) (s : State) (h : FeCtx → Nat → Nat) : Res :=
  feIssue name 1 op f o s fun c => .next (s.landVec f o c 1 1 (c.elems false 32 1 fun k _ _ => h c k))

/-- AND (R345). -/
def execFeAnd (f : FeAt) (o : SlotArgs) (s : State) : Res :=
  feLane "FE_AND" 1 f o s fun c k => laneAt (c.reg o.a &&& c.reg o.b) k
/-- OR (R345). -/
def execFeOr (f : FeAt) (o : SlotArgs) (s : State) : Res :=
  feLane "FE_OR" 2 f o s fun c k => laneAt (c.reg o.a ||| c.reg o.b) k
/-- XOR (R345). -/
def execFeXor (f : FeAt) (o : SlotArgs) (s : State) : Res :=
  feLane "FE_XOR" 3 f o s fun c k => laneAt (c.reg o.a ^^^ c.reg o.b) k

/-- A shift of each element. -/
def feShift (name : String) (op : Byte) (f : FeAt) (o : SlotArgs) (s : State) (h : Nat → Nat → Nat → Nat) : Res :=
  feIssue name 1 op f o s fun c =>
    let w := o.fmt.width
    .next (s.landVec f o c 1 1 (c.elems false w (32 / w) fun k i _ =>
      h w (elemAt w (laneAt (c.reg o.a) k) i)
        (if o.imm.getLsbD 5 then (o.imm.extractLsb' 0 5).toNat else elemAt w (laneAt (c.reg o.b) k) i)))

/-- SHL (R345). -/
def execShl (f : FeAt) (o : SlotArgs) (s : State) : Res := feShift "SHL" 4 f o s fun w a n => if w ≤ n then 0 else a * 2 ^ n
/-- SHR (R345). -/
def execShr (f : FeAt) (o : SlotArgs) (s : State) : Res := feShift "SHR" 5 f o s fun w a n => if w ≤ n then 0 else a / 2 ^ n
/-- SAR (R345). -/
def execSar (f : FeAt) (o : SlotArgs) (s : State) : Res :=
  feShift "SAR" 6 f o s fun w a n => intBits w (intOf w true a / 2 ^ min n w)

/-- One predicate bit from the results of a lane's elements (R345). -/
def selBit (sel : BitVec 2) (l : List Bool) : Bool :=
  match sel.toNat with
  | 0 => l.headD false
  | 1 => l.getLastD false
  | 2 => l.all id
  | _ => l.any id

/-- A predicate from its lanes. -/
def predOf (h : Nat → Bool) : Byte :=
  (List.range 8).foldl (fun (m : Byte) (k : Nat) => if h k then m ||| BitVec.ofNat 8 (2 ^ k) else m) 0

/-- A predicate result of a Y slot. -/
def State.landPred (s : State) (f : FeAt) (c : FeCtx) (fam lat : Nat) (q : BitVec 4) (v : Byte) : State :=
  s.land f c fam lat (.pred (q.extractLsb' 0 2)) (v.zeroExtend 256)

/-- The lanes' element results as one predicate. -/
def FeCtx.testElems (w : Nat) (sel : BitVec 2) (h : Nat → Nat → Bool) : Byte :=
  predOf fun k => selBit sel ((List.range (32 / w)).map fun i => h k i)

/-- A condition on floating-point values (R345). -/
def floatCond (cond : Nat) (a b : Val) : Bool :=
  let un := a.isNaN || b.isNaN
  match cond with
  | 0 => a.eqv b
  | 1 => !a.eqv b
  | 2 => !un && a.lt b
  | 3 => !un && !b.lt a
  | 4 => !un && b.lt a
  | 5 => !un && !a.lt b
  | 6 => un
  | _ => !un

/-- FCMP (R345). -/
def execFcmp (f : FeAt) (o : SlotArgs) (s : State) : Res :=
  feIssue "FCMP" 1 7 f o s fun c =>
    let t := o.flt
    let v (r : BitVec 4) (k i : Nat) : Val := t.read c.mode.ftz (elemAt t.width (laneAt (c.reg r) k) i)
    .next (s.landPred f c 1 1 o.dst (FeCtx.testElems t.width (o.imm.extractLsb' 3 2) fun k i =>
      floatCond (o.imm.extractLsb' 0 3).toNat (v o.a k i) (v o.b k i)))

/-- A condition on integers (R345). -/
def intCond (cond : Nat) (a b : Int) : Bool :=
  match cond with
  | 0 => decide (a = b) | 1 => decide (a ≠ b) | 2 => decide (a < b) | 3 => decide (a ≤ b) | 4 => decide (b < a)
  | _ => decide (b ≤ a)

/-- ICMP (R345). -/
def execIcmp (f : FeAt) (o : SlotArgs) (s : State) : Res :=
  feIssue "ICMP" 1 8 f o s fun c =>
    let (w, sg) := o.intTy
    let v (r : BitVec 4) (k i : Nat) : Int := intOf w sg (elemAt w (laneAt (c.reg r) k) i)
    .next (s.landPred f c 1 1 o.dst (FeCtx.testElems w (o.imm.extractLsb' 3 2) fun k i =>
      intCond (o.imm.extractLsb' 0 3).toNat (v o.a k i) (v o.b k i)))

/-- SEL (R345). -/
def execFeSel (f : FeAt) (o : SlotArgs) (s : State) : Res :=
  feLane "SEL" 9 f o s fun c k => laneAt (if (c.pred o.c).getLsbD k then c.reg o.a else c.reg o.b) k
/-- MOV (R345). -/
def execMov (f : FeAt) (o : SlotArgs) (s : State) : Res := feLane "MOV" 10 f o s fun c k => laneAt (c.reg o.a) k

/-- The lane that MOVI sets (R345). -/
def moviLane (o : SlotArgs) : BitVec 32 :=
  match o.typ.toNat with
  | 0 => o.imm ++ (0 : BitVec 20)
  | 1 => o.imm ++ (0 : BitVec 4) ++ o.imm ++ (0 : BitVec 4)
  | 2 => o.imm ++ (0 : BitVec 4) ++ o.imm ++ (0 : BitVec 4)
  | 3 => if o.imm.getLsbD 11 then (o.imm.extractLsb' 0 11).zeroExtend 32 else (o.imm.extractLsb' 0 11).signExtend 32
  | 4 => o.imm.signExtend 16 ++ o.imm.signExtend 16
  | 6 => o.imm.zeroExtend 16 ++ o.imm.zeroExtend 16
  | _ => o.imm.extractLsb' 0 8 ++ o.imm.extractLsb' 0 8 ++ o.imm.extractLsb' 0 8 ++ o.imm.extractLsb' 0 8

/-- MOVI (R345). -/
def execMovi (f : FeAt) (o : SlotArgs) (s : State) : Res := feLane "MOVI" 11 f o s fun _ _ => (moviLane o).toNat

/-- A conversion of lanes (R346). -/
def feCvt (name : String) (op : Byte) (sr : Bool) (f : FeAt) (o : SlotArgs) (s : State) : Res :=
  feIssue name 1 op f o s fun c =>
    let d := o.fmt
    let t := o.cvtSrc
    let n := 32 / d.width
    let mode : Mode := if sr then { c.mode with rnd := .sr } else c.mode
    .next (s.landVec f o c 1 2 (c.elems (sr || c.sr) d.width n fun k i rnd =>
      let a := laneAt (c.reg o.a) k
      let x := if t.width = d.width then elemAt t.width a i
        else if t.width = 2 * d.width then
          (if i < n / 2 then elemAt t.width a i else elemAt t.width (laneAt (c.reg o.b) k) (i - n / 2))
        else elemAt t.width a (i + if o.imm.getLsbD 4 then n else 0)
      convert t d x mode rnd))

/-- CVT (R346). -/
def execCvt (f : FeAt) (o : SlotArgs) (s : State) : Res := feCvt "CVT" 12 false f o s
/-- CVTSR (R346). -/
def execCvtsr (f : FeAt) (o : SlotArgs) (s : State) : Res := feCvt "CVTSR" 13 true f o s

/-- The byte that QNT forms (R347). A value of zero gives +0 (R268). -/
def qntByte (code : Nat) (m : Mode) (x : Nat) (sh : Int) (rnd : Nat) : Nat :=
  let v := fp32.read m.ftz x
  let y := v.scale (nearScale sh)
  let flt (g : FloatFmt) : Nat :=
    if v.isNaN then g.nanBits m.can v else if v.isZero then 0 else g.round y { m with sat := true } rnd
  let int (lim : Int) (w : Nat) : Nat :=
    if v.isNaN then 0 else intBits w (max (-lim) (min lim (roundInt 32 true y m.rnd rnd)))
  match code with
  | 0 => int 127 8
  | 1 => flt e4m3
  | 2 => flt e5m2
  | 3 => if v.isNaN then 0 else flt e3m2
  | 4 => if v.isNaN then 0 else flt e2m3
  | 5 => if v.isNaN then 0 else flt e2m1
  | _ => int 7 4

/-- QNT (R347). -/
def execQnt (f : FeAt) (o : SlotArgs) (s : State) : Res :=
  feIssue "QNT" 1 14 f o s fun c =>
    let j := 8 * (o.imm.extractLsb' 3 2).toNat
    .next (s.landVec f o c 1 3 (c.elems c.sr 32 1 fun k _ rnd =>
      let old := laneAt (c.reg o.dst) k
      let b := qntByte (o.imm.extractLsb' 0 3).toNat c.mode (laneAt (c.reg o.a) k) (intOf 32 true (laneAt (c.reg o.b) k)) rnd
      old - elemAt 8 old (j / 8) * 2 ^ j + b * 2 ^ j))

/-- EXPO (R348). -/
def execExpo (f : FeAt) (o : SlotArgs) (s : State) : Res :=
  feIssue "EXPO" 1 15 f o s fun c =>
    let t := o.flt
    let w := t.width
    .next (s.landVec f o c 1 2 (c.elems false w (32 / w) fun k i _ =>
      let v := t.read c.mode.ftz (elemAt w (laneAt (c.reg o.a) k) i)
      if !v.isFin then 2 ^ (w - 1) - 1 else if v.isZero then 2 ^ (w - 1) else intBits w v.log2))

/-- SCALB (R348). -/
def execScalb (f : FeAt) (o : SlotArgs) (s : State) : Res :=
  feIssue "SCALB" 1 16 f o s fun c =>
    let t := o.flt
    let w := t.width
    .next (s.landVec f o c 1 2 (c.elems c.sr w (32 / w) fun k i rnd =>
      let v := t.read c.mode.ftz (elemAt w (laneAt (c.reg o.a) k) i)
      t.round (v.scale (nearScale (intOf w true (elemAt w (laneAt (c.reg o.b) k) i)))) c.mode rnd))

/-- The class bit of a pattern (R348). -/
def classOf (t : FloatFmt) (x : Nat) : Nat :=
  let s := x / 2 ^ (t.eb + t.mb) % 2 == 1
  let e := x / 2 ^ t.mb % 2 ^ t.eb
  let m := x % 2 ^ t.mb
  if e = 2 ^ t.eb - 1 then (if m = 0 then (if s then 0 else 7) else if 2 ^ (t.mb - 1) ≤ m then 8 else 9)
  else if e = 0 then (if m = 0 then (if s then 3 else 4) else if s then 2 else 5)
  else if s then 1 else 6

/-- CLASS (R348). -/
def execFeClass (f : FeAt) (o : SlotArgs) (s : State) : Res :=
  feIssue "CLASS" 1 17 f o s fun c =>
    let t := o.flt
    .next (s.landPred f c 1 1 o.dst (FeCtx.testElems t.width (o.imm.extractLsb' 10 2) fun k i =>
      o.imm.getLsbD (classOf t (elemAt t.width (laneAt (c.reg o.a) k) i))))

/-- PLOG (R345). -/
def execPlog (f : FeAt) (o : SlotArgs) (s : State) : Res :=
  feIssue "PLOG" 1 18 f o s fun c =>
    .next (s.landPred f c 1 1 o.dst (predOf fun k =>
      o.imm.getLsbD ((if (c.pred o.a).getLsbD k then 2 else 0) + (if (c.pred o.b).getLsbD k then 1 else 0))))

/-- LANE (R345). -/
def execLane (f : FeAt) (o : SlotArgs) (s : State) : Res :=
  feLane "LANE" 19 f o s fun _ k =>
    let i : BitVec 32 := if o.imm.getLsbD 11 then (o.imm.extractLsb' 0 11).zeroExtend 32 else (o.imm.extractLsb' 0 11).signExtend 32
    (i + BitVec.ofNat 32 k).toNat

/-- RNG (R345): one draw of each selected lane, and bits [63:32] of the new state. -/
def execRng (f : FeAt) (o : SlotArgs) (s : State) : Res :=
  feIssue "RNG" 1 20 f o s fun c =>
    let g : Vector Word 8 := Vector.ofFn fun k => if c.on k.val then genStep c.fe.gen[k] else c.fe.gen[k]
    .next (s.landVec f o c 1 1 (ofLanes (g.toList.map fun x => (x.extractLsb' 32 32).toNat), g))

/-- FIRST_l of an index tuple (R276). -/
def firstFlag (idx : List Nat) (l : Nat) : Bool := (idx.take (l + 1)).all fun i => i == 0
/-- LAST_l of an index tuple. -/
def lastFlag (bounds idx : List Nat) (l : Nat) : Bool := lastBelow bounds idx (l + 1)

/-- LVL (R345). -/
def execLvl (f : FeAt) (o : SlotArgs) (s : State) : Res :=
  feIssue "LVL" 1 21 f o s fun c =>
    let l := (o.imm.extractLsb' 0 3).toNat
    let b := if o.imm.getLsbD 3 then lastFlag c.run.cb.bounds c.idx l else firstFlag c.idx l
    .next (s.landPred f c 1 1 o.dst (if b then 0xFF else 0))

end Sys2Proof.Machine
end

