-- ==== Sys2Proof/Machine/FabricLinks.lean ====
section
/-! DEFINITION. The Z operations of fabric elements: links, ports, the accumulator port, exchanges between lanes and between
elements, and the run's result word (R337 to R340, R349, R350). -/
namespace Sys2Proof.Machine

/-- The image that a run uses (R325). -/
def Grid.image (g : Grid) (slot : BitVec 1) : Option Image := if slot = 0 then g.slot0 else g.slot1

/-! ### Links (R340) -/

/-- The neighbour of an element: 0 north, 1 east, 2 south, 3 west; EDGE joins opposite edges. -/
def neighbour (edge : Byte) (fe dir : Nat) : Option Nat :=
  let row := fe / 4
  let col := fe % 4
  match dir with
  | 0 => if row = 0 then (if edge.getLsbD 0 then some (12 + col) else none) else some (fe - 4)
  | 1 => if col = 3 then (if edge.getLsbD 1 then some (fe - 3) else none) else some (fe + 1)
  | 2 => if row = 3 then (if edge.getLsbD 0 then some col else none) else some (fe + 4)
  | _ => if col = 0 then (if edge.getLsbD 1 then some (fe + 3) else none) else some (fe - 1)

/-- SEND (R340): at the end of the cycle the facing registers take the selected lanes. -/
def execSend (f : FeAt) (o : SlotArgs) (s : State) : Res :=
  feIssue "SEND" 2 1 f o s fun c =>
    match (s.tile f.tile).grid.image c.run.slot with
    | none => notNow "SEND"
    | some m =>
      let dsts := (List.range 4).filterMap fun d =>
        if o.imm.getLsbD d then (neighbour m.edge f.fe.toNat d).map fun n => (4 * n + (d + 2) % 4, c.reg o.a, c.sel) else none
      .next (s.modRun f.tile fun r => { r with sends := r.sends ++ dsts })

/-- The incoming link register of an element from a direction. -/
def GridRun.link (r : GridRun) (fe : BitVec 4) (dir : BitVec 2) : BitVec 256 :=
  (r.links[fe.toNat]'fe.isLt)[dir.toNat]'dir.isLt

/-- A vector result of a Z slot. -/
def feMove (name : String) (op : Byte) (lat : Nat) (f : FeAt) (o : SlotArgs) (s : State) (h : FeCtx → Nat → Nat) : Res :=
  feIssue name 2 op f o s fun c => .next (s.landVec f o c 2 lat (c.elems false 32 1 fun k _ _ => h c k))

/-- RECV (R349). -/
def execRecv (f : FeAt) (o : SlotArgs) (s : State) : Res :=
  feMove "RECV" 2 1 f o s fun c k => laneAt (c.run.link f.fe (o.imm.extractLsb' 0 2)) k

/-! ### Ports (R337, R338) -/

/-- The input port of an element of column 0. -/
def inputPort (fe : BitVec 4) : Option (Fin 4) :=
  if fe.extractLsb' 0 2 = 0 then some ⟨(fe.extractLsb' 2 2).toNat, (fe.extractLsb' 2 2).isLt⟩ else none

/-- IN (R337): the next entry of the element's port that is reserved for its iteration. -/
def execFeIn (f : FeAt) (o : SlotArgs) (s : State) : Res :=
  feIssue "IN" 2 3 f o s fun c =>
    match inputPort f.fe with
    | none => notNow "IN"
    | some p =>
      let port := c.run.inp[p]
      let at_ := (c.run.inHeld[p]).findIdx fun n => n == f.iter
      match port[at_]?, (c.run.inHeld[p])[at_]? with
      | some x, some _ =>
        let s := s.modRun f.tile fun r =>
          { r with inp := r.inp.set p (port.eraseIdx at_), inHeld := r.inHeld.set p ((c.run.inHeld[p]).eraseIdx at_) }
        let s := s.land f c 2 2 (.vec o.dst) x.data
        .next (if o.imm.getLsbD 2 then s.land f c 2 2 (.pred (o.imm.extractLsb' 0 2)) (x.mask.zeroExtend 256) else s)
      | _, _ => notNow "IN"

/-- The output port of FE(0,3) and of FE(1,3). -/
def outputPort (fe : BitVec 4) : Option (Fin 2) := if fe = 3 then some 0 else if fe = 7 then some 1 else none

/-- The selected lanes of a register, and zero in the others. -/
def FeCtx.masked (c : FeCtx) (v : BitVec 256) : BitVec 256 := ofLanes ((List.range 8).map fun k => if c.on k then laneAt v k else 0)

/-- OUT (R338, R329). -/
def execFeOut (f : FeAt) (o : SlotArgs) (s : State) : Res :=
  feIssue "OUT" 2 4 f o s fun c =>
    match outputPort f.fe with
    | none => notNow "OUT"
    | some p =>
      let v := c.masked (c.reg o.a)
      .next (s.modRun f.tile fun r =>
        { r with outp := r.outp.set p (r.outp[p] ++ [{ data := v, mask := 0 }]),
                 outHeld := r.outHeld.set p (r.outHeld[p] - 1),
                 hash := if r.cb.kat then (leBytes 32 v.toNat).foldl (fun h b => (h ^^^ b.zeroExtend 64) * 0x100000001B3) r.hash
                         else r.hash })

/-! ### The accumulator port (R339, R351) -/

/-- The run starts no further iteration, and is to raise a cause after its drain (R351). -/
def State.faultRun (s : State) (P : TileId) (c : Cause) (v : Word) : State :=
  s.modRun P fun r => { r with drain := true, fault := match r.fault with | none => some (c, v) | x => x }

/-- ACCIN (R339). The value of POISON is the line's address (R408). -/
def execAccin (f : FeAt) (o : SlotArgs) (s : State) : Res :=
  feIssue "ACCIN" 2 8 f o s fun c =>
    let w := c.run.cb.w2
    let sum : Int := (w.base.extractLsb' 0 56).toNat + w.offset c.idx + (32 * o.imm.toNat : Nat)
    let a := tagged w.base sum
    if sum < 0 ∨ 65536 < sum + 32 then .next (s.faultRun f.tile .badaddr a)
    else
      match s.readPlain (gAcc f.tile.toNat sum.toNat) 32 with
      | .bytes l => .next (s.land f c 2 4 (.vec o.dst) (BitVec.ofNat 256 (leNat l)))
      | _ => .next (s.faultRun f.tile .poison (lineVa a))

/-! ### Exchanges between lanes (R349) -/

/-- SHUF (R349). -/
def execShuf (f : FeAt) (o : SlotArgs) (s : State) : Res :=
  match (s.tile f.tile).grid.run.bind fun r => (s.tile f.tile).grid.image r.slot with
  | none => notNow "SHUF"
  | some m =>
    feMove "SHUF" 6 1 f o s fun c k =>
      let from_ := if o.imm.getLsbD 5 then laneAt (c.reg o.b) k % 8
        else ((m.shuftab[(o.imm.extractLsb' 0 5).toNat]'(o.imm.extractLsb' 0 5).isLt).extractLsb' (3 * k) 3).toNat
      laneAt (c.reg o.a) from_

/-- BCST (R349). -/
def execBcst (f : FeAt) (o : SlotArgs) (s : State) : Res :=
  feMove "BCST" 7 1 f o s fun c _ => laneAt (c.reg o.a) (o.imm.extractLsb' 0 3).toNat

/-- An operation over several values of one lane type (R349, R350): 0 ADD, 1 MIN, 2 MAX, 3 MAXA, 4 AND, 5 OR, 6 XOR. -/
def combineLanes (t : Fmt) (op : Nat) (sat : Bool) (m : Mode) (rnd : Nat) (l : List Nat) : Nat :=
  let bitwise (h : Nat → Nat → Nat) : Nat := match l with | [] => 0 | a :: r => r.foldl h a
  if op = 4 then bitwise (· &&& ·) else if op = 5 then bitwise (· ||| ·) else if op = 6 then bitwise (· ^^^ ·)
  else match t with
    | .fl g =>
      let vs := l.map fun x => g.read m.ftz x
      let pick (larger : Bool) (vs : List Val) : Val := match vs with | [] => .fin false 0 0 | a :: r => r.foldl (Val.pick larger) a
      let v := match op with
        | 0 => Val.sum (decide (m.rnd = .rdn)) vs
        | 1 => pick false vs
        | 2 => pick true vs
        | _ => pick true (vs.map fun x => if x.isNaN then x else x.abs)
      g.round v m rnd
    | f =>
      let sg := match f with | .int _ b => b | _ => false
      let is := l.map fun x => intOf 32 sg x
      let fold (h : Int → Int → Int) : Int := match is with | [] => 0 | a :: r => r.foldl h a
      if op = 0 then fitInt 32 sg sat (fold (· + ·)) else if op = 1 then intBits 32 (fold min) else intBits 32 (fold max)

/-- SCAN (R349): an exact prefix over the lanes, each rounded once. -/
def execScan (f : FeAt) (o : SlotArgs) (s : State) : Res :=
  feIssue "SCAN" 2 9 f o s fun c =>
    let op := (o.imm.extractLsb' 0 2).toNat
    let draws := c.sr && o.typ == 0 && op == 0
    .next (s.landVec f o c 2 3 (c.elems draws 32 1 fun k _ rnd =>
      combineLanes o.fmt op (o.imm.getLsbD 2) c.mode rnd ((List.range (k + 1)).map (laneAt (c.reg o.a)))))

/-! ### RED (R350) -/

/-- The elements that take part in RED with the register that each gives, in rising order, for the slot of one iteration and
bundle. -/
def State.redRegs (s : State) (f : FeAt) (o : SlotArgs) (c : FeCtx) (m : Image) : List (BitVec 4 × BitVec 256) :=
  let b := c.run.cycle - 2 - (f.iter - c.run.base) * c.run.cb.ii.toNat
  (List.range 16).filterMap fun g =>
    if m.redmask.getLsbD g then
      let i := BitVec.ofNat 4 g
      let x := slotOf (slotIn (kget 0 m.bundles (64 * g + b)) 2)
      let a := if i = f.fe then o.a else x.2.a
      some (i, ((s.tile f.tile).grid.fes[i.toNat]'i.isLt).v[a.toNat]'a.isLt)
    else none

/-- The eight results of a RED, and the generators of its lowest element after the draws. -/
def redResult (o : SlotArgs) (c : FeCtx) (gen : Vector Word 8) (regs : List (BitVec 256)) : BitVec 256 × Vector Word 8 :=
  let op := (o.imm.extractLsb' 0 3).toNat
  let all := o.imm.getLsbD 3
  let sr := c.sr && o.typ == 0 && op == 0
  let g : Vector Word 8 := Vector.ofFn fun k => if sr && (!all || k == 0) then genStep gen[k] else gen[k]
  let one (k : Nat) : Nat :=
    let l := if all then regs.flatMap fun v => (List.range 8).map (laneAt v) else regs.map fun v => laneAt v k
    combineLanes o.fmt op (o.imm.getLsbD 4) c.mode (genWord (g.toList.getD (if all then 0 else k) 0)) l
  (ofLanes ((List.range 8).map one), g)

/-- RED (R350): every participant gets the value that the lowest one gets, and that one's generators draw. -/
def execRed (f : FeAt) (o : SlotArgs) (s : State) : Res :=
  feIssue "RED" 2 5 f o s fun c =>
    match (s.tile f.tile).grid.image c.run.slot with
    | none => notNow "RED"
    | some m =>
      let regs := s.redRegs f o c m
      match regs with
      | [] => notNow "RED"
      | (low, _) :: _ =>
        let rank := 3 * c.run.cycle + 2
        match c.run.landings.find? fun x => x.fe == low && x.rank == rank with
        | some x => .next (s.land f c 2 6 (.vec o.dst) x.value)
        | none =>
          let gen := ((s.tile f.tile).grid.fes[low.toNat]'low.isLt).gen
          let (v, g) := redResult o c gen (regs.map fun x => x.2)
          let s := if f.fe = low then s.modFe f.tile low fun e => { e with gen := g } else s
          .next (s.land f c 2 6 (.vec o.dst) v)

/-! ### GET and PUT (R349) -/

/-- The value that GET names. -/
def FeCtx.named (c : FeCtx) (f : FeAt) (sel : Nat) : Nat :=
  if sel < 6 then c.idx.getD sel 0
  else if sel = 6 then c.run.cb.parm.toNat
  else if sel = 7 then c.run.cb.opc.toNat
  else if sel = 8 then f.iter % 2 ^ 32
  else if sel = 9 then f.fe.toNat
  else min c.run.cb.trips (2 ^ 32 - 1)

/-- GET (R349). -/
def execGet (f : FeAt) (o : SlotArgs) (s : State) : Res := feMove "GET" 10 1 f o s fun c _ => c.named f o.imm.toNat

/-- A half of the run's result word is set or added to. -/
def putHalf (w : Word) (hi add : Bool) (x : BitVec 32) : Word :=
  let lo := w.extractLsb' 0 32
  let up := w.extractLsb' 32 32
  if hi then (if add then up + x else x) ++ lo else up ++ (if add then lo + x else x)

/-- PUT (R349). -/
def execPut (f : FeAt) (o : SlotArgs) (s : State) : Res :=
  feIssue "PUT" 2 11 f o s fun c =>
    let j := (o.imm.extractLsb' 0 3).toNat
    if c.on j then
      .next (s.modRun f.tile fun r =>
        { r with result := putHalf r.result (o.imm.getLsbD 3) (o.imm.getLsbD 4) (BitVec.ofNat 32 (laneAt (c.reg o.a) j)) })
    else .next s

end Sys2Proof.Machine
end

