-- ==== Sys2Proof/Machine/Grid.lean ====
section
/-! DEFINITION. The grid control blocks: a configuration image and its checks (R131, R132, R324 to R327), the modulo sequencer
(R330 to R334, R351 to R353) and the active slot (R328). -/
namespace Sys2Proof.Machine

/-! ### Configuration images (R131, R132, R326, R327) -/

/-- The bytes of an image. -/
def imageBytes : Nat := 16704
/-- The first byte of a span that is not zero. -/
def firstNonzero (l : List Byte) (o n : Nat) : Option Nat := ((l.drop o).take n).findIdx? (fun b => b != 0) |>.map fun i => o + i
/-- The offset of bundle b of element f. -/
def bundleAt (f b : Nat) : Nat := 0x40 + 1024 * f + 16 * b

/-- The bits of a bundle's slot at which it fails, by their places in the bundle (R132): those of its checks, and the opcode of an IN
or OUT at an element with no such port (R326). -/
def badSlot (fe : Nat) (w : BitVec 128) (fam : Nat) : List Nat :=
  let x := slotIn w fam
  let (op, o) := slotOf x
  let noPort := fam == 2 && ((op == 3 && decide (fe % 4 ≠ 0)) || (op == 4 && decide (fe ≠ 3 ∧ fe ≠ 7)))
  if x = 0 then []
  else if op = 0 then [(zeroBits (slotBase fam) x).1]
  else (((slotChecks fam op o).filter fun c => !c.2).map fun c => c.1 + slotBase fam) ++ if noPort then [34 + slotBase fam] else []

/-- The offset of the first failing byte of a bundle of a used element. -/
def badBundle (fe o : Nat) (w : BitVec 128) : Option Nat :=
  match (if w.getLsbD 1 then [1] else []) ++ badSlot fe w 2 ++ badSlot fe w 1 ++ badSlot fe w 0 with
  | [] => none
  | b :: r => some (o + r.foldl min b / 8)

/-- The opcode of a bundle's Z slot. -/
def zOp (w : BitVec 128) : Byte := (slotOf (slotIn w 2)).1

/-- The body of an element: its bundles up to the first with END, or none. -/
def bodyOf (bundles : List (BitVec 128)) : Option (List (BitVec 128)) :=
  match bundles.findIdx? bundleEnd with
  | some e => some (bundles.take (e + 1))
  | none => none

/-- The bundle index of the 17th slot of an opcode among Z slots, if there are more than 16. -/
def seventeenth (op : Byte) (body : List (BitVec 128)) : Option Nat :=
  (((body.zip (List.range body.length)).filter fun x => zOp x.1 == op).drop 16).head?.map fun x => x.2

/-- The offset at which an element of an image fails. -/
def badElement (l : List Byte) (femask : BitVec 16) (fe : Nat) (bundles : List (BitVec 128)) : Option Nat :=
  if !femask.getLsbD fe then firstNonzero l (bundleAt fe 0) 1024
  else match bodyOf bundles with
    | none => some (bundleAt fe 0)
    | some body =>
      let slots := (body.zip (List.range body.length)).findSome? fun x => badBundle fe (bundleAt fe x.2) x.1
      let many := [seventeenth 3 body, seventeenth 4 body].filterMap fun x => x.map fun b => bundleAt fe b + 4
      let rest := firstNonzero l (bundleAt fe body.length) (1024 - 16 * body.length)
      match slots.toList ++ many with
      | [] => rest
      | a :: r => some (r.foldl min a)

/-- The RED slots of a body: bundle index, type and imm12 (R326). -/
def redSlots (body : List (BitVec 128)) : List (Nat × BitVec 3 × BitVec 12) :=
  ((body.zip (List.range body.length)).filter fun x => zOp x.1 == 5).map fun x =>
    let o := (slotOf (slotIn x.1 2)).2
    (x.2, o.typ, o.imm)

/-- Some slot of a body has an opcode among its Z slots. -/
def hasZ (op : Byte) (body : List (BitVec 128)) : Bool := body.any fun w => zOp w == op

/-- The PORTEN that the bodies call for (R326). -/
def portsOf (bodies : List (List (BitVec 128))) : Byte :=
  let b (i : Nat) : List (BitVec 128) := bodies.getD i []
  predOf fun k =>
    if k < 4 then hasZ 3 (b (4 * k)) else if k = 4 then hasZ 4 (b 3) else if k = 5 then hasZ 4 (b 7)
    else if k = 6 then bodies.any (hasZ 8) else false

/-- The offset at which the routing table fails. -/
def badTable (l : List Byte) (femask : BitVec 16) (bodies : List (List (BitVec 128))) : Option Nat :=
  let red : BitVec 16 := bvf 16 l 0x4040 2
  let reds := (List.range 16).map fun f => (red.getLsbD f, redSlots (bodies.getD f []))
  let members := (reds.filter fun x => x.1).map fun x => x.2
  if red &&& ~~~ femask ≠ 0 ∨ (reds.any fun x => !x.1 && !x.2.isEmpty) ∨ (members.any fun x => x != members.headD []) then
    some 0x4040
  else if (fld l 0x4042 1) ≥ 4 then some 0x4042
  else if bvf 8 l 0x4043 1 ≠ portsOf bodies then some 0x4043
  else match firstNonzero l 0x4044 12 with
    | some a => some a
    | none => firstNonzero l 0x40B0 144

/-- The image of 16,704 bytes, or the offset of its first failing byte (R324). (DEDUCED, log entry 55: which byte fails first.) -/
def parseImage (l : List Byte) : Except Nat Image :=
  let femask : BitVec 16 := bvf 16 l 6 2
  let head := ((List.range 6).find? fun k => l.getD k 0 != [0x46, 0x43, 0x55, 0x4E, 1, 0].getD k 0).orElse fun _ =>
    firstNonzero l 8 56
  let fes := (List.range 16).map fun f => (List.range 64).map fun b => bvf 128 l (bundleAt f b) 16
  let bodies := (fes.zip (List.range 16)).map fun x => if femask.getLsbD x.2 then (bodyOf x.1).getD [] else []
  let bad := head.orElse fun _ =>
    (((fes.zip (List.range 16)).findSome? fun x => badElement l femask x.2 x.1).orElse fun _ => badTable l femask bodies)
  match bad with
  | some o => .error o
  | none =>
    .ok { femask,
          bundles := (bodies.zip (List.range 16)).flatMap fun x =>
            ((x.1.zip (List.range 64)).filter fun y => y.1 != 0).map fun y => (64 * x.2 + y.2, y.1),
          redmask := bvf 16 l 0x4040 2, edge := bvf 8 l 0x4042 1, porten := bvf 8 l 0x4043 1,
          shuftab := Vector.ofFn fun p => bvf 24 l (0x4050 + 3 * p.val) 3 }

/-- The bytes of an image. -/
def Image.bytes (m : Image) : List Byte :=
  [0x46, 0x43, 0x55, 0x4E, 1, 0] ++ leBytes 2 m.femask.toNat ++ List.replicate 56 0 ++
  (List.range 1024).flatMap (fun k => leBytes 16 (kget 0 m.bundles k).toNat) ++
  leBytes 2 m.redmask.toNat ++ [m.edge, m.porten] ++ List.replicate 12 0 ++
  m.shuftab.toList.flatMap (fun p => leBytes 3 p.toNat) ++ List.replicate 144 0

/-! ### GR.CFG and GR.SWAP (R324, R328) -/

/-- A slot of the grid is filled. -/
def Grid.install (g : Grid) (slot : BitVec 1) (m : Image) : Grid :=
  if slot = 0 then { g with slot0 := some m } else { g with slot1 := some m }

/-- The whole of GR.CFG's step 2: the image is read and checked, and then takes its slot.
(DESIGN CHOICE, log entry 83: an image with a byte that cannot be read and a byte that fails a check.) -/
def iterCfg (s : State) (j : Job) : Eio Done :=
  let a := j.cb.w0.base
  (j.readLines false (imageBytes / 64 + 2) s a imageBytes).then fun s d =>
  let s := j.flag s 0 d.nonres
  match parseImage d.raw with
  | .error o => j.fault s .cbformat (a + BitVec.ofNat 64 o)
  | .ok m =>
    let s := s.modTile j.P fun t => { t with grid := t.grid.install (j.cb.opa.extractLsb' 0 1) m }
    .ok (j.mod s fun x => { x with result := m.femask.zeroExtend 64 }) { out := [], count := 0 }

/-- GR_CFG (R324). -/
def execGrCfg (P : TileId) (s : State) : Res := bodyStep s P .gr 0x40 "GR_CFG" iterCfg

/-- GR.SWAP's new active slot, and CLRV (R328). -/
def Grid.swap (g : Grid) (c : CB) : Grid :=
  let active := if c.opa.getLsbD 1 then 1 - g.active else c.opa.extractLsb' 0 1
  { g with active,
           fes := if c.opa.getLsbD 2 then
               Vector.ofFn fun i => { g.fes[i] with v := Vector.replicate 16 0, q := Vector.replicate 4 0 }
             else g.fes }

/-- GR_SWAP (R328). -/
def execGrSwap (P : TileId) (s : State) : Res :=
  bodyStep s P .gr 0x42 "GR_SWAP" fun s j =>
    .ok (s.modTile j.P fun t => { t with grid := t.grid.swap j.cb }) { out := [], count := 0 }

/-! ### The modulo sequencer (R330 to R334) -/

/-- The body of an element of an image. -/
def Image.body (m : Image) (fe : Nat) : List (BitVec 128) :=
  if m.femask.getLsbD fe then (bodyOf ((List.range 64).map fun b => kget 0 m.bundles (64 * fe + b))).getD [] else []
/-- Lmax. -/
def Image.longest (m : Image) : Nat := (List.range 16).foldl (fun n f => max n (m.body f).length) 0
/-- How many Z slots of an opcode an element's body holds. -/
def Image.countZ (m : Image) (op : Byte) (fe : Nat) : Nat := ((m.body fe).filter fun w => zOp w == op).length

/-- Two bundles of a body that issue together hold slots of one family (R332). -/
def clashes (ii : Nat) (body : List (BitVec 128)) : Bool :=
  (List.range 3).any fun fam =>
    let used := ((body.zip (List.range body.length)).filter fun x => slotIn x.1 fam != 0).map fun x => x.2 % ii
    (List.range ii).any fun r => decide (1 < (used.filter fun u => u == r).length)

/-- A slot names a level that is not less than DEPTH (R332). -/
def namesLevel (depth : Nat) (w : BitVec 128) : Bool :=
  let y := slotOf (slotIn w 1)
  let z := slotOf (slotIn w 2)
  (y.1 == 21 && decide (depth ≤ (y.2.imm.extractLsb' 0 3).toNat)) || (z.1 == 10 && decide (z.2.imm.toNat < 6 ∧ depth ≤ z.2.imm.toNat))

/-- The checks of a run at its step 2 (R332). -/
def Image.runOk (m : Image) (c : CB) : Bool :=
  let ii := c.ii.toNat
  let bodies := (List.range 16).map m.body
  let acc := bodies.flatMap fun b => ((b.zip (List.range b.length)).filter fun x => zOp x.1 == 8).map fun x => x.2 % ii
  !(bodies.any (clashes ii)) && ((List.range ii).all fun r => decide ((acc.filter fun a => a == r).length ≤ 2)) &&
  (acc.isEmpty || c.w2 != Window.zero) && !(bodies.any fun b => b.any (namesLevel c.depth.toNat))

/-- A run starts, at the iteration that the loop-index stack names (R330, R353). -/
def startRun (s : State) (j : Job) : Res :=
  let g := (s.tile j.P).grid
  let slot : BitVec 1 := if j.cb.opa.getLsbD 1 then g.active else j.cb.opa.extractLsb' 0 1
  let ok := match g.image slot with
    | some m => m.runOk j.cb
    | none => false
  if !ok then .next (s.raiseEng j.P j.e .cbformat j.addr j.addr)
  else
    let n := flatOf j.cb.bounds j.idx
    let x := s.engine j.P j.e
    let mode : BitVec 6 := match x.queue with | c :: _ => c.mode | [] => 0
    let r : GridRun :=
      { cb := j.cb, slot, orphan := false, cycle := 0, base := n, begun := n, drain := false, fault := none, mode,
        landings := [], links := Vector.replicate 16 (Vector.replicate 4 0), sends := [], inp := Vector.replicate 4 [],
        outp := Vector.replicate 2 [], inHeld := Vector.replicate 4 [],
        outHeld := Vector.replicate 2 0, result := x.result, hash := x.hash }
    .next ((j.mod s fun x => { x with started := true }).modTile j.P fun t => { t with grid := { t.grid with run := some r } })

/-- A slot that is not a NOP issues: the meaning of its operation. -/
def issueSlot (fam : Nat) (op : Byte) (f : FeAt) (o : SlotArgs) (s : State) : Res :=
  if fam = 0 then
    match op.toNat with
    | 1 => execFadd f o s | 2 => execFsub f o s | 3 => execFmul f o s | 4 => execFma f o s | 5 => execFms f o s
    | 6 => execFnma f o s | 7 => execFmax f o s | 8 => execFmin f o s | 9 => execFmaxa f o s | 10 => execFrcp f o s
    | 11 => execFrsq f o s | 12 => execFex2 f o s | 13 => execFlg2 f o s | 14 => execIadd f o s | 15 => execIsub f o s
    | 16 => execImul f o s | 17 => execImad f o s | 18 => execImulh f o s | 19 => execImin f o s | 20 => execImax f o s
    | 21 => execIabs f o s | 22 => execDot4 f o s | 23 => execFdot2 f o s
    | _ => .next s
  else if fam = 1 then
    match op.toNat with
    | 1 => execFeAnd f o s | 2 => execFeOr f o s | 3 => execFeXor f o s | 4 => execShl f o s | 5 => execShr f o s
    | 6 => execSar f o s | 7 => execFcmp f o s | 8 => execIcmp f o s | 9 => execFeSel f o s | 10 => execMov f o s
    | 11 => execMovi f o s | 12 => execCvt f o s | 13 => execCvtsr f o s | 14 => execQnt f o s | 15 => execExpo f o s
    | 16 => execScalb f o s | 17 => execFeClass f o s | 18 => execPlog f o s | 19 => execLane f o s | 20 => execRng f o s
    | 21 => execLvl f o s
    | _ => .next s
  else
    match op.toNat with
    | 1 => execSend f o s | 2 => execRecv f o s | 3 => execFeIn f o s | 4 => execFeOut f o s | 5 => execRed f o s
    | 6 => execShuf f o s | 7 => execBcst f o s | 8 => execAccin f o s | 9 => execScan f o s | 10 => execGet f o s
    | 11 => execPut f o s
    | _ => .next s

/-- The next of a list of steps, after the ones before it. -/
def inTurn : List (State → Res) → State → Res
  | [], s => .next s
  | f :: r, s =>
    match f s with
    | .next t => inTurn r t
    | x => x

/-- The slots that issue in the run's present cycle, by element and then X, Y and Z (R330). -/
def GridRun.issues (r : GridRun) (m : Image) (P : TileId) : List (State → Res) :=
  let ii := r.cb.ii.toNat
  (List.range 16).flatMap fun fe =>
    let body := m.body fe
    (List.range 3).flatMap fun fam =>
      (body.zip (List.range body.length)).filterMap fun x =>
        let due := decide (2 + x.2 ≤ r.cycle ∧ (r.cycle - 2 - x.2) % ii = 0 ∧ r.base + (r.cycle - 2 - x.2) / ii < r.begun)
        let w := slotIn x.1 fam
        if due && w != 0 then
          let (op, o) := slotOf w
          some (issueSlot fam op { tile := P, fe := BitVec.ofNat 4 fe, iter := r.base + (r.cycle - 2 - x.2) / ii } o)
        else none

/-- Lanes of `new` where a mask selects them, and of `old` elsewhere. -/
def mergeLanes (mask : Byte) (old new : BitVec 256) : BitVec 256 :=
  ofLanes ((List.range 8).map fun k => laneAt (if mask.getLsbD k then new else old) k)

/-- A result lands (R334). -/
def Fe.take (f : Fe) (x : Landing) : Fe :=
  match x.dest with
  | .vec r => { f with v := f.v.set r.toNat (mergeLanes x.lanes (f.v[r.toNat]'r.isLt) x.value) r.isLt }
  | .pred q =>
    let old := f.q[q.toNat]'q.isLt
    { f with q := f.q.set q.toNat ((old &&& ~~~ x.lanes) ||| (x.value.truncate 8 &&& x.lanes)) q.isLt }

/-- The end of a grid cycle: what is due lands, and what was sent stands in the links (R334, R340). -/
def Grid.endCycle (g : Grid) : Grid :=
  match g.run with
  | none => g
  | some r =>
    let due := r.landings.filter fun x => x.cycle == r.cycle
    let fes := due.foldl (fun (fes : Vector Fe 16) x => fes.set x.fe.toNat ((fes[x.fe.toNat]'x.fe.isLt).take x) x.fe.isLt) g.fes
    let links : Vector (Vector (BitVec 256) 4) 16 := Vector.ofFn fun f => Vector.ofFn fun d =>
      (r.sends.filter fun x => x.1 == 4 * f.val + d.val).foldl (fun v x => mergeLanes x.2.2 v x.2.1) r.links[f][d]
    { g with fes, run := some { r with landings := r.landings.filter fun x => x.cycle != r.cycle, links, sends := [],
                                       cycle := r.cycle + 1 } }

/-- The entries that an iteration pops and pushes can be reserved (R331). -/
def State.reservable (s : State) (P : TileId) (r : GridRun) (m : Image) : Bool :=
  ((List.finRange 4).all fun p => decide ((r.inHeld[p]).length + m.countZ 3 (4 * p.val) ≤ (r.inp[p]).length)) &&
  ((List.finRange 2).all fun o => decide
    ((r.outp[o]).length + ((s.engine P .st).hold[o]).length + r.outHeld[o] + m.countZ 4 (4 * o.val + 3) ≤ 16))

/-- The next iteration starts with its entries reserved. (DEDUCED, log entry 55: the entry that IN takes.) -/
def GridRun.reserve (r : GridRun) (m : Image) : GridRun :=
  { r with begun := r.begun + 1,
           inHeld := Vector.ofFn fun p => r.inHeld[p] ++ List.replicate (m.countZ 3 (4 * p.val)) r.begun,
           outHeld := Vector.ofFn fun o => r.outHeld[o] + m.countZ 4 (4 * o.val + 3) }

/-- An iteration is due to start in the present cycle. -/
def GridRun.starts (r : GridRun) : Bool :=
  !r.drain && decide (r.begun < r.cb.trips ∧ r.cycle = 2 + (r.begun - r.base) * r.cb.ii.toNat)

/-- Everything that has started has issued and landed, and nothing further starts (R333, R352). -/
def GridRun.ovr (r : GridRun) (m : Image) : Bool :=
  (r.drain || decide (r.cb.trips ≤ r.begun)) && r.landings.isEmpty &&
  decide (r.begun = r.base ∨ 2 + (r.begun - 1 - r.base) * r.cb.ii.toNat + m.longest ≤ r.cycle)

/-- A run of the grid leaves its tile: the load engine takes back what the run has not reserved, and what stands in its output ports moves
to the hold buffer of the store engine (R107, R337, R338). -/
def Tile.endPorts (t : Tile) : Tile :=
  match t.grid.run with
  | none => t
  | some r =>
    let u := t.giveBack
    let x := u.eng[engIx .st]
    { u with eng := u.eng.set (engIx .st) { x with hold := Vector.ofFn fun o => x.hold[o] ++ r.outp[o] },
             grid := { u.grid with run := none } }

/-- A run has ended or has been drained: its CB goes on to step 3, or names its first iteration not started, or raises its
fault (R333, R351, R352). -/
def State.endRun (s : State) (P : TileId) (r : GridRun) : State :=
  let s := s.modTile P Tile.endPorts
  if r.orphan then s
  else
    let s := s.modEngine P .gr fun x =>
      { x with result := r.result, hash := r.hash, idx := idxVec (tupleOf r.cb.bounds r.begun) }
    match r.fault, (s.engine P .gr).cur with
    | some (c, v), some f => (s.raiseEng P .gr c v f.addr).modEngine P .gr fun x => { x with block := .dead }
    | _, _ => if r.cb.trips ≤ r.begun then s.endBody P .gr else s

/-- One grid cycle of a run (R330 to R334). A cycle whose reservation fails does not happen. -/
def gridCycle (s : State) (P : TileId) (r : GridRun) (m : Image) : Res :=
  if r.ovr m then .next (s.endRun P r)
  else if r.starts && !s.reservable P r m then notNow "GR_RUN"
  else
    let r := if r.starts then r.reserve m else r
    let s := s.modTile P fun t => { t with grid := { t.grid with run := some r } }
    match inTurn (r.issues m P) s with
    | .next s => .next (s.modTile P fun t => { t with grid := t.grid.endCycle })
    | x => x

/-- GR_RUN (R330): the start of a run, or one grid cycle of it. A run that drains goes on while its tile stops. -/
def execGrRun (P : TileId) (s : State) : Res :=
  match (s.tile P).grid.run with
  | some r =>
    (match (s.tile P).grid.image r.slot with
     | none => notNow "GR_RUN"
     | some m => if r.drain || s.engGo P .gr then gridCycle s P r m else notNow "GR_RUN")
  | none =>
    match s.inBody P .gr 0x41 with
    | some j => startRun s j
    | none => notNow "GR_RUN"

end Sys2Proof.Machine
end

