-- ==== Sys2Proof/Machine/Launch.lean ====
section
/-! DEFINITION. Launching work: BAR0 and the PTP clock (R49 to R51, R70), queues (R52 to R59), entries and their predecessors
(R60 to R62), acceptance (R63) with region control blocks (R11 to R18) and kernel images (R19 to R24), and completion
records (R65, R66). -/
namespace Sys2Proof.Machine

/-! ### Queues and their headers -/

/-- Die 4 changes by `f`. -/
def State.modIo (s : State) (f : IoDie → IoDie) : State := { s with io := f s.io }
/-- Queue q: 0 to 1,023 are host queues, 1,024 + i is supervisor queue i (R53). -/
def State.queue (s : State) (q : Nat) : Queue := kget Queue.reset s.io.queues q
/-- Queue q becomes `x`. -/
def State.setQueue (s : State) (q : Nat) (x : Queue) : State := s.modIo fun io => { io with queues := kset io.queues q x }

/-- STATE of a queue header (R54). -/
def QueueState.code : QueueState → Byte
  | .disabled => 0 | .active => 1 | .error => 2

/-- Line 1 of a queue header (R54). -/
def Queue.line1 (x : Queue) : List Byte :=
  leBytes 4 x.head.toNat ++ [x.state.code, x.err, 0, 0] ++ leBytes 4 x.errIdx.toNat ++ List.replicate 52 0

/-- The device writes line 1 of the header of queue q, with release to HO. -/
def State.writeHdr (s : State) (q : Nat) : State :=
  let x := s.queue q
  ((s.release .launch 0x10).agentWrite x.ctx (x.hdr + 64) x.line1).1

/-- The queue enters ERROR (R54, R57, R63). -/
def State.queueError (s : State) (q : Nat) (err : Byte) (idx : BitVec 32) : State :=
  (s.setQueue q { s.queue q with state := .error, err, errIdx := idx }).writeHdr q

/-- SEQ-BREAK. -/
def errSeq : Byte := 1
/-- OVERRUN. -/
def errOverrun : Byte := 2
/-- ENTRY-FAULT. -/
def errEntry : Byte := 3
/-- COMPL-INVALID. -/
def errCompl : Byte := 4

/-- The little-endian number in bytes [i, i + n) of a list. -/
def numAt (l : List Byte) (i n : Nat) : Nat := leNat ((l.drop i).take n)
/-- The bytes [i, i + n) of a list are 0. -/
def zeroAt (l : List Byte) (i n : Nat) : Bool := numAt l i n == 0

/-- A class code (R12, R52). -/
def taskClass (n : Nat) : Option Class :=
  if n = 0 then some .deadline else if n = 1 then some .interactive else if n = 2 then some .bulk else none
/-- The code of a class; a smaller one ranks higher. -/
def Class.code : Class → Nat
  | .deadline => 0 | .interactive => 1 | .bulk => 2

/-- n is a power of two from 2 to 65,536. -/
def isNent (n : Nat) : Bool := (List.range 16).any fun i => n == 2 ^ (i + 1)

/-- The queue that a descriptor describes, unless it is invalid (R52, R55). -/
def descOf (sup : Bool) (l : List Byte) : Option Queue :=
  let hdr : Word := BitVec.ofNat 64 (numAt l 0 8)
  let nent := numAt l 8 4
  let attr := numAt l 12 1
  let ctx := numAt l 14 2
  match taskClass (attr % 4) with
  | none => none
  | some cls =>
    if isNent nent && decide (attr < 32) && zeroAt l 13 1 && decide (ctx < 4096) && zeroAt l 18 14 &&
        hdr.extractLsb' 0 7 == 0 && tagOf hdr == 0 && decide (ownerOf hdr ≤ if sup then 3 else 4) then
      some { Queue.reset with hdr, nent, cls, prio := BitVec.ofNat 3 (attr / 4), ctx := BitVec.ofNat 12 ctx,
                              expected := BitVec.ofNat 16 (numAt l 16 2) }
    else none

/-- The descriptor of queue q as the device reads it: from the queue table, or from die 4's private SRAM (R49, R53). -/
def State.descBytes (s : State) (q : Nat) : Option (List Byte) :=
  if q < 1024 then
    (match s.readPlain (s.io.qtable + 32 * q) 32 with
     | .bytes l => some l
     | _ => none)
  else some (kget (List.replicate 32 0) s.io.suptable (q - 1024))

/-- ENABLE (R55): the result is 0 done, 1 descriptor invalid, 2 TAIL not 0, 3 no change. -/
def State.enableQueue (s : State) (q : Nat) : State × BitVec 2 :=
  let old := s.queue q
  if old.state ≠ .disabled then (s, 3)
  else match (s.descBytes q).bind (descOf (1024 ≤ q)) with
    | none => (s, 1)
    | some x =>
      let x := { x with entries := old.entries, finished := old.finished, era := old.era + 1 }
      match s.agentRead x.ctx x.hdr 64 with
      | (s, none) => (s, 1)
      | (s, some l) =>
        if !s.agentWritable x.ctx (x.hdr + 64) 1 then (s, 1)
        else if numAt l 0 4 ≠ 0 then
          ((s.setQueue q { x with state := .error, err := errOverrun }).writeHdr q, 2)
        else ((s.setQueue q { x with state := .active }).writeHdr q, 0)

/-- DISABLE (R55). -/
def State.disableQueue (s : State) (q : Nat) : State × BitVec 2 :=
  if (s.queue q).state = .disabled then (s, 3)
  else ((s.setQueue q { s.queue q with state := .disabled }).writeHdr q, 0)

/-- Queues may be commanded: reset has completed and no control-plane fatal event has occurred (R50). -/
def IoDie.serves (io : IoDie) : Bool := io.ready && !io.lost

/-- A write of QCMD (R51): ignored while BUSY. -/
def State.qcmd (s : State) (op : BitVec 2) (q : BitVec 10) (f : State → State × BitVec 2) : State :=
  if s.io.qcmd.busy || !s.io.serves then s
  else
    let (s, res) := f s
    s.modIo fun io => { io with qcmd := { op, busy := true, res, qidx := q } }

/-- Prapisen's command word for the supervisor queues (R53). -/
def State.supcmd (s : State) (op : BitVec 2) (q : BitVec 4) (f : State → State × BitVec 2) : State :=
  if s.io.supcmd.busy || s.io.lost then s
  else
    let (s, res) := f s
    s.modIo fun io => { io with supcmd := { op, busy := true, res, qidx := q.zeroExtend 10 } }

/-- QCMD_ENABLE (R55). -/
def execQcmdEnable (q : BitVec 10) (s : State) : Res := .next (s.qcmd 1 q fun s => s.enableQueue q.toNat)
/-- QCMD_DISABLE (R55). -/
def execQcmdDisable (q : BitVec 10) (s : State) : Res := .next (s.qcmd 2 q fun s => s.disableQueue q.toNat)
/-- SUPQ_ENABLE (R53). -/
def execSupqEnable (q : BitVec 4) (s : State) : Res := .next (s.supcmd 1 q fun s => s.enableQueue (1024 + q.toNat))
/-- SUPQ_DISABLE (R53). -/
def execSupqDisable (q : BitVec 4) (s : State) : Res := .next (s.supcmd 2 q fun s => s.disableQueue (1024 + q.toNat))

/-- QCMD_COMPLETE (R51): BUSY clears. -/
def execQcmdComplete (s : State) : Res :=
  if s.io.qcmd.busy then .next (s.modIo fun io => { io with qcmd := { io.qcmd with busy := false } })
  else if s.io.supcmd.busy then .next (s.modIo fun io => { io with supcmd := { io.supcmd with busy := false } })
  else notNow "QCMD_COMPLETE"

/-! ### BAR0 and the PTP clock -/

/-- A write of PTPSTEP: TIME changes at once (R70). -/
def State.stepTime (s : State) (v : Word) : State := { s with timeNs := s.timeNs + v }

/-- PTPFREQ_WRITE (R70). -/
def execPtpfreqWrite (v : BitVec 32) (s : State) : Res := .next (s.modIo fun io => { io with ptpfreq := v })
/-- PTPSTEP_WRITE (R70). -/
def execPtpstepWrite (v : Word) (s : State) : Res := .next (s.stepTime v)

/-- PTPTIME_READ (R49): the low word latches the high word for the next read. Before READY the register reads zero (R471). -/
def execPtptimeRead (high : Bool) (s : State) : Res :=
  if s.io.ready = false then .next (s.modIo fun io => { io with answers := io.answers ++ [leBytes 4 0] })
  else if high then .next (s.modIo fun io => { io with answers := io.answers ++ [leBytes 4 io.ptpLatch.toNat] })
  else .next (s.modIo fun io =>
    { io with answers := io.answers ++ [leBytes 4 (s.timeNs.extractLsb' 0 32).toNat], ptpLatch := s.timeNs.extractLsb' 32 32 })

/-- DEVSTAT (R50). -/
def State.devstat (s : State) : Word :=
  BitVec.ofNat 64 ((if s.io.lost then 4 else 0) + (if s.resync.isEmpty then 0 else 2) + if s.io.ready then 1 else 0)

/-- QCMD (R51). -/
def QCmd.word (c : QCmd) : BitVec 32 := c.op ++ (if c.busy then 1#1 else 0#1) ++ 0#17 ++ c.res ++ c.qidx

/-- The register at an offset of BAR0 other than PTPTIME; an offset that is not listed reads zero (R49), and before READY every one
but DEVSTAT does (R471). -/
def State.bar0 (s : State) (off : BitVec 32) : Word :=
  if off = 0x008 then s.devstat
  else if s.io.ready = false then 0
  else if off = 0x000 then s.io.qtbase
  else if off = 0x100 then s.io.qcmd.word.zeroExtend 64
  else if off = 0x208 then s.io.ptpfreq.zeroExtend 64
  else if off = 0x210 then Config.ptpstepRead s.free
  else 0

/-- A read of BAR0 by the host (R49). (DEDUCED, log entry 61: eight bytes for each read.) -/
def State.bar0Read (s : State) (off : BitVec 32) : Res :=
  if off = 0x200 then execPtptimeRead false s
  else if off = 0x204 then execPtptimeRead true s
  else .next { s with free := s.free + 1, io := { s.io with answers := s.io.answers ++ [leBytes 8 (s.bar0 off).toNat] } }

/-- BAR0_WRITE (R49, R51): QCMD, PTPFREQ and PTPSTEP take a write; every other offset, and QCMD with OP 0 or 3, ignores it. -/
def execBar0Write (off : BitVec 32) (v : Word) (s : State) : Res :=
  let q := v.extractLsb' 0 10
  if off = 0x100 then
    (if v.extractLsb' 30 2 = 1#2 then .next (s.qcmd 1 q fun s => s.enableQueue q.toNat)
     else if v.extractLsb' 30 2 = 2#2 then .next (s.qcmd 2 q fun s => s.disableQueue q.toNat)
     else .next s)
  else if off = 0x208 then .next (s.modIo fun io => { io with ptpfreq := v.extractLsb' 0 32 })
  else if off = 0x210 then .next (s.stepTime v)
  else .next s

/-! ### Completion records (R65, R66) -/

/-- ACCEPTED. -/
def stAccepted : BitVec 16 := 0x0001
/-- PACKET-INVALID. -/
def stPacket : BitVec 16 := 0x0020
/-- IMAGE-INVALID. -/
def stImage : BitVec 16 := 0x0022
/-- CLASS-DENIED. -/
def stClass : BitVec 16 := 0x0023
/-- CONTEXT-DENIED. -/
def stContext : BitVec 16 := 0x0024
/-- PRED-INVALID. -/
def stPred : BitVec 16 := 0x0025
/-- ARGS-INVALID. -/
def stArgs : BitVec 16 := 0x0026

/-- COMMIT values. -/
def coNone : Byte := 0
/-- COMMITTED. -/
def coCommitted : Byte := 1
/-- PARTIAL. -/
def coPartial : Byte := 2
/-- DISCARDED. -/
def coDiscarded : Byte := 3

/-- A completion record (R65). -/
structure CompRec where
  seq    : BitVec 16
  queue  : Nat
  status : BitVec 16
  cfl    : Byte
  commit : Byte
  tacc   : Word
  tend   : Word
  detail : BitVec 32
  slips  : BitVec 32
deriving DecidableEq, Repr

/-- QID of a queue (R53, R65). -/
def qidOf (q : Nat) : Nat := if q < 1024 then q else 0x8000 + (q - 1024)

/-- The 32 bytes of a completion record. -/
def CompRec.bytes (r : CompRec) : List Byte :=
  leBytes 2 r.seq.toNat ++ leBytes 2 (qidOf r.queue) ++ leBytes 2 r.status.toNat ++ [r.cfl, r.commit] ++
    leBytes 8 r.tacc.toNat ++ leBytes 8 r.tend.toNat ++ leBytes 4 r.detail.toNat ++ leBytes 4 r.slips.toNat

/-- A record store: all 32 bytes as one access, with release to HO and PK (R65, R380, R392). -/
def State.writeRecord (s : State) (ctx : BitVec 12) (va : Word) (r : CompRec) : State :=
  ((s.release .launch 0x18).agentWrite ctx va r.bytes).1

/-- HEAD of a queue: it passes an entry once the entry's first record has been stored, in index order (R57). Only a control
packet waits for its first record. (DEDUCED, log entry 28: HEAD behind a waiting control entry.) -/
def Queue.headNow (x : Queue) : BitVec 32 :=
  let lags (e : Entry) : Bool := e.era == x.era && (match e.kind with | .launch _ => false | _ => true)
  match x.entries.find? lags with
  | some e => e.index
  | none => x.next

/-- HEAD is stored again when it has moved (R57, R63), but not while the queue is DISABLED. (DESIGN CHOICE, log entry 28.) -/
def State.moveHead (s : State) (q : Nat) : State :=
  let x := s.queue q
  if x.headNow = x.head ∨ x.state = .disabled then s else (s.setQueue q { x with head := x.headNow }).writeHdr q

/-- The last record of an accepted entry is stored, and the entry has completed. -/
def State.recordEntry (s : State) (q : Nat) (e : Entry) (status : BitVec 16) (commit : Byte) (detail slips : BitVec 32) : State :=
  let s := s.writeRecord e.ctx e.compl
    { seq := e.seq, queue := q, status, cfl := 3, commit, tacc := e.tacc, tend := s.timeNs, detail, slips }
  let x := s.queue q
  s.setQueue q { x with entries := x.entries.erase e, finished := (e.era, e.ord, status) :: x.finished }

/-- An accepted entry completes. -/
def State.finishEntry (s : State) (q : Nat) (e : Entry) (status : BitVec 16) (commit : Byte) (detail slips : BitVec 32) : State :=
  (s.recordEntry q e status commit detail slips).moveHead q

/-- A control packet completes with OK. -/
def State.finishOk (s : State) (q : Nat) (e : Entry) : State := s.finishEntry q e stOk coCommitted 0 0

/-- The entry of a task. -/
def State.entryOf (s : State) (q t : Nat) : Option Entry :=
  (s.queue q).entries.find? fun e => decide (e.kind = .launch t)

/-! ### Region control blocks (R11 to R18) -/

/-- A region control block. -/
structure Rcb where
  kind   : Nat
  ver    : Nat
  ovr    : BitVec 16
  attr   : BitVec 32
  ctx    : BitVec 16
  tiles  : Nat
  hbws   : Nat
  galb   : Nat
  quant  : Nat
  deadln : Word
  up     : Word
  child  : Word
  next   : Word
  save   : Word
  rsv    : Bool
deriving DecidableEq, Repr

/-- The 128 bytes of a region control block (R11). -/
def rcbOf (l : List Byte) : Rcb :=
  { kind := numAt l 0 1, ver := numAt l 1 1, ovr := BitVec.ofNat 16 (numAt l 2 2),
    attr := BitVec.ofNat 32 (numAt l 4 4), ctx := BitVec.ofNat 16 (numAt l 8 2), tiles := numAt l 10 2,
    hbws := numAt l 12 2, galb := numAt l 0x10 4, quant := numAt l 0x14 4,
    deadln := BitVec.ofNat 64 (numAt l 0x18 8), up := BitVec.ofNat 64 (numAt l 0x20 8),
    child := BitVec.ofNat 64 (numAt l 0x28 8), next := BitVec.ofNat 64 (numAt l 0x30 8),
    save := BitVec.ofNat 64 (numAt l 0x38 8), rsv := !(zeroAt l 0x0E 2 && zeroAt l 0x48 56) }

/-- Bit numbers of OVR (R13). -/
def Rcb.sets (r : Rcb) (b : Nat) : Bool := r.ovr.getLsbD b

/-- What R17 asks of every node of a path by itself. -/
def Rcb.ok (r : Rcb) : Bool :=
  (r.kind == 1 || r.kind == 2) && r.ver == 1 && !r.rsv && r.ovr.extractLsb' 12 4 == 0 && r.attr.extractLsb' 11 21 == 0 &&
  (!r.sets 0 || r.ctx.extractLsb' 12 4 == 0) &&
  (!r.sets 1 || r.attr.extractLsb' 0 2 != 3) && (!r.sets 3 || r.attr.extractLsb' 5 2 != 3) &&
  (!r.sets 4 || r.attr.extractLsb' 7 2 != 3) &&
  (!r.sets 7 || decide (1 ≤ r.tiles ∧ r.tiles ≤ 1024)) && (!r.sets 8 || decide (r.galb ≤ 524288)) &&
  (!r.sets 9 || decide (1 ≤ r.hbws ∧ r.hbws ≤ 1024)) && (!r.sets 10 || decide (1024 ≤ r.quant)) &&
  (if r.kind = 1 then r.save == 0 && r.child != 0
   else r.child == 0 && r.save != 0 && r.save.extractLsb' 0 12 == 0)

/-- An RCB address is 128-byte aligned with tag 0. -/
def rcbAddr (va : Word) : Bool := va.extractLsb' 0 7 == 0 && tagOf va == 0

/-- The caps that a node's RCB sets (R15), with its address, its place in the device and its bytes. -/
def capsOf (va : Word) (place : Option Nat) (l : List Byte) : CapNode :=
  let r := rcbOf l
  { rcb := va, place, bytes := l, tiles := if r.sets 7 then some r.tiles else none, galb := if r.sets 8 then some r.galb else none,
    hbws := if r.sets 9 then some r.hbws else none, quant := if r.sets 10 then some r.quant else none }

/-- A task is live: it has been accepted and has not completed. -/
def State.liveTasks (s : State) : List Task := (s.tasks.map fun p => p.2).filter fun k => decide (k.state ≠ .done)

/-- The bytes of a node: those that acceptance took when no task beneath it was live, for as long as some task beneath it lives, or
those that it holds now (R18). -/
def State.nodeBytes (s : State) (ctx : BitVec 12) (va : Word) (place : Option Nat) (now : List Byte) : List Byte :=
  match s.liveTasks.findSome? fun k => k.nodeAt ctx va place with
  | some c => c.bytes
  | none => now

/-- The nodes of a path, from the leaf to the root, or none where R17 rejects it. `fuel` is how many nodes it may still hold. -/
def rcbPath (ctx : BitVec 12) (leaf : Bool) : Nat → State → Word → State × Option (List CapNode)
  | 0, s, _ => (s, none)
  | fuel + 1, s, va =>
    if !rcbAddr va then (s, none)
    else match s.agentRead ctx va 128 with
      | (s, none) => (s, none)
      | (s, some now) =>
        let place := s.globalOf (agentWho ctx) va .read
        let c := capsOf va place (s.nodeBytes ctx va place now)
        let r := rcbOf c.bytes
        if !r.ok || r.kind != (if leaf then 2 else 1) then (s, none)
        else if r.up = 0 then (s, if r.ovr.extractLsb' 0 11 = 0x7FF#11 then some [c] else none)
        else match rcbPath ctx false fuel s r.up with
          | (s, some p) => (s, some (c :: p))
          | (s, none) => (s, none)

/-- The RCB of a node. -/
def CapNode.fields (c : CapNode) : Rcb := rcbOf c.bytes

/-- The nearest node of a path that sets field b (R14). -/
def pathField (b : Nat) (p : List CapNode) : Option Rcb := (p.map CapNode.fields).find? fun r => r.sets b

/-- A field of ATTR of the nearest node that sets it. -/
def pathAttr (b lo n : Nat) (p : List CapNode) : Nat :=
  match pathField b p with
  | some r => (r.attr.toNat >>> lo) % 2 ^ n
  | none => 0

/-- What a launch resolves from its RCB path (R14 to R16). -/
structure Resolved where
  ctx      : BitVec 12
  cls      : Class
  prio     : BitVec 3
  fdom     : FaultDomain
  fnode    : Nat
  redun    : Redun
  static   : Bool
  debug    : Bool
  path     : List CapNode
  tilecap  : Nat
  quantum  : Nat
  deadline : Word
  save     : Word
deriving DecidableEq, Repr

/-- The smaller of two deadlines, 0 standing for none (R16). -/
def minDeadline (a b : Word) : Word := if a = 0 then b else if b = 0 then a else if a.toNat ≤ b.toNat then a else b

/-- What a path resolves to and a launch packet's deadline, or none where R17 rejects the launch. -/
def State.resolve (s : State) (ctx : BitVec 12) (va dl : Word) : State × Option Resolved :=
  match rcbPath ctx true 8 s va with
  | (s, none) => (s, none)
  | (s, some p) =>
    match taskClass (pathAttr 1 0 2 p) with
    | none => (s, none)
    | some cls =>
      let redun : Redun := if pathAttr 4 7 2 p = 1 then .pair else if pathAttr 4 7 2 p = 2 then .twin else .none
      let fdom : FaultDomain := if pathAttr 3 5 2 p = 1 then .region else if pathAttr 3 5 2 p = 2 then .context else .task
      let static := pathAttr 5 9 1 p == 1
      let d1 := match pathField 11 p with | some r => r.deadln | none => 0
      let deadline := minDeadline d1 dl
      if redun = .twin ∧ static = true then (s, none)
      else if cls = .deadline ∧ deadline = 0 then (s, none)
      else if s.liveTasks.any fun k => (match p, k.path with | c :: _, d :: _ => (k.nodeAt ctx va c.place) == some d | _, _ => false) then (s, none)
      else
        (s, some
          { ctx := (match pathField 0 p with | some r => r.ctx.extractLsb' 0 12 | none => 0), cls,
            prio := BitVec.ofNat 3 (pathAttr 2 2 3 p), fdom,
            fnode := p.findIdx fun c => c.fields.sets 3, redun, static,
            debug := pathAttr 6 10 1 p == 1, path := p,
            tilecap := p.foldl (fun m c => min m (c.tiles.getD 1024)) 1024,
            quantum := (p.findSome? fun c => c.quant).getD 1024, deadline,
            save := (match p with | c :: _ => c.fields.save | [] => 0) })

/-! ### Kernel images (R19 to R24) -/

/-- Numbers are strictly ascending. -/
def ascending : List Nat → Bool
  | a :: b :: r => decide (a < b) && ascending (b :: r)
  | _ => true

/-- A table of `n` records of `k` bytes, cut into its records. -/
def recordsOf (l : List Byte) (k : Nat) : Nat → List (List Byte)
  | 0 => []
  | n + 1 => l.take k :: recordsOf (l.drop k) k n

/-- A table that acceptance reads: none when it cannot be read in full. -/
def State.readTable (s : State) (ctx : BitVec 12) (va : Word) (k n : Nat) : State × Option (List (List Byte)) :=
  match s.agentRead ctx va (k * n) with
  | (s, some l) => (s, some (recordsOf l k n))
  | (s, none) => (s, none)

/-- A schedule-table entry by itself (R20). -/
def schedOk (e : List Byte) : Bool :=
  numAt e 8 8 % 16 == 0 && decide (numAt e 16 2 ≤ 16384) && zeroAt e 18 14

/-- A chain-table entry (R21, R24). -/
def chainOk (vgrid : Nat) (e : List Byte) : Bool :=
  decide (numAt e 0 2 < vgrid) && decide (numAt e 2 1 ≤ 4) && zeroAt e 3 5

/-- The chain tables of every schedule are readable and right. -/
def chainTablesOk (ctx : BitVec 12) (vgrid : Nat) : List (List Byte) → State → State × Bool
  | [], s => (s, true)
  | e :: r, s =>
    match s.readTable ctx (BitVec.ofNat 64 (numAt e 8 8)) 16 (numAt e 16 2) with
    | (s, some t) => if t.all (chainOk vgrid) then chainTablesOk ctx vgrid r s else (s, false)
    | (s, none) => (s, false)

/-- The image header by itself (R19, R24). -/
def headerOk (l : List Byte) (sup : Bool) (redun : Redun) : Bool :=
  numAt l 0 4 == 0x4E554B49 && numAt l 4 2 == 1 && decide (numAt l 6 2 ≤ if sup then 1 else 0) &&
  numAt l 8 8 % 4 == 0 && decide (1 ≤ numAt l 0x10 2 ∧ numAt l 0x10 2 ≤ 1024) &&
  decide (1 ≤ numAt l 0x12 1 ∧ numAt l 0x12 1 ≤ 8) && zeroAt l 0x13 1 && decide (numAt l 0x14 2 ≤ 4096) &&
  decide (numAt l 0x16 2 ≤ 256) && numAt l 0x18 8 % 32 == 0 && numAt l 0x20 8 % 32 == 0 &&
  numAt l 0x28 8 % 64 == 0 && zeroAt l 0x34 4 &&
  (match redun with
   | .none => true
   | .pair => decide (numAt l 0x10 2 ≤ 512)
   | .twin => decide (numAt l 0x10 2 ≤ 256))

/-- The kernel image at an address, or none where R24 rejects it. -/
def State.checkImage (s : State) (ctx : BitVec 12) (va : Word) (sup : Bool) (redun : Redun) : State × Option KernelImage :=
  if va.extractLsb' 0 6 ≠ 0 ∨ tagOf va ≠ 0 then (s, none)
  else match s.agentRead ctx va 64 with
    | (s, none) => (s, none)
    | (s, some l) =>
      if !headerOk l sup redun then (s, none)
      else
        let vgrid := numAt l 0x10 2
        let safetab : Word := BitVec.ofNat 64 (numAt l 0x20 8)
        match s.readTable ctx (BitVec.ofNat 64 (numAt l 0x18 8)) 32 (numAt l 0x12 1) with
        | (s, none) => (s, none)
        | (s, some sched) =>
          let sizes := sched.map fun e => numAt e 0 8
          if !(sched.all schedOk && ascending sizes) then (s, none)
          else match chainTablesOk ctx vgrid sched s with
            | (s, false) => (s, none)
            | (s, true) =>
              match s.readTable ctx safetab 32 (numAt l 0x14 2) with
              | (s, none) => (s, none)
              | (s, some safe) =>
                if !(ascending (safe.map fun e => numAt e 0 8) && safe.all fun e => zeroAt e 8 8) then (s, none)
                else
                  (s, some
                    { kmode := numAt l 6 2 == 1, entry := BitVec.ofNat 64 (numAt l 8 8), vgrid,
                      sizemax := sizes.map fun n => BitVec.ofNat 64 n, safetab, nsafe := numAt l 0x14 2,
                      shapetab := BitVec.ofNat 64 (numAt l 0x28 8), nshape := numAt l 0x16 2,
                      argb := numAt l 0x30 4, sizeva := BitVec.ofNat 64 (numAt l 0x38 8) })

/-! ### Entries (R60 to R62) -/

/-- A queue entry as its 64 bytes lay it out (R60). -/
structure Packet where
  typ    : Nat
  npred  : Nat
  seq    : BitVec 16
  cop    : Nat
  rcb    : Word
  kimg   : Word
  args   : Word
  size   : Word
  compl  : Word
  deadln : Word
  preds  : List (BitVec 16)
  wrong  : Bool
deriving DecidableEq, Repr

/-- The packet of 64 bytes. `wrong` gathers what R63 rejects with PACKET-INVALID. -/
def packetOf (l : List Byte) : Packet :=
  let typ := numAt l 0 1
  let npred := numAt l 1 1
  let cop := numAt l 4 1
  let all : List (BitVec 16) := (List.range 4).map fun i => BitVec.ofNat 16 (numAt l (0x38 + 2 * i) 2)
  let badType :=
    if typ = 1 then !zeroAt l 4 4
    else if typ = 2 then
      !(decide (cop ≤ 2) && zeroAt l 5 3 && zeroAt l 0x10 24 && zeroAt l 0x30 8) || (cop != 2 && !zeroAt l 8 8)
    else true
  { typ, npred, seq := BitVec.ofNat 16 (numAt l 2 2), cop, rcb := BitVec.ofNat 64 (numAt l 8 8),
    kimg := BitVec.ofNat 64 (numAt l 0x10 8), args := BitVec.ofNat 64 (numAt l 0x18 8),
    size := BitVec.ofNat 64 (numAt l 0x20 8), compl := BitVec.ofNat 64 (numAt l 0x28 8),
    deadln := BitVec.ofNat 64 (numAt l 0x30 8), preds := all.take npred,
    wrong := badType || decide (4 < npred) || (all.drop npred).any fun p => p != 0 }

/-- The distance of a predecessor (R61). -/
def predDist (seq p : BitVec 16) : Nat := (seq - p).toNat

/-- What the predecessors of an entry say. -/
inductive PredState where
  | waits | failed | done
deriving DecidableEq, Repr

/-- The predecessors of an entry, by era and number (R61): a failed one decides at once. -/
def Queue.predState (x : Queue) (era : Nat) (preds : List Nat) : PredState :=
  let status (o : Nat) : Option (BitVec 16) :=
    match x.finished.find? fun f => f.1 == era && f.2.1 == o with
    | some f => some f.2.2
    | none => none
  if preds.any fun o => (match status o with | some c => c != stOk && c != stSlipped | none => false) then .failed
  else if preds.all fun o => (status o).isSome then .done
  else .waits

/-! ### CANCEL (R62) -/

/-- A node of the subtree walk has a valid KIND and VER. -/
def nodeOk (l : List Byte) : Bool := (numAt l 0 1 == 1 || numAt l 0 1 == 2) && numAt l 1 1 == 1

/-- The addresses that a CANCEL visits: `todo` are the nodes to look at, `seen` those visited. A node that is misaligned,
cannot be read or is not valid ends its branch. -/
def walkTree (ctx : BitVec 12) : Nat → State → List Word → List Word → State × List Word
  | 0, s, _, seen => (s, seen)
  | _, s, [], seen => (s, seen)
  | fuel + 1, s, va :: todo, seen =>
    if va = 0 ∨ seen.contains va = true then walkTree ctx fuel s todo seen
    else if !rcbAddr va then walkTree ctx fuel s todo seen
    else match s.agentRead ctx va 128 with
      | (s, none) => walkTree ctx fuel s todo seen
      | (s, some l) =>
        if !nodeOk l then walkTree ctx fuel s todo seen
        else if 65536 ≤ seen.length then (s, seen)
        else walkTree ctx fuel s ((rcbOf l).child :: (rcbOf l).next :: todo) (va :: seen)

/-- The addresses of TARGET and of what lies beneath it, or none when TARGET is not valid. -/
def State.subtree (s : State) (ctx : BitVec 12) (target : Word) : State × Option (List Word) :=
  if !rcbAddr target then (s, none)
  else match s.agentRead ctx target 128 with
    | (s, none) => (s, none)
    | (s, some l) =>
      if !nodeOk l then (s, none)
      else
        let (s, seen) := walkTree ctx 200000 s [(rcbOf l).child] [target]
        (s, some seen)

/-- A CANCEL runs: every live task that it reaches is to end with CANCELLED. -/
def State.runCancel (s : State) (q : Nat) (e : Entry) (target : Word) : State :=
  let ctx := e.ctx
  match s.subtree ctx target with
  | (s, none) => s.finishEntry q e stRcb coNone 0 0
  | (s, some nodes) =>
    let places := nodes.filterMap fun va => s.globalOf (agentWho ctx) va .read
    let reached (k : Task) : Bool := match k.path with
      | c :: _ => nodes.contains c.rcb || (match c.place with | some g => places.contains g | none => false)
      | [] => false
    let hit := s.tasks.filter fun p => p.2.ctx == ctx && reached p.2 && decide (p.2.state ≠ .done)
    let s := hit.foldl (fun (s : State) p => s.endTask p.1 stCancelled 0) s
    let x := s.queue q
    s.setQueue q { x with entries := x.entries.map fun y =>
      if y = e then { y with waits := false, kind := .cancel target (some (hit.map fun p => p.1)) } else y }

/-- An entry whose predecessors have all completed goes on: a launch becomes READY, a MARK completes, a CANCEL runs (R61,
R62). -/
def State.proceedEntry (s : State) (q : Nat) (e : Entry) : State :=
  let x := s.queue q
  let awake := { e with waits := false }
  let s := s.setQueue q { x with entries := x.entries.map fun y => if y = e then awake else y }
  match e.kind with
  | .launch t => s.modTask t fun k => { k with state := .ready, readyAt := s.tick, clock := s.io.known }
  | .mark => s.finishOk q awake
  | .drain => s
  | .cancel target _ => s.runCancel q awake target

/-- An entry with a failed predecessor completes with PRED-FAILED and does not run (R61). -/
def State.failEntry (s : State) (q : Nat) (e : Entry) : State :=
  let s := s.finishEntry q e stPredFailed coNone 0 0
  match e.kind with
  | .launch t => { s with tasks := kdel s.tasks t }
  | _ => s

/-- The entry's task has been ended and waits for its record alone: a fault end or a CANCEL comes before what a predecessor says
(R82). -/
def State.entryEnds (s : State) (e : Entry) : Bool :=
  match e.kind with
  | .launch t => (match s.task? t with | some k => k.ending.isSome | none => false)
  | _ => false

/-- What an entry's predecessors say now is acted upon. -/
def State.settleEntry (s : State) (q : Nat) (e : Entry) : State :=
  if s.entryEnds e then s
  else match (s.queue q).predState e.era e.preds with
    | .waits => s
    | .failed => s.failEntry q e
    | .done => s.proceedEntry q e

/-- PREDECESSOR_COMPLETE (R61). -/
def execPredecessorComplete (q : BitVec 11) (seq : BitVec 16) (s : State) : Res :=
  let x := s.queue q.toNat
  let due (e : Entry) : Bool := e.waits && e.seq == seq && x.predState e.era e.preds != .waits && !s.entryEnds e
  match x.entries.find? due with
  | some e => if s.io.lost then notNow "PREDECESSOR_COMPLETE" else .next (s.settleEntry q.toNat e)
  | none => notNow "PREDECESSOR_COMPLETE"

/-- DRAIN_COMPLETE (R62): every earlier entry of the queue has completed, those from before its last ENABLE included. -/
def execDrainComplete (q : BitVec 11) (s : State) : Res :=
  let x := s.queue q.toNat
  let due (e : Entry) : Bool :=
    decide (e.kind = .drain) && !e.waits && !x.entries.any fun y => decide (y.era < e.era ∨ (y.era = e.era ∧ y.ord < e.ord))
  match x.entries.find? due with
  | some e => if s.io.lost then notNow "DRAIN_COMPLETE" else .next (s.finishOk q.toNat e)
  | none => notNow "DRAIN_COMPLETE"

/-- CANCEL_COMPLETE (R62): every task that it ends has written its record. -/
def execCancelComplete (q : BitVec 11) (seq : BitVec 16) (s : State) : Res :=
  let due (e : Entry) : Bool :=
    e.seq == seq && (match e.kind with
      | .cancel _ (some l) => !l.any fun t => (s.task? t).isSome
      | _ => false)
  match (s.queue q.toNat).entries.find? due with
  | some e => if s.io.lost then notNow "CANCEL_COMPLETE" else .next (s.finishOk q.toNat e)
  | none => notNow "CANCEL_COMPLETE"

/-! ### Acceptance (R63) -/

/-- Some tile of quad g belongs to a task: a quad holds tiles of at most one task (R83). -/
def State.quadBusy (s : State) (g : Nat) : Bool := s.tiles.any fun p => p.1 / 4 == g && p.2.task.isSome

/-- The free quads of a die. -/
def State.freeQuads (s : State) (d : Nat) : Nat := ((List.range 64).filter fun i => !s.quadBusy (64 * d + i)).length

/-- The home die of a task (R76). -/
def State.homeDie (s : State) (rcb : Word) : BitVec 2 :=
  if ownerOf rcb < 4 then BitVec.ofNat 2 (ownerOf rcb)
  else
    let most := max (max (s.freeQuads 0) (s.freeQuads 1)) (max (s.freeQuads 2) (s.freeQuads 3))
    if s.freeQuads 0 = most then 0 else if s.freeQuads 1 = most then 1 else if s.freeQuads 2 = most then 2 else 3

/-- The counters of a new task (R460). -/
def Counters.reset : Counters :=
  { instr := 0, cbdone := Vector.replicate 5 0, sbytes := 0, leasew := 0, latecnt := 0, latesum := 0, preempt := 0,
    diverg := 0, parity := 0 }

/-- The mode that the record descriptor table gives a context (R463). -/
def State.recModeOf (s : State) (ctx : BitVec 12) : Byte :=
  match kfind s.io.recTable ctx.toNat with
  | some r => if r.mode.toNat ≤ 2 then r.mode else 0
  | none => 0

/-- The task of an accepted launch, in WAITING. -/
def State.newTask (s : State) (q : Nat) (index : BitVec 32) (p : Packet) (r : Resolved) (g : KernelImage) : Task :=
  let (k, ovr) := g.select p.size.toNat
  { queue := BitVec.ofNat 11 q, seq := p.seq, index, compl := p.compl, tacc := s.timeNs, rcb := p.rcb, save := r.save,
    ctx := r.ctx, cls := r.cls, prio := r.prio, fdom := r.fdom, fnode := r.fnode, redun := r.redun, static := r.static,
    debug := r.debug, path := r.path, tilecap := r.tilecap, quantum := r.quantum, deadline := r.deadline, image := g,
    size := p.size, home := s.homeDie p.rcb, state := .waiting, ranOnce := false, order := s.nextTask, readyAt := s.tick,
    placedAt := 0, tileMap := [], tileMap1 := [],
    regions := (match s.loader.find? fun e => e.1 == r.ctx && e.2.1 == p.kimg with | some e => e.2.2 | none => []),
    phases := [{ phase := 0, cls := BitVec.ofNat 8 k, ovr }], runBase := 0, runSince := s.tick, quantSince := s.tick,
    quantDone := false, rccBase := 0, rccSince := s.tick, rccPrev := 0, slipHold := [], slipSince := none, slipFrom := 0, slips := 0,
    bars := [], ctr := Counters.reset, saved := [], semAdds := [], spentAt := none, tags := [], allocs := [], shadows := [], clock := Clock.zero,
    compare := [], mismatch := none, recMode := s.recModeOf r.ctx, ending := none, endTick := 0 }

/-- The argument copy at SAVE (R63): all of it is written, or none. -/
def State.copyArgs (s : State) (ctx : BitVec 12) (args save : Word) (n : Nat) : State × Bool :=
  if n = 0 then (s, true)
  else if args = 0 ∨ args.extractLsb' 0 6 ≠ 0 then (s, false)
  else match s.agentRead ctx args n with
    | (s, none) => (s, false)
    | (s, some l) =>
      if !s.agentWritable ctx save (n - 1) then (s, false)
      else match s.agentWrite ctx save l with
        | (t, true) => (t, true)
        | (_, false) => (s, false)

/-- What the checks of a launch come to: a status that rejects it, or a task. (DEDUCED, log entry 27: the context of the reads.) -/
def State.checkLaunch (s : State) (q : Nat) (index : BitVec 32) (p : Packet) : State × Except (BitVec 16) Task :=
  let x := s.queue q
  match s.resolve x.ctx p.rcb p.deadln with
  | (s, none) => (s, .error stRcb)
  | (s, some r) =>
    match s.checkImage x.ctx p.kimg (1024 ≤ q) r.redun with
    | (s, none) => (s, .error stImage)
    | (s, some g) =>
      if r.ctx ≠ x.ctx then (s, .error stContext)
      else if r.cls.code < x.cls.code then (s, .error stClass)
      else if 65536 < g.argb then (s, .error stArgs)
      else match s.copyArgs r.ctx p.args r.save g.argb with
        | (s, false) => (s, .error stArgs)
        | (s, true) => (s, .ok (s.newTask q index p r g))

/-- An entry is rejected: its one record, and its dependents will see its status (R63).
(DESIGN CHOICE, log entry 77: TACC of a rejection record.) -/
def State.rejectEntry (s : State) (q : Nat) (ord : Nat) (p : Packet) (status : BitVec 16) : State :=
  let s := s.writeRecord (s.queue q).ctx p.compl
    { seq := p.seq, queue := q, status, cfl := 3, commit := coNone, tacc := s.timeNs, tend := s.timeNs, detail := 0, slips := 0 }
  let x := s.queue q
  s.setQueue q { x with finished := (x.era, ord, status) :: x.finished }

/-- An accepted entry joins its queue, and acts at once when it waits for nothing. -/
def State.addEntry (s : State) (q : Nat) (e : Entry) : State :=
  let x := s.queue q
  (s.setQueue q { x with entries := x.entries ++ [e] }).settleEntry q e

/-- A launch is accepted: its first record, and its task, whose accesses follow all that the command processors know of (R392). -/
def State.acceptLaunch (s : State) (q : Nat) (e : Entry) (k : Task) : State :=
  let t := s.nextTask
  let s := { (s.setTask t { k with clock := s.io.known }) with nextTask := t + 1 }
  let s := s.writeRecord k.ctx e.compl
    { seq := e.seq, queue := q, status := stAccepted, cfl := 1, commit := coNone, tacc := e.tacc, tend := 0, detail := 0,
      slips := 0 }
  s.addEntry q { e with kind := .launch t }

/-- The steps of R63 for the entry at `next`, once it has been read. -/
def State.takeEntry (s : State) (q : Nat) (l : List Byte) : State :=
  let x := s.queue q
  let p := packetOf l
  if p.seq ≠ x.expected then s.queueError q errSeq x.next
  else if p.compl = 0 ∨ p.compl.extractLsb' 0 5 ≠ 0 ∨ s.agentWritable x.ctx p.compl 1 = false then
    s.queueError q errCompl x.next
  else
    let ord := x.count
    let s := s.setQueue q { x with expected := x.expected + 1, next := x.next + 1, count := x.count + 1 }
    let preds := (p.preds.filter fun y => predDist p.seq y ≤ ord).map fun y => ord - predDist p.seq y
    let e : Entry := { index := x.next, seq := p.seq, era := x.era, ord, preds, compl := p.compl, tacc := s.timeNs,
                       ctx := x.ctx, kind := .mark, waits := true }
    let s :=
      if p.wrong then s.rejectEntry q ord p stPacket
      else if p.preds.any fun y => predDist p.seq y = 0 ∨ 4096 < predDist p.seq y then s.rejectEntry q ord p stPred
      else if p.typ = 2 then
        s.addEntry q { e with kind := if p.cop = 0 then .mark else if p.cop = 1 then .drain else .cancel p.rcb none }
      else match s.checkLaunch q x.next p with
        | (s, .error status) => s.rejectEntry q ord p status
        | (s, .ok k) => s.acceptLaunch q e k
    s.moveHead q

/-- Queue q has an entry before TAIL that may be read now (R54): at most 64 accepted entries wait, and no DRAIN is under way (R61, R62). -/
def Queue.servable (x : Queue) : Bool :=
  decide (x.state = .active) && decide ((x.next - x.head).toNat < (x.tail - x.head).toNat) && decide ((x.entries.filter fun e => e.waits).length < 64) &&
  !x.entries.any fun e => decide (e.kind = .drain)

/-- The place of a queue's class and priority in the order of R59. (DEDUCED, log entry 23: DEADLINE queues are one group.) -/
def Queue.group (x : Queue) : Nat := if x.cls = .deadline then 0 else 8 * x.cls.code + (7 - x.prio.toNat)

/-- The queue that R59 serves next. -/
def State.nextQueue (s : State) : Option Nat :=
  let ready := s.io.queues.filter fun p => p.2.servable
  let best := ready.foldl (fun m p => min m p.2.group) 100
  let peers := (ready.filter fun p => p.2.group == best).map fun p => p.1
  match kfind s.io.lastTurn best with
  | some last =>
    match peers.find? fun q => last < q with
    | some q => some q
    | none => peers.head?
  | none => peers.head?

/-- What the command processors read for the entry at `next` (R56): record mode logs it, and replay mode takes it from its
record (R464, R465). None while the log is full, or the record is missing. -/
def State.entryLine (s : State) (q : Nat) (x : Queue) : Option (State × Option (List Byte)) :=
  let mode := s.recModeOf x.ctx
  let head (l : List Byte) : Bool := leNat (l.take 2) == qidOf q
  if mode = 2 then (s.logFind x.ctx 1 x.next.toNat fun _ l => head l).map fun l => (s, some ((l.drop 2).take 64))
  else
    match s.agentRead x.ctx (x.hdr + 0x80 + BitVec.ofNat 64 (64 * (x.next.toNat % x.nent))) 64 with
    | (s, none) => some (s, none)
    | (s, some l) =>
      if mode = 1 then (s.logAppend x.ctx 1 0xFFFF x.next.toNat (leBytes 2 (qidOf q) ++ l)).map fun s => (s, some l)
      else some (s, some l)

/-- QUEUE_ENTRY (R63): the command processors read one entry. -/
def execQueueEntry (q : BitVec 11) (s : State) : Res :=
  if s.nextQueue = some q.toNat ∧ s.io.serves = true then
    let x := s.queue q.toNat
    let s := s.modIo fun io => { io with lastTurn := kset io.lastTurn x.group q.toNat }
    match s.entryLine q.toNat x with
    | none => notNow "QUEUE_ENTRY"
    | some (s, none) => .next (s.queueError q.toNat errEntry x.next)
    | some (s, some l) => .next (s.takeEntry q.toNat l)
  else notNow "QUEUE_ENTRY"

/-- TAIL_UPDATE (R56, R57): a new TAIL is read with acquire effect for HO, and more than NENT unread entries are an overrun. -/
def execTailUpdate (q : BitVec 11) (s : State) : Res :=
  let x := s.queue q.toNat
  if x.state ≠ .active ∨ s.io.serves = false then notNow "TAIL_UPDATE"
  else match s.agentRead x.ctx x.hdr 64 with
    | (_, none) => notNow "TAIL_UPDATE"
    | (s, some l) =>
      let tail : BitVec 32 := BitVec.ofNat 32 (numAt l 0 4)
      if tail = x.tail then notNow "TAIL_UPDATE"
      else
        let s := s.acquireVa .launch (agentWho x.ctx) 0x10 x.hdr
        let s := s.setQueue q.toNat { x with tail }
        if x.nent < (tail - x.head).toNat then .next (s.queueError q.toNat errOverrun x.head) else .next s

end Sys2Proof.Machine
end

