-- ==== Sys2Proof/Machine/Matrix.lean ====
section
/-! DEFINITION. The quad matrix array and its control blocks (R304 to R322), with the block arithmetic of R270 to R275. -/
namespace Sys2Proof.Machine

/-! ### Elements and weight planes (R270, R304, R305) -/

/-- The element integer m of a raw element (R270). -/
def mxInt (f : Byte) (m : MxFmt) (x : Nat) : Int :=
  let float (g : FloatFmt) : Int :=
    match g.decode x with
    | .fin s n e => Val.units (-(m.frac : Int)) (.fin s n e)
    | .inf s => Val.units (-(m.frac : Int)) (.fin s 57344 0)
    | _ => 0
  match f.toNat with
  | 0x31 => float e4m3
  | 0x32 => float e5m2
  | 0x33 => float e3m2
  | 0x34 => float e2m3
  | 0x35 => float e2m1
  | 0x17 => intOf 8 false x
  | _ => intOf m.bits true x

/-- The byte of a plane that holds an element, and the position of its lowest bit. -/
def cellOf (m : MxFmt) (row col : Nat) : Nat × Nat := (row * 512 + col / m.group, col % m.group * (8 / m.group))

/-- A raw element of a plane. -/
def State.cell (s : State) (g : Nat) (p : BitVec 2) (m : MxFmt) (row col : Nat) : Nat :=
  let (o, b) := cellOf m row col
  (memGet s.mem (gPlane g p.toNat o)).toNat / 2 ^ b % 2 ^ m.bits

/-- A raw element is put into a plane. -/
def State.setCell (s : State) (g : Nat) (p : BitVec 2) (m : MxFmt) (row col x : Nat) : State :=
  let (o, b) := cellOf m row col
  let a := gPlane g p.toNat o
  let old := (memGet s.mem a).toNat
  let w := 8 / m.group
  let new := old - (old / 2 ^ b % 2 ^ w) * 2 ^ b + (x % 2 ^ m.bits) * 2 ^ b
  { s with mem := memSet s.mem a (BitVec.ofNat 8 new) }

/-- A plane holds zeros, and its parity bits fit them. -/
def State.zeroPlane (s : State) (g : Nat) (p : BitVec 2) : State :=
  { s with mem := memZero s.mem (gPlane g p.toNat 0) Config.planeBytes }.modPlane g p fun x => { x with upset := [] }

/-! ### MX.WLOAD (R309) -/

/-- The elements of a unit go to rows and columns, from element number e on. -/
def putElems (g : Nat) (p : BitVec 2) (m : MxFmt) (kp c0 : Nat) : List Nat → Nat → State → State
  | [], _, s => s
  | x :: r, e, s => putElems g p m kp c0 r (e + 1) (s.setCell g p m (e % kp) (c0 + e / kp) x)

/-- One iteration of a WLOAD into the home plane of tile P. -/
def iterWload (s : State) (j : Job) : Eio Done :=
  let g := quadOf j.P
  let p := posOf j.P
  match mxFmt j.cb.w0.fmt with
  | none => .ok s { out := [], count := 0 }
  | some m =>
    let n := unitOf j.cb.w0.fmt
    j.at s j.cb.w0 0 n fun a =>
    (j.read s 0 a n false).then fun s d =>
    let k := (fmtElems j.cb.w0.fmt).2
    let e := (s.engine j.P j.e).count
    let room := j.cb.krows * (m.columns - j.cb.c0) - e
    let s := putElems g p m j.cb.krows j.cb.c0 ((elemsOf m.bits k d.raw).take room) e s
    if room < k then j.fault s .badaddr a else .ok s { out := d.raw, count := k }

/-- An opcode of the matrix array under its lease. `opening` is what the CB does at the start of its step 2, before it looks for a ring
slot. -/
def matrixStep (s : State) (P : TileId) (op : Nat) (name : String) (opening : State → Job → Eio Unit)
    (iter : State → Job → Eio Done) : Res :=
  match s.inBody P .mx op with
  | none => notNow name
  | some j =>
    if s.unitReady P .mx = false then notNow name
    else if (s.engine P .mx).started then bodyStep s P .mx op name iter
    else match opening s j with
      | .ok t _ => bodyStep (j.mod t fun x => { x with started := true }) P .mx op name iter
      | .held t => .next t
      | .busy _ => notNow name

/-- Nothing happens at the start of step 2. -/
def noOpening (s : State) (_ : Job) : Eio Unit := .ok s ()

/-- The start of a WLOAD's step 2: its plane holds zeros and has no record, and is being loaded (R309, R310). -/
def openWload (s : State) (j : Job) : Eio Unit :=
  let g := quadOf j.P
  let p := posOf j.P
  .ok ((s.zeroPlane g p).modPlane g p fun x => { x with record := none, loading := true }) ()

/-- MX_WLOAD (R309): it does not start before every product that names its plane and has started is over (R310). -/
def execMxWload (P : TileId) (s : State) : Res :=
  if (s.engine P .mx).started = false ∧ s.planeRead P then notNow "MX_WLOAD"
  else matrixStep s P 0x30 "MX_WLOAD" openWload iterWload

/-! ### Loading a plane again (R92, R311) -/

/-- The outcome of loading a plane from its record. -/
inductive Reload where
  | ok (s : State)
  | park (s : State) (va : Word)
  | fail (s : State) (c : Cause) (va : Word)
  | busy (s : State)

/-- The remaining iterations of a recorded WLOAD, run into the home plane of tile P from element `e` on. -/
def reloadFrom (j : Job) (m : MxFmt) : Nat → State → List Nat → Nat → Reload
  | 0, s, _, _ => .ok s
  | fuel + 1, s, idx, e =>
    let n := unitOf j.cb.w0.fmt
    let k := (fmtElems j.cb.w0.fmt).2
    match { j with idx }.winAddr s j.cb.w0 0 n with
    | .error a => .fail s .badaddr a
    | .ok a =>
      match State.readFilled (j.who s) (n / 64 + 2) s a n with
      | (s, l, none) =>
        if j.cb.krows * (m.columns - j.cb.c0) < e + k then .fail s .badaddr a
        else
          let s := putElems (quadOf j.P) (posOf j.P) m j.cb.krows j.cb.c0 (elemsOf m.bits k l) e s
          (match nextTuple j.cb.bounds idx with
           | some i => reloadFrom j m fuel s i (e + k)
           | none => .ok s)
      | (s, _, some (v, .trap c)) => .fail s c v
      | (s, _, some (v, .poison _)) => .fail s .poison (lineVa v)
      | (s, _, some (_, .busy)) => .busy s
      | (s, _, some (v, _)) => .park s v

/-- The home plane of tile P is loaded again by the WLOAD that its record names, without signals and patches; a plane with
no record is zeroed. -/
def State.reloadPlane (s : State) (P : TileId) : Reload :=
  let g := quadOf P
  let p := posOf P
  let s := s.zeroPlane g p
  match (s.plane g p).record with
  | none => .ok s
  | some (addr, _, _) =>
    let pkr := (s.core P).pkr
    match s.fetchBytes P .mx pkr addr 256 with
    | (s, .bytes l) =>
      let c := cbOf l
      if c.op ≠ 0x30 ∨ c.formOk .mx false true = false then .fail s .cbformat addr
      else
        (match mxFmt c.w0.fmt with
         | some m =>
           reloadFrom { P, e := .mx, cb := c, addr, idx := [0, 0, 0, 0, 0, 0], mode := Mode.rne, pkr, mute := false, gather := false } m
             c.trips s (List.replicate 6 0) 0
         | none => .fail s .cbformat addr)
    | (s, .fault c v) => .fail s c v
    | (s, .park) => .park s addr
    | (s, .busy) => .busy s

/-! ### Partials and accumulation (R272 to R274) -/

/-- A signed sum shifted right with RNE (R272). -/
def rneShift (x : Int) (n : Nat) : Int :=
  let m := roundUnits (decide (x < 0)) x.natAbs 0 n .rne 0
  if x < 0 then -(m : Int) else m

/-- The sum of products of two lists. -/
def dotInt : List Int → List Int → Int
  | x :: r, y :: t => x * y + dotInt r t
  | _, _ => 0

/-- The block partials of a column (R272, R306). -/
def partials (l sh : Nat) (a b : List Int) : List Int :=
  (List.range (a.length / l)).map fun i => rneShift (dotInt ((a.drop (l * i)).take l) ((b.drop (l * i)).take l)) sh

/-- One step of R274: the entry, and whether it was clamped. -/
def accStep (satm : Bool) (acc : BitVec 32) (p : Int) : BitVec 32 × Bool :=
  let x := acc.toInt + p
  if satm then (BitVec.ofInt 32 (clampInt 32 true x), clampInt 32 true x != x) else (BitVec.ofInt 32 x, false)

/-- Several steps on one entry, in order. -/
def accSteps (satm : Bool) (acc : BitVec 32) (ps : List Int) : BitVec 32 × Bool :=
  ps.foldl (fun r p => let q := accStep satm r.1 p; (q.1, r.2 || q.2)) (acc, false)

/-- The rounding of R273. -/
def Mode.scaling : Mode := { rnd := .rne, ftz := false, sat := false, can := true }

/-- Block partials with their exponents combined with an FP32 accumulator (R273). Each block gives (P, X_A, X_B). -/
def scaleSum (fa fb : MxFmt) (acc : Nat) (l : List (Int × Nat × Nat)) : Nat :=
  let t := l.foldl (fun (t : Nat) (x : Int × Nat × Nat) =>
    let term : Nat :=
      if x.2.1 = 255 ∨ x.2.2 = 255 then fp32.canonical
      else
        let k : Int := (x.2.1 : Int) - 127 - fa.frac + fa.shift + ((x.2.2 : Int) - 127 - fb.frac + fb.shift)
        fp32.round ((Val.ofInt x.1).scale k) Mode.scaling 0
    fp32.round ((fp32.decode t).add (fp32.decode term)) Mode.scaling 0) 0
  fp32.round ((fp32.decode acc).add (fp32.decode t)) Mode.scaling 0

/-! ### Scale bytes (R315) -/

/-- The scale bytes of `nb` blocks of row r. -/
def Job.scales (j : Job) (s : State) (w : ScaleWindow) (r nb : Nat) : Eio (List Nat) :=
  let tensor := w.kstr == 0
  let sum : Int := (w.base.extractLsb' 0 56).toNat + (if tensor then 0 else w.rowstr.toInt * r)
  let a := tagged w.base sum
  let n := if tensor then 1 else nb
  if sum < 0 ∨ 2 ^ 56 ≤ sum ∨ spansZero a = false ∨ spansZero (a + BitVec.ofNat 64 (n - 1)) = false then j.fault s .badaddr a
  else (j.readLines false (n / 64 + 2) s a n).then fun s d =>
    let l := d.raw.map BitVec.toNat
    .ok s (if tensor then List.replicate nb (l.headD 0) else l)

/-- The scale bytes of rows r, r + 1, … of a B operand. -/
def Job.scaleRows (j : Job) (w : ScaleWindow) (nb : Nat) : Nat → Nat → State → Eio (List (List Nat))
  | 0, _, s => .ok s []
  | n + 1, r, s =>
    (j.scales s w r nb).then fun s l => (Job.scaleRows j w nb n (r + 1) s).then fun s t => .ok s (l :: t)

/-! ### Products (R311 to R314) -/

/-- The integers of an A vector. -/
def aVector (f : Byte) (m : MxFmt) (n : Nat) (l : List Byte) : List Int := (elemsOf m.bits n l).map (mxInt f m)

/-- Column c of the named plane, or of the two planes of a wide B (R314). -/
def State.bColumn (s : State) (g : Nat) (c : CB) (p : BitVec 2) (m : MxFmt) (col : Nat) : List Int :=
  (List.range c.krows).map fun k =>
    let x := mxInt c.w2.fmt m (s.cell g p m k col)
    if c.wideb then 256 * x + (s.cell g (p + 1) m k col : Int) else x

/-- The checks of the named plane at the start of step 2 (R313), and of the record of the plane of the low bytes (R314): the
cause and its value. (DEDUCED, log entry 56: a lost plane.) -/
def Job.planeFault (j : Job) (s : State) : Option (Cause × Word) :=
  let g := quadOf j.P
  let ps := (j.cb.planesOf (posOf j.P)).zip [j.cb.w2.fmt, 0x17]
  match (s.plane g (ps.headD (posOf j.P, 0)).1).mark with
  | some m => some m
  | none =>
    if ps.all fun x => match (s.plane g x.1).record with | some r => r.2.1 == x.2 | none => false then none
    else some (.cbformat, j.addr)

/-- A plane with a parity error in a row that the pass reads is loaded again before the pass (R311): one reload counts in PARITY.
(DEDUCED, log entry 56: a reload that would park.) -/
def Job.repair (j : Job) (s : State) (p : BitVec 2) : Eio Unit :=
  let g := quadOf j.P
  if (s.plane g p).upset.all fun x => decide (j.cb.krows ≤ x.1.toNat) then .ok s ()
  else
    let s' := if (s.tile j.P).copy || (s.tile j.P).trailing then s
      else s.modTaskOf j.P fun k => { k with ctr := { k.ctr with parity := k.ctr.parity + 1 } }
    let lose (t : State) (v : Word) : Eio Unit :=
      j.fault ((t.zeroPlane g p).modPlane g p fun x => { x with record := none }) .poison v
    match s'.reloadPlane (tileIn g p) with
    | .ok t => .ok t ()
    | .park t v => lose t v
    | .fail t _ v => lose t v
    | .busy t => .busy (s.withAsked t)

/-- Every plane that a product reads is repaired. -/
def Job.repairAll (j : Job) : List (BitVec 2) → State → Eio Unit
  | [], s => .ok s ()
  | p :: r, s => (j.repair s p).then fun s _ => Job.repairAll j r s

/-- The 32-bit entries of bytes. -/
def words32 (l : List Byte) : List (BitVec 32) := (elemsOf 32 (l.length / 4) l).map (BitVec.ofNat 32)

/-- The new entries of a pass from its old ones: the bytes and whether an addition was clamped (R313). `ps` holds the
partials of each column, and `xa`, `xs` the scale bytes of a fused product. -/
def passEntries (c : CB) (a b : MxFmt) (old : List (BitVec 32)) (ps : List (List Int)) (xa : List Nat)
    (xs : List (List Nat)) : List Byte × Bool :=
  if c.fuse then
    ((old.zip (ps.zip xs)).flatMap fun x => leBytes 4 (scaleSum a b x.1.toNat (x.2.1.zip (xa.zip x.2.2))), false)
  else if c.op = 0x31 then
    let r := (old.zip ps).map fun x => accSteps c.satm x.1 x.2
    (r.flatMap fun x => leBytes 4 x.1.toNat, r.any fun x => x.2)
  else
    let r := (old.zip ps.flatten).map fun x => accStep c.satm x.1 x.2
    (r.flatMap fun x => leBytes 4 x.1.toNat, r.any fun x => x.2)

/-- One pass of a product (R275, R314). (DESIGN CHOICE, log entry 97: its accumulation steps come together.) -/
def iterProduct (s : State) (j : Job) : Eio Done :=
  match mxFmt j.cb.w0.fmt, mxFmt j.cb.w2.fmt with
  | some a, some b =>
    let g := quadOf j.P
    let planes := j.cb.planesOf (posOf j.P)
    let l := blockLen a b
    let nb := j.cb.krows / l
    let an := j.cb.krows / (fmtElems j.cb.w0.fmt).2 * unitOf j.cb.w0.fmt
    let en := 4 * j.cb.nc * (if j.cb.op = 0x32 ∧ j.cb.fuse = false then nb else 1)
    j.at s j.cb.w0 0 an fun wa =>
    j.at s j.cb.w1 0 en fun wc =>
    (j.repairAll planes s).then fun s _ =>
    (j.read s 0 wa an false).then fun s da =>
    (if j.cb.fuse then j.scales s j.cb.w3 (j.idx.getD 0 0) nb else .ok s []).then fun s xa =>
    (if j.cb.fuse then j.scaleRows j.cb.w4 nb j.cb.nc 0 s else .ok s []).then fun s xs =>
    (j.read s 1 wc en false).then fun s old =>
    let va := aVector j.cb.w0.fmt a j.cb.krows da.raw
    let ps := (List.range j.cb.nc).map fun c =>
      partials l (a.shift + b.shift) va (s.bColumn g j.cb (planes.headD 0) b (j.cb.c0 + c))
    let (out, clamped) := passEntries j.cb a b (words32 old.raw) ps xa xs
    (j.write s 1 wc (Data.of out)).then fun s _ =>
    let s := if clamped then s.modTile j.P fun t => { t with sat := true } else s
    .ok s { out, count := 1 }
  | _, _ => .ok s { out := [], count := 0 }

/-- The start of a product's step 2: the checks of the planes that it names (R313, R314). -/
def openProduct (s : State) (j : Job) : Eio Unit :=
  match j.planeFault s with
  | some (c, v) => j.fault s c v
  | none => .ok s ()

/-- A product waits while a plane that it names is being loaded (R310). -/
def productStep (s : State) (P : TileId) (op : Nat) (name : String) : Res :=
  match s.inBody P .mx op with
  | some j => if s.planeBusy P j.cb then notNow name else matrixStep s P op name openProduct iterProduct
  | none => notNow name

/-- MX_MMA (R313). -/
def execMxMma (P : TileId) (s : State) : Res := productStep s P 0x31 "MX_MMA"
/-- MX_MMB (R313). -/
def execMxMmb (P : TileId) (s : State) : Res := productStep s P 0x32 "MX_MMB"

/-! ### MX.SACC, MX.ACLR and MX.ADRN (R316 to R318) -/

/-- The accumulators of MX.SACC from `old` on, one column after another, from the partials in `ps` (R316). An accumulator
that lies among the partials, `off` bytes from their start, is seen by later columns. -/
def saccColumns (a b : MxFmt) (nb : Nat) (xa : List Nat) :
    List (BitVec 32 × List Nat) → Nat → List (BitVec 32) → Option Nat → List Byte
  | [], _, _, _ => []
  | (acc, xb) :: r, k, ps, off =>
    let col := ((ps.drop (nb * k)).take nb).map BitVec.toInt
    let new : BitVec 32 := BitVec.ofNat 32 (scaleSum a b acc.toNat (col.zip (xa.zip xb)))
    let ps := match off with
      | some n => ps.set n new
      | none => ps
    leBytes 4 new.toNat ++ saccColumns a b nb xa r (k + 1) ps (off.map fun n => n + 1)

/-- The place among partials at `u`, in entries, of the accumulators at `w`. Those that start before the partials meet only
partials that have been read. (DEDUCED, log entry 53: columns in order.) -/
def saccOverlap (u w : Word) : Option Nat :=
  if tagOf u = tagOf w ∧ offOf u ≤ offOf w then some ((offOf w - offOf u) / 4) else none

/-- One iteration of MX.SACC. -/
def iterSacc (s : State) (j : Job) : Eio Done :=
  match mxFmt j.cb.saccFmts.1, mxFmt j.cb.saccFmts.2 with
  | some a, some b =>
    let nb := j.cb.saccBlocks
    let n := j.cb.nc
    j.at s j.cb.w0 0 (4 * nb * n) fun u =>
    j.at s j.cb.w1 0 (4 * n) fun w =>
    (j.read s 0 u (4 * nb * n) false).then fun s pd =>
    (j.scales s j.cb.w3 (j.idx.getD 0 0) nb).then fun s xa =>
    (j.scaleRows j.cb.w4 nb n 0 s).then fun s xs =>
    (j.read s 1 w (4 * n) false).then fun s od =>
    let out := saccColumns a b nb xa ((words32 od.raw).zip xs) 0 (words32 pd.raw) (saccOverlap u w)
    (j.write s 1 w (Data.of out)).then fun s _ => .ok s { out, count := 1 }
  | _, _ => .ok s { out := [], count := 0 }

/-- MX_SACC (R316). -/
def execMxSacc (P : TileId) (s : State) : Res := matrixStep s P 0x33 "MX_SACC" noOpening iterSacc

/-- The start of MX.ACLR's step 2: SATCLR clears the SAT flag (R317). -/
def openAclr (s : State) (j : Job) : Eio Unit :=
  .ok (if j.cb.opa.getLsbD 0 then s.modTile j.P fun t => { t with sat := false } else s) ()

/-- One iteration of MX.ACLR. -/
def iterAclr (s : State) (j : Job) : Eio Done :=
  j.into s j.cb.w1 0 4 fun w =>
  let out := leBytes 4 j.cb.parm.toNat
  (j.write s 1 w (Data.of out)).then fun s _ => .ok s { out, count := 1 }

/-- MX_ACLR (R317). -/
def execMxAclr (P : TileId) (s : State) : Res := matrixStep s P 0x34 "MX_ACLR" openAclr iterAclr

/-- One iteration of MX.ADRN. -/
def iterAdrn (s : State) (j : Job) : Eio Done :=
  j.at s j.cb.w0 0 j.cb.cvtIn fun u =>
  j.into s j.cb.w1 0 j.cb.cvtOut fun w =>
  (j.read s 0 u j.cb.cvtIn false).then fun s d =>
  let (r, g) := j.converted s d
  let clear : Eio Unit :=
    if j.cb.opa.getLsbD 0 then j.write s 0 u (Data.of (List.replicate j.cb.cvtIn 0)) else .ok s ()
  clear.then fun s _ =>
  (j.write s 1 w r).then fun s _ => .ok (j.setGen s g) { out := r.raw, count := 1 }

/-- MX_ADRN (R318). -/
def execMxAdrn (P : TileId) (s : State) : Res := matrixStep s P 0x35 "MX_ADRN" noOpening iterAdrn

end Sys2Proof.Machine
end

