-- ==== Sys2Proof/Machine/Placing.lean ====
section
/-! DEFINITION. Placing tasks on tiles: rank (R77), the ready lists and caps (R78, R79), the search for quads (R83, R85), pre-emption
of victims (R80), and quanta (R79, R80). -/
namespace Sys2Proof.Machine

/-! ### Rank (R77) -/

/-- A task's place in the order of ranks: the smaller number ranks higher, and equal numbers are equal ranks. -/
def Task.rank (k : Task) : Nat :=
  match k.cls with
  | .deadline => k.deadline.toNat * 2 ^ 128 + k.order
  | .interactive => 2 ^ 200 + (7 - k.prio.toNat)
  | .bulk => 2 ^ 201 + (7 - k.prio.toNat)

/-- `a` stands before `b` in a ready list (R78): of equal rank and ready since the same tick, a pre-empted one comes last.
(DESIGN CHOICE, log entry 82: two that tie in all of these.) -/
def Task.before (a b : Task) : Bool :=
  decide (a.rank < b.rank) || (a.rank == b.rank && (decide (a.readyAt < b.readyAt) || (a.readyAt == b.readyAt &&
    ((!a.ranOnce && b.ranOnce) || (a.ranOnce == b.ranOnce && decide (a.order < b.order))))))

/-- An entry of a list is put in its place in an order. -/
def putInOrder {α : Type} (lt : α → α → Bool) (x : α) : List α → List α
  | [] => [x]
  | y :: r => if lt x y then x :: y :: r else y :: putInOrder lt x r

/-- A list in order. -/
def inOrder {α : Type} (lt : α → α → Bool) (l : List α) : List α := l.foldr (putInOrder lt) []

/-- A task waits to be placed and is not to end. -/
def Task.isReady (k : Task) : Bool := decide (k.state = .ready) && k.ending.isNone

/-- The ready list of a home die (R78). -/
def State.readyList (s : State) (d : BitVec 2) : List (Nat × Task) :=
  inOrder (fun a b => a.2.before b.2) (s.tasks.filter fun p => p.2.isReady && p.2.home == d)

/-! ### Caps (R79) -/

/-- The tiles that a task counts for: twice under PAIR or TWIN. -/
def Task.tileCost (k : Task) : Nat := if k.redun = .none then k.image.vgrid else 2 * k.image.vgrid

/-- A task holds its quads. -/
def Task.placed (k : Task) : Bool := decide (k.state = .loading ∨ k.state = .running ∨ k.state = .saving)

/-- The tiles in use beneath a node by tasks outside `gone`. -/
def State.tilesBeneath (s : State) (ctx : BitVec 12) (c : CapNode) (gone : List Nat) : Nat :=
  s.tasks.foldl (fun n p => if p.2.placed && p.2.beneath ctx c && !gone.contains p.1 then n + p.2.tileCost else n) 0

/-- The nodes of a task's path whose TILES cap holds it back while the tasks of `gone` are away. -/
def State.blockers (s : State) (k : Task) (gone : List Nat) : List CapNode :=
  k.path.filter fun c =>
    match c.tiles with
    | some n => decide (n < s.tilesBeneath k.ctx c gone + k.tileCost)
    | none => false

/-! ### Quads (R83, R85) -/

/-- A quad is free once the tasks of `gone` are away. -/
def State.quadFree (s : State) (gone : List Nat) (g : Nat) : Bool :=
  !s.tiles.any fun p => p.1 / 4 == g && (match p.2.task with | some t => !gone.contains t | none => false)

/-- The quads of virtual cluster c: how many its virtual tiles need. -/
def quadsOf (vgrid c : Nat) : Nat := (min 16 (vgrid - 16 * c) + 3) / 4
/-- The number of virtual clusters. -/
def vclusters (vgrid : Nat) : Nat := (vgrid + 15) / 16

/-- The lowest `n` free quads of a physical cluster, as numbers over the package: with `pair`, quads whose positions are free in
the next cluster too. A suspect cluster takes no new task. (DESIGN CHOICE, log entry 81: a pair of clusters that other tasks share; log entry 96:
a task that was pre-empted counts as a new one.) -/
def State.fitCluster (s : State) (free : Nat → Bool) (pair : Bool) (cl n : Nat) : Option (List Nat) :=
  let ok (q : Nat) : Bool := free (4 * cl + q) && (!pair || free (4 * (cl + 1) + q))
  let l := (List.range 4).filter ok
  if (s.cluster cl).suspect || (pair && (s.cluster (cl + 1)).suspect) || decide (l.length < n) then none
  else some ((l.take n).map fun q => 4 * cl + q)

/-- The physical clusters in the order of R83 for a task with these dies. -/
def clustersOf (dies : List Nat) (pair : Bool) : List Nat :=
  dies.flatMap fun d => if pair then (List.range 8).map fun i => 16 * d + 2 * i else (List.range 16).map fun i => 16 * d + i

/-- Quads for virtual clusters c, c + 1 and on, `n` in all, in ascending order. -/
def State.fitGrid (s : State) (clusters : List Nat) (pair : Bool) (vgrid : Nat) :
    Nat → Nat → (Nat → Bool) → Option (List (List Nat))
  | 0, _, _ => some []
  | n + 1, c, free =>
    match clusters.findSome? fun cl => s.fitCluster free pair cl (quadsOf vgrid c) with
    | none => none
    | some l =>
      let taken (g : Nat) : Bool := l.contains g || (pair && l.contains (g - 4) && decide (4 ≤ g))
      (State.fitGrid s clusters pair vgrid n (c + 1) fun g => free g && !taken g).map fun r => l :: r

/-- The tile map of a grid on these quads; `shift` is 4 for the trailing clusters of a pair (R84). -/
def mapOf (vgrid shift : Nat) (grid : List (List Nat)) : KMap (BitVec 16) :=
  (List.range vgrid).map fun v =>
    let g := ((grid.getD (v / 16) []).getD (v % 16 / 4) 0) + shift
    (v, BitVec.ofNat 16 (0x8000 + 4 * g + v % 4))

/-- Where a task would go with these free quads: its two tile maps. -/
def State.fit (s : State) (k : Task) (free : Nat → Bool) : Option (KMap (BitVec 16) × KMap (BitVec 16)) :=
  let v := k.image.vgrid
  let home := k.home.toNat
  let round := [home, (home + 1) % 4, (home + 2) % 4, (home + 3) % 4]
  match k.redun with
  | .none => (s.fitGrid (clustersOf round false) false v (vclusters v) 0 free).map fun g => (mapOf v 0 g, [])
  | .pair => (s.fitGrid (clustersOf round true) true v (vclusters v) 0 free).map fun g => (mapOf v 0 g, mapOf v 4 g)
  | .twin =>
    match s.fitGrid (clustersOf [home] false) false v (vclusters v) 0 free with
    | none => none
    | some a =>
      let others := (List.range 4).filter fun d => d != home
      (others.findSome? fun d => s.fitGrid (clustersOf [d] false) false v (vclusters v) 0 free).map fun b =>
        (mapOf v 0 a, mapOf v 0 b)

/-- Where a task can go once the tasks of `gone` are away, its caps included. -/
def State.fitsWithout (s : State) (k : Task) (gone : List Nat) : Option (KMap (BitVec 16) × KMap (BitVec 16)) :=
  if (s.blockers k gone).isEmpty then s.fit k (s.quadFree gone) else none

/-! ### PLACE_TASK (R78 to R80) -/

/-- Every tile of a task has executed HALT and every chain has ended (R458). -/
def State.allHalted (s : State) (k : Task) : Bool :=
  k.ending.isNone &&
  k.tiles.all fun P => decide ((s.core P).run = .halted) && (s.tile P).eng.toList.all fun x => x.queue.isEmpty

/-- A task whose tiles have all halted and whose chains have ended is not pre-empted any more: it retires (R458). -/
def State.spent (s : State) (k : Task) : Bool := decide (k.state = .running) && s.allHalted k

/-- The tasks that are giving up their quads: they are being saved, or are to end or to retire. -/
def State.leaving (s : State) : List Nat :=
  (s.tasks.filter fun p => p.2.placed && (decide (p.2.state = .saving) || p.2.ending.isSome || s.spent p.2)).map fun p => p.1

/-- The candidate victims of a task, lowest rank first and within a rank the most recently placed first (R80).
(DESIGN CHOICE, log entry 80: several nodes whose TILES hold the task back.) -/
def State.victims (s : State) (k : Task) : List Nat :=
  let can (p : Nat × Task) : Bool :=
    decide (p.2.state = .running) && p.2.ending.isNone && !s.spent p.2 &&
    (decide (k.rank < p.2.rank) || (p.2.rank == k.rank && p.2.quantDone)) &&
    (match s.blockers k s.leaving with
     | n :: _ => p.2.beneath k.ctx n
     | [] => true)
  let first (a b : Nat × Task) : Bool :=
    decide (b.2.rank < a.2.rank) || (a.2.rank == b.2.rank && decide (b.2.placedAt < a.2.placedAt))
  (inOrder first (s.tasks.filter can)).map fun p => p.1

/-- The shortest start of a list of victims that makes room, `taken` of them being taken already. -/
def State.enough (s : State) (k : Task) : List Nat → List Nat → Option (List Nat)
  | [], _ => none
  | t :: r, taken =>
    if (s.fitsWithout k (s.leaving ++ taken ++ [t])).isSome then some (taken ++ [t]) else State.enough s k r (taken ++ [t])

/-- What the scheduler can do for a ready task. -/
inductive Decision where
  | never
  | place (a b : KMap (BitVec 16))
  | preempt (victims : List Nat)
  | waits
  | cannot
deriving DecidableEq, Repr

/-- The decision for one ready task: `waits` while tasks that are giving up their quads will make room. -/
def State.decision (s : State) (k : Task) : Decision :=
  if k.tilecap < k.tileCost then .never
  else match s.fitsWithout k [] with
    | some m => .place m.1 m.2
    | none =>
      if (s.fitsWithout k s.leaving).isSome then .waits
      else match s.enough k (s.victims k) [] with
        | some l => .preempt l
        | none => .cannot

/-- The physical tiles of a map belong to a task as its virtual tiles, stopped until they are loaded. -/
def State.takeTiles (s : State) (t : Nat) (m : KMap (BitVec 16)) (copy trailing : Bool) : State :=
  m.foldl (fun (s : State) e =>
    s.setTile (e.2.extractLsb' 0 10)
      { Tile.reset with task := some t, vt := BitVec.ofNat 10 e.1, copy, trailing, stopped := true }) s

/-- A task is placed: its quads are reserved, and its tile map is written (R82). -/
def State.placeTask (s : State) (t : Nat) (k : Task) (a b : KMap (BitVec 16)) : State :=
  let s := s.settleRcc.setTask t { k with state := .loading, tileMap := a, tileMap1 := b, placedAt := s.tick }
  (s.takeTiles t a false false).takeTiles t b (decide (k.redun = .twin)) (decide (k.redun = .pair))

/-- Where a ready task goes: now, once the tasks that are giving up their quads have left, or once its victims have left too. -/
def State.wanted (s : State) (k : Task) : Option (KMap (BitVec 16) × KMap (BitVec 16)) :=
  match s.decision k with
  | .place a b => some (a, b)
  | .waits => s.fitsWithout k s.leaving
  | .preempt l => s.fitsWithout k (s.leaving ++ l)
  | _ => none

/-- The quads of a task's maps. -/
def quadsIn (m : KMap (BitVec 16) × KMap (BitVec 16)) : List (BitVec 8) := (m.1 ++ m.2).map fun e => e.2.extractLsb' 2 8

/-- A ready task of another home die wants some of the quads that task k wants, and ranks above it or has the lower home die (R76).
(DEDUCED, log entry 24: the order between home dies.) -/
def State.outbid (s : State) (k : Task) : Bool :=
  match s.wanted k with
  | none => false
  | some m =>
    s.tasks.any fun p => p.2.isReady && p.2.home != k.home &&
      (decide (p.2.rank < k.rank) || (p.2.rank == k.rank && decide (p.2.home.toNat < k.home.toNat))) &&
      (match s.wanted p.2 with
       | some x => (quadsIn x).any fun q => (quadsIn m).contains q
       | none => false)

/-- The room of a task that waits for others to leave is kept: it counts as placed on its quads, and the tasks that are leaving count for
no cap any more. -/
def State.keepRoom (s : State) (t : Nat) (k : Task) : State :=
  match s.wanted k with
  | some m =>
    let gone := s.leaving
    let s := s.placeTask t k m.1 m.2
    { s with tasks := s.tasks.map fun p => if gone.contains p.1 then (p.1, { p.2 with path := [] }) else p }
  | none => s

/-- The first task of a ready list for which something can be done: one whose quads a task of another home die wins is passed over
(R76, R78). The room that a task above it waits for is not given away (R80): `kept` is the state with that room taken, and a task is placed
only if the caps allow it now too. (DEDUCED, log entry 24: the room of a waiting task is kept.) -/
def State.firstDecision (s : State) : List (Nat × Task) → State → Option (Nat × Decision)
  | [], _ => none
  | p :: r, kept =>
    match kept.decision p.2 with
    | .cannot => s.firstDecision r kept
    | .never => some (p.1, .never)
    | .waits => s.firstDecision r (kept.keepRoom p.1 p.2)
    | .place a b =>
      if !(s.blockers p.2 []).isEmpty then s.firstDecision r (kept.keepRoom p.1 p.2)
      else if kept.outbid p.2 then s.firstDecision r kept
      else some (p.1, .place a b)
    | x => if kept.outbid p.2 then s.firstDecision r kept else some (p.1, x)

/-- Every access of a task comes before its last record (R392): die 4 knows of them. -/
def State.gather (s : State) (k : Task) : State :=
  k.dies.foldl (fun (s : State) d => s.learnIo (s.die d).k) (s.learnIo k.clock)

/-- The entry of a task in its queue completes. -/
def State.completeTask (s : State) (t : Nat) (k : Task) (status : BitVec 16) (commit : Byte) (detail : BitVec 32) : State :=
  let s := s.gather k
  match s.entryOf k.queue.toNat t with
  | some e => s.finishEntry k.queue.toNat e status commit detail k.slips
  | none => s

/-- The pre-emption order of a victim: it enters SAVING (R82). Its time in RUNNING ends. -/
def State.orderSave (s : State) (t : Nat) : State :=
  s.settleRcc.modTask t fun k =>
    { k with state := .saving, runBase := k.runBase + (s.tick - k.runSince), saved := [],
             slipSince := k.slipSince.map fun n => n + s.between k.home.toNat k.slipFrom s.tick }

/-- PLACE_TASK (R76, R78 to R80). -/
def execPlaceTask (d : BitVec 2) (s : State) : Res :=
  if s.io.lost then notNow "PLACE_TASK"
  else match s.firstDecision (s.readyList d) s with
    | none => notNow "PLACE_TASK"
    | some (t, x) =>
      match s.task? t with
      | none => notNow "PLACE_TASK"
      | some k =>
        match x with
        | .never => .next { (s.completeTask t k stRcb coNone 0) with tasks := kdel (s.completeTask t k stRcb coNone 0).tasks t }
        | .place a b => .next (s.placeTask t k a b)
        | .preempt l => .next (l.foldl State.orderSave s)
        | .waits => notNow "PLACE_TASK"
        | .cannot => notNow "PLACE_TASK"

/-! ### Quanta (R79, R80) -/

/-- A task of this rank or above waits to be placed. -/
def State.rivals (s : State) (k : Task) : Bool := s.tasks.any fun p => p.2.isReady && decide (p.2.rank ≤ k.rank)

/-- A task's quantum expires: it becomes a victim for its equals while one waits, and otherwise its quantum restarts. -/
def State.expireQuantum (s : State) (t : Nat) : State :=
  s.modTask t fun k => if s.rivals k then { k with quantDone := true } else { k with quantSince := s.tick }

/-- QUANTUM_EXPIRY (R80). -/
def execQuantumExpiry (t : Nat) (s : State) : Res :=
  match s.task? t with
  | none => notNow "QUANTUM_EXPIRY"
  | some k =>
    if k.state = .running ∧ k.ending.isNone ∧ k.quantDone = false ∧ k.quantSince + k.quantum ≤ s.tick ∧ s.io.lost = false then
      .next (s.expireQuantum t)
    else notNow "QUANTUM_EXPIRY"

end Sys2Proof.Machine
end

