-- ==== Sys2Proof/Machine/SaveRecord.lean ====
section
/-! DEFINITION. The state record of a tile and the task record (R423, R424, R442): what each holds, laid out in bytes and read back.
The manual places the parts; within a part the fields stand in the order in which it names them, little-endian, and zeros fill the
part. (DEDUCED, log entry 9: the layout within a part.) -/
namespace Sys2Proof.Machine

/-- The bytes of a list, filled up with zeros to `n`. -/
def padTo (n : Nat) (l : List Byte) : List Byte := l ++ List.replicate (n - l.length) 0

/-- Flags as a number, the first in bit 0. -/
def flagsNat : List Bool → Nat
  | [] => 0
  | b :: r => (if b then 1 else 0) + 2 * flagsNat r

/-- Bit `i` of the `n` bytes at offset `o`. -/
def flagAt (l : List Byte) (o n i : Nat) : Bool := (fld l o n).testBit i

/-- A list of at most some items behind a count of two bytes, in a part of `size` bytes. -/
def countedBytes (size : Nat) (items : List (List Byte)) : List Byte :=
  padTo size (leBytes 2 items.length ++ items.flatMap fun x => x)

/-- The items of `k` bytes of such a part. -/
def countedItems (l : List Byte) (k : Nat) : List (List Byte) := recordsOf (l.drop 2) k (min (fld l 0 2) (l.length / k))

/-- The engine that a code names. -/
def engOf (n : Nat) : Eng := (srcEng (BitVec.ofNat 3 (n + 1))).getD .ld

/-- The cause of a code of R408. -/
def causeOf (b : Byte) : Cause :=
  ([.illop, .align, .badaddr, .prot, .poison, .cbformat, .patchoor, .slip, .hazard, .crystal, .semgen, .waitto, .trap, .brk,
    .svc].find? fun c => c.code == b).getD Cause.none

/-! ### The control core (0x0000, 0x0100) -/

/-- What a stopped core does. -/
def CoreRun.code : CoreRun → Nat
  | .running => 1
  | .waiting _ _ _ => 1
  | .event => 2
  | .halted => 3
  | .off => 0

/-- What a code of a stopped core says. -/
def runOf (n : Nat) : CoreRun :=
  if n = 1 then .running else if n = 2 then .event else if n = 3 then .halted else .off

/-- The 256 bytes at 0x0100 of a state record: the registers in the order of R424, eight bytes for each, the saved atomic tag with
bit 16 set when there is one, Issued of the five engines, and whether the core runs, waits on an event (R409) or has halted, and
whether a BARAW at PC has arrived (R220). -/
def Tile.sysBytes (t : Tile) : List Byte :=
  let c := t.core
  padTo 256
    (leBytes 8 c.pc.toNat ++ leBytes 8 c.trapvec.toNat ++ leBytes 8 c.trappc.toNat ++ leBytes 8 c.trapcause.toNat ++
     leBytes 8 c.trapval.toNat ++ leBytes 8 c.fmode.toNat ++ leBytes 8 c.wto.toNat ++ leBytes 8 c.resf.toNat ++
     leBytes 8 c.semov.toNat ++ leBytes 8 c.pkr.toNat ++ leBytes 8 c.leaseq.toNat ++ leBytes 8 c.phase.toNat ++
     leBytes 8 (match c.atomTag with | some g => 2 ^ 16 + g.toNat | none => 0) ++
     t.eng.toList.flatMap (fun x => leBytes 4 x.issued.toNat) ++ [BitVec.ofNat 8 c.run.code, if c.barw then 1 else 0])

/-- The control core of a state record on top of what else is kept of it. -/
def Core.fromRecord (c : Core) (l : List Byte) : Core :=
  let w (o : Nat) : Word := bvf 64 l o 8
  { c with
      regs := (Vector.ofFn fun i => w (8 * i.val)).set 0 0, pc := w 0x100, trapvec := w 0x108 &&& ~~~ 3, trappc := w 0x110,
      trapcause := (w 0x118).truncate 8, trapval := w 0x120, fmode := (w 0x128).truncate 6,
      wto := wtoOf (w 0x130),
      resf := (w 0x138).truncate 2, semov := w 0x140, pkr := w 0x148, leaseq := (w 0x150).truncate 7,
      phase := (w 0x158).truncate 32, atomTag := if flagAt l 0x160 4 16 then some (bvf 16 l 0x160 2) else none,
      run := runOf (fld l 0x17C 1), barw := flagAt l 0x17D 1 0 }

/-! ### Regions, handles and barrier units (0x0300, 0x0B00, 0xFB00) -/

/-- A region record of 64 bytes (R424, R443): the descriptor of R34, F, C, the tags and the refetch-pending mask. -/
def regionBytes (r : Option Region) : List Byte :=
  match r with
  | none => List.replicate 64 0
  | some g =>
    let d := g.desc
    padTo 64 (leBytes 4 d.base.toNat ++ leBytes 4 d.slotb.toNat ++ leBytes 1 d.nslot.toNat ++ leBytes 1 d.full.toNat ++
      leBytes 1 d.free.toNat ++ leBytes 1 d.obs.toNat ++ leBytes 4 d.gen.toNat ++ leBytes 2 (flagsNat [d.byteMode, d.init]) ++
      List.replicate 14 0 ++ leBytes 4 g.f.toNat ++ leBytes 4 g.c.toNat ++ g.tags.toList ++ leBytes 2 g.pending.toNat)

/-- The region of a record, with the holds that are kept of it: an unbound one holds no slot. -/
def regionRec (l : List Byte) (holds : List SlotHold) : Option Region :=
  if fld l 8 1 = 0 then none
  else some
    { desc := { base := bvf 19 l 0 4, slotb := bvf 20 l 4 4, nslot := bvf 5 l 8 1, full := bvf 6 l 9 1, free := bvf 6 l 10 1,
                obs := bvf 6 l 11 1, gen := bvf 32 l 12 4, byteMode := flagAt l 16 2 0, init := flagAt l 16 2 1 },
      f := bvf 32 l 32 4, c := bvf 32 l 36 4, tags := Vector.ofFn fun i => bvf 8 l (40 + i.val) 1, pending := bvf 16 l 56 2, holds }

/-- SCOPE, UNIT and the virtual cluster of a barrier unit, in three bytes (R197). -/
def barKeyBytes : BarKey → List Byte
  | .cluster _ v u => [0, BitVec.ofNat 8 u.toNat, BitVec.ofNat 8 v.toNat]
  | .die _ u => [1, BitVec.ofNat 8 u.toNat, 0]
  | .package _ u => [2, BitVec.ofNat 8 u.toNat, 0]

/-- The barrier unit of a task that three bytes name. -/
def barKeyOf (t : Nat) (l : List Byte) (o : Nat) : BarKey :=
  let u := bvf 4 l (o + 1) 1
  if fld l o 1 = 0 then .cluster t (bvf 6 l (o + 2) 1) u else if fld l o 1 = 1 then .die t u else .package t u

/-- A barrier handle in 16 bytes. -/
def handleBytes (h : Option BarHandle) : List Byte :=
  match h with
  | none => List.replicate 16 0
  | some h => padTo 16 (leBytes 1 (flagsNat [true, h.arrived]) ++ barKeyBytes h.unit ++ leBytes 2 h.count.toNat ++ leBytes 4 h.epoch.toNat)

/-- The handle of 16 bytes. -/
def handleOf (t : Nat) (l : List Byte) : Option BarHandle :=
  if flagAt l 0 1 0 then
    some { unit := barKeyOf t l 1, count := bvf 11 l 4 2, arrived := flagAt l 0 1 1, epoch := bvf 32 l 6 4 }
  else none

/-- A barrier unit in 16 bytes. -/
def unitBytes (b : Option BarUnit) : List Byte :=
  match b with
  | none => List.replicate 16 0
  | some b => padTo 16 ([1, 0] ++ leBytes 2 b.count.toNat ++ leBytes 2 b.arrivals ++ leBytes 2 b.next ++ leBytes 4 b.epoch.toNat ++
      leBytes 4 b.pending.toNat)

/-- The barrier unit of 16 bytes, with the clock that is kept of it. -/
def unitOfBytes (l : List Byte) (clock : Clock) : Option BarUnit :=
  if flagAt l 0 1 0 then
    some { count := bvf 11 l 2 2, arrivals := fld l 4 2, next := fld l 6 2, epoch := bvf 32 l 8 4, pending := bvf 32 l 12 4, clock }
  else none

/-- The unit of a task, if it has one under a key. -/
def Task.barUnit? (k : Task) (u : BarKey) : Option BarUnit := (k.bars.find? fun p => p.1 == u).map fun p => p.2

/-- The units of a task take what 16-byte records say of them. -/
def Task.setUnits (k : Task) (units : List (BarKey × List Byte)) : Task :=
  units.foldl (fun (k : Task) p =>
    match unitOfBytes p.2 (k.barUnit p.1).clock with
    | some b => k.setBar p.1 b
    | none => { k with bars := k.bars.filter fun q => q.1 != p.1 }) k

/-- The keys of the cluster-scope units of a virtual cluster of a copy (R197). -/
def clusterKeys (t : Nat) (vt : BitVec 10) (copy : Bool) : List BarKey :=
  (List.range 16).map fun u => .cluster t (BitVec.ofNat 6 (vt.toNat / 16 + if copy then 32 else 0)) (BitVec.ofNat 4 u)

/-! ### Engines (0x0C00, 0x2000, 0xEB00) -/

/-- A chain in 48 bytes. -/
def Chain.bytes (c : Chain) : List Byte :=
  padTo 48 (leBytes 4 c.num.toNat ++ leBytes 8 c.head.toNat ++ leBytes 8 c.next.toNat ++
    leBytes 1 (flagsNat [c.last, c.image.isSome, c.image == some 1]) ++ leBytes 2 c.patch.toNat ++ leBytes 1 c.mode.toNat ++
    leBytes 8 c.pkr.toNat ++ leBytes 8 c.gen.toNat ++ leBytes 4 c.modes.toNat)

/-- The chain of 48 bytes, with the clock that is kept of it. -/
def chainOf (l : List Byte) (need : Clock) : Chain :=
  { num := bvf 32 l 0 4, head := bvf 64 l 4 8, next := bvf 64 l 12 8, last := flagAt l 20 1 0, patch := bvf 16 l 21 2,
    mode := bvf 6 l 23 1, pkr := bvf 64 l 24 8, gen := bvf 64 l 32 8,
    image := if flagAt l 20 1 1 then some (if flagAt l 20 1 2 then 1 else 0) else none, modes := bvf 32 l 40 4, need }

/-- A stage's number. -/
def Stage.code : Stage → Nat
  | .idle => 0 | .timed => 1 | .header => 2 | .body => 3 | .patch => 4 | .signal => 5

/-- The stage of a number. -/
def stageOf (n : Nat) : Stage :=
  if n = 1 then .timed else if n = 2 then .header else if n = 3 then .body else if n = 4 then .patch
  else if n = 5 then .signal else .idle

/-- What a stopped engine is held by, in ten bytes: an event, a refetch, or the chain that its patch list targets. -/
def Block.bytes : Block → List Byte
  | .event => padTo 10 [1]
  | .refetch => padTo 10 [2]
  | .dead => padTo 10 [4]
  | .patchTarget head e => [3, BitVec.ofNat 8 e.code.toNat] ++ leBytes 8 head.toNat
  | _ => padTo 10 []

/-- What ten bytes say that a stopped engine is held by. -/
def blockOf (l : List Byte) (o : Nat) : Block :=
  let n := fld l o 1
  if n = 1 then .event else if n = 2 then .refetch
  else if n = 3 then .patchTarget (bvf 64 l (o + 2) 8) (engOf (fld l (o + 1) 1))
  else if n = 4 then .dead else .none

/-- The KiB of an engine: its chains, then its current CB's stage, what holds it, its flags, RESW, loop-index stack, result, hash,
iterations, ring slots, generators, ring position, lateness and row counters, and the index of its row. The slot's tile is virtual. -/
def Engine.bytes (x : Engine) : List Byte :=
  padTo 1024
    (padTo 768 (x.queue.flatMap Chain.bytes) ++
     [BitVec.ofNat 8 x.queue.length, BitVec.ofNat 8 x.stage.code] ++ x.block.bytes ++
     leBytes 2 (flagsNat [x.acquired, x.elastic, x.onTime, x.poisoned, x.patched, x.slotOver, x.tail, x.ring.isSome,
       (match x.ring with | some r => r.checked | none => false), x.byteWrites, x.rowIdx.isSome,
       (match x.rowIdx with | some r => r.2 | none => false), x.sending, x.slipped]) ++
     leBytes 2 x.resw.toNat ++ x.idx.toList.flatMap (fun i => leBytes 4 i.toNat) ++ leBytes 8 x.result.toNat ++
     leBytes 8 x.hash.toNat ++ leBytes 8 x.count ++ leBytes 4 x.slots.toNat ++ leBytes 8 x.slotGen.toNat ++
     (match x.ring with
      | some r => leBytes 2 r.tile.toNat ++ leBytes 1 r.rid.toNat ++ leBytes 1 r.slot.toNat ++ leBytes 4 r.fill.toNat
      | none => List.replicate 8 0) ++
     leBytes 4 x.lateCount.toNat ++ leBytes 8 x.lateSum.toNat ++ leBytes 8 x.redo ++ leBytes 8 x.bodyGen.toNat ++ leBytes 8 x.rowDone ++
     (match x.rowIdx with | some r => leBytes 8 (BitVec.ofInt 64 r.1).toNat | none => List.replicate 8 0))

/-- A port entry in 33 bytes. -/
def PortEntry.bytes (p : PortEntry) : List Byte := leBytes 32 p.data.toNat ++ [p.mask]

/-- The entry of 33 bytes. -/
def entryOfBytes (l : List Byte) : PortEntry := { data := bvf 256 l 0 32, mask := bvf 8 l 32 1 }

/-- A staged line in 74 bytes. -/
def Staged.bytes (x : Staged) : List Byte := leBytes 8 x.addr.toNat ++ padTo 64 x.data ++ leBytes 2 x.tag.toNat

/-- The staged line of 74 bytes. -/
def stagedOf (l : List Byte) : Staged := { addr := bvf 64 l 0 8, data := (l.drop 8).take 64, tag := bvf 16 l 72 2 }

/-- Bytes of a partial port entry with their flags, two bytes for each. -/
def partBytes (l : List (Byte × Bool)) : List Byte := countedBytes 130 (l.map fun x => [x.1, if x.2 then 1 else 0])

/-- The bytes of a partial port entry. -/
def partOf (l : List Byte) : List (Byte × Bool) := (countedItems l 2).map fun x => (x.getD 0 0, x.getD 1 0 != 0)

/-- The port position of an engine in 12 bytes (R337): what it passes over of its next iteration, and its entries. -/
def Engine.posBytes (x : Engine) : List Byte := leBytes 4 x.skip.toNat ++ leBytes 8 x.pushed

/-- The 8,192 bytes at 0x2000: the port hold buffer of the store engine, the staging lines and tags of ST.RED, and the partial port
entries and the port positions of the two stream engines. -/
def Tile.portBytes (t : Tile) : List Byte :=
  let ld := t.eng[engIx .ld]
  let st := t.eng[engIx .st]
  padTo 0x900 (st.hold.toList.flatMap fun h => countedBytes 1058 (h.map PortEntry.bytes)) ++
  countedBytes 0x1300 (st.staging.map Staged.bytes) ++
  padTo 0x400 (partBytes ld.partIn ++ partBytes ld.carry ++ partBytes st.partIn ++ partBytes st.carry ++ ld.posBytes ++ st.posBytes)

/-- A refetch record of 64 bytes (R442). -/
def Refetch.bytes (r : Refetch) (e : Eng) : List Byte :=
  leBytes 8 r.cbaddr.toNat ++ leBytes 2 r.rtile.toNat ++ leBytes 1 r.rid.toNat ++ leBytes 1 r.slot.toNat ++
  leBytes 4 r.fill.toNat ++ r.idx.toList.flatMap (fun x => leBytes 4 x.toNat) ++ leBytes 8 r.gen.toNat ++
  leBytes 8 r.pkr.toNat ++ leBytes 1 r.mode.toNat ++ leBytes 1 (if e = .ld then 0 else 1) ++ List.replicate 6 0

/-- The 32 places for the refetch records of an engine. -/
def Engine.refetchBytes (x : Engine) (e : Eng) : List Byte := padTo 2048 (x.refetch.flatMap fun r => r.bytes e)

/-- The refetch records of 32 places, with the numbers of their chains, which are kept of them: a place whose CBADDR is 0 holds none. -/
def refetchOf (chains : List (BitVec 32)) (l : List Byte) : List Refetch :=
  (((recordsOf l 64 32).filter fun r => fld r 0 8 != 0).zip (List.range 32)).map fun (r, i) =>
    { chain := chains.getD i 0, cbaddr := bvf 64 r 0 8, rtile := bvf 10 r 8 2, rid := bvf 5 r 10 1, slot := bvf 4 r 11 1, fill := bvf 32 r 12 4,
      idx := Vector.ofFn fun i => bvf 32 r (16 + 4 * i.val) 4, gen := bvf 64 r 40 8, pkr := bvf 64 r 48 8, mode := bvf 6 r 56 1 }

/-- Engine `i` of a state record on top of what else is kept of it. -/
def Engine.fromRecord (x : Engine) (i : Nat) (rec_ : List Byte) : Engine :=
  let l := (rec_.drop (0xC00 + 1024 * i)).take 1024
  let ports := (rec_.drop 0x2000).take 0x2000
  let needs := x.queue.map fun c => c.need
  let queue := ((recordsOf l 48 (min 16 (fld l 768 1))).zip (List.range 16)).map fun p => chainOf p.1 (needs.getD p.2 Clock.zero)
  let f (n : Nat) : Bool := flagAt l 780 2 n
  { x with
      queue, issued := bvf 32 rec_ (0x168 + 4 * i) 4, stage := stageOf (fld l 769 1), block := blockOf l 770,
      acquired := f 0, elastic := f 1, onTime := f 2, poisoned := f 3, patched := f 4, slotOver := f 5, tail := f 6, byteWrites := f 9,
      resw := bvf 5 l 782 2, idx := Vector.ofFn fun n => bvf 32 l (784 + 4 * n.val) 4, result := bvf 64 l 808 8,
      hash := bvf 64 l 816 8, count := fld l 824 8, slots := bvf 32 l 832 4, slotGen := bvf 64 l 836 8,
      ring := if f 7 then
          some { tile := bvf 10 l 844 2, rid := bvf 5 l 846 1, slot := bvf 4 l 847 1, fill := bvf 32 l 848 4, checked := f 8 }
        else none,
      lateCount := bvf 32 l 852 4, lateSum := bvf 64 l 856 8, redo := fld l 864 8,
      bodyGen := bvf 64 l 872 8, rowDone := fld l 880 8,
      rowIdx := if f 10 then some ((bvf 64 l 888 8).toInt, f 11) else none, sending := f 12, slipped := f 13,
      hold := if i = 1 then Vector.ofFn fun o => (countedItems ((ports.drop (1058 * o.val)).take 1058) 33).map entryOfBytes else x.hold,
      staging := if i = 1 then (countedItems ((ports.drop 0x900).take 0x1300) 74).map stagedOf else x.staging,
      partIn := if i < 2 then partOf ((ports.drop (0x1C00 + 260 * i)).take 130) else x.partIn,
      skip := if i < 2 then bvf 32 ports (0x1C00 + 520 + 12 * i) 4 else x.skip,
      pushed := if i < 2 then fld ports (0x1C00 + 524 + 12 * i) 8 else x.pushed,
      carry := if i < 2 then partOf ((ports.drop (0x1C00 + 260 * i + 130)).take 130) else x.carry,
      refetch := if i < 2 then refetchOf (x.refetch.map Refetch.chain) ((rec_.drop (0xEB00 + 2048 * i)).take 2048) else x.refetch }

/-! ### The grid and the matrix plane (0x4000, 0x6800, 0xEA80) -/

/-- A fabric element's record of 640 bytes. -/
def Fe.bytes (f : Fe) : List Byte :=
  padTo 640 (f.v.toList.flatMap (fun v => leBytes 32 v.toNat) ++ f.q.toList ++ f.gen.toList.flatMap fun g => leBytes 8 g.toNat)

/-- The fabric element of 640 bytes. -/
def feOf (l : List Byte) : Fe :=
  { v := Vector.ofFn fun i => bvf 256 l (32 * i.val) 32, q := Vector.ofFn fun i => bvf 8 l (512 + i.val) 1,
    gen := Vector.ofFn fun i => bvf 64 l (516 + 8 * i.val) 8 }

/-- A configuration slot. -/
def slotBytes (m : Option Image) : List Byte := match m with | some m => m.bytes | none => List.replicate 16704 0

/-- A configuration slot as a record holds it: it is not checked again (R426). -/
def slotImage (full : Bool) (l : List Byte) : Option Image :=
  if full then (match parseImage l with | .ok m => some m | .error _ => none) else none

/-- The 128 bytes at 0xEA80: the active slot, which slots are filled, SAT, the plane's record, mark and load (R92, R310), the run
result word, the CBs and the ticks of the lease (R91) and the pending-byte count. -/
def State.gridBytes (s : State) (P : TileId) (t : Tile) : List Byte :=
  let p := (s.quad (quadOf P)).planes[(posOf P).toNat]'(posOf P).isLt
  padTo 128
    ([BitVec.ofNat 8 t.grid.active.toNat] ++
     leBytes 2 (flagsNat [t.grid.slot0.isSome, t.grid.slot1.isSome, t.sat, p.record.isSome, p.mark.isSome, p.loading]) ++ [0] ++
     (match p.record with
      | some (a, f, kp) => leBytes 8 a.toNat ++ [f, 0] ++ leBytes 2 kp.toNat
      | none => List.replicate 12 0) ++
     (match p.mark with
      | some (c, v) => padTo 4 [c.code] ++ leBytes 8 v.toNat
      | none => List.replicate 12 0) ++
     leBytes 8 (t.eng[engIx .gr]).result.toNat ++ leBytes 4 t.leaseCbs ++ leBytes 4 t.pending.toNat ++ leBytes 4 t.leaseTicks)

/-- The weight plane's record, mark and load of a state record. -/
def planeOf (rec_ : List Byte) : Plane :=
  let l := (rec_.drop 0xEA80).take 128
  { record := if flagAt l 1 2 3 then some (bvf 64 l 4 8, bvf 8 l 12 1, bvf 9 l 14 2) else none,
    mark := if flagAt l 1 2 4 then some (causeOf (bvf 8 l 16 1), bvf 64 l 20 8) else none,
    loading := flagAt l 1 2 5, upset := [] }

/-! ### The state record -/

/-- The state record of a stopped tile of task t (R424): 65,536 bytes, the last eight the CRC of those before. -/
def State.recordBytes (s : State) (tid : Nat) (k : Task) (P : TileId) (t : Tile) : List Byte :=
  let body := padTo 65528
    (t.core.regs.toList.flatMap (fun r => leBytes 8 r.toNat) ++ t.sysBytes ++
     t.sems.toList.flatMap (fun x => leBytes 4 x.toNat) ++ t.regions.toList.flatMap regionBytes ++
     t.bars.toList.flatMap handleBytes ++ t.eng.toList.flatMap Engine.bytes ++ t.portBytes ++
     t.grid.fes.toList.flatMap Fe.bytes ++ slotBytes t.grid.slot0 ++ slotBytes t.grid.slot1 ++ s.gridBytes P t ++
     (t.eng[engIx .ld]).refetchBytes .ld ++ (t.eng[engIx .st]).refetchBytes .st ++
     (if t.vt.toNat % 16 = 0 then (clusterKeys tid t.vt t.copy).flatMap fun u => unitBytes (k.barUnit? u) else []))
  body ++ leBytes 8 (crc64 body).toNat

/-- A record passes its CRC. -/
def recordOk (rec_ : List Byte) : Bool := (crc64 (rec_.take 65528)).toNat == fld rec_ 65528 8

/-- The tile of a state record of task t, on top of what else is kept of it: its events, the holds of its regions, its counts and
what its agents must see. -/
def Tile.fromRecord (t : Tile) (tid : Nat) (rec_ : List Byte) : Tile :=
  let part (o n : Nat) : List Byte := (rec_.drop o).take n
  { t with
      core := t.core.fromRecord rec_,
      sems := Vector.ofFn fun i => bvf 32 rec_ (0x200 + 4 * i.val) 4,
      regions := Vector.ofFn fun i =>
        regionRec (part (0x300 + 64 * i.val) 64) (match t.regions[i] with | some g => g.holds | none => []),
      bars := Vector.ofFn fun i => handleOf tid (part (0xB00 + 16 * i.val) 16),
      eng := Vector.ofFn fun i => t.eng[i].fromRecord i.val rec_,
      grid :=
        { fes := Vector.ofFn fun i => feOf (part (0x4000 + 640 * i.val) 640), slot0 := slotImage (flagAt rec_ 0xEA81 2 0) (part 0x6800 16704),
          slot1 := slotImage (flagAt rec_ 0xEA81 2 1) (part 0xA940 16704), active := bvf 1 rec_ 0xEA80 1, run := none },
      sat := flagAt rec_ 0xEA81 2 2, leaseCbs := fld rec_ 0xEAA4 4, pending := bvf 32 rec_ 0xEAA8 4, leaseTicks := fld rec_ 0xEAAC 4 }

/-- The cluster-scope units of a state record (R424). -/
def unitsOf (t : Nat) (vt : BitVec 10) (copy : Bool) (rec_ : List Byte) : List (BarKey × List Byte) :=
  if vt.toNat % 16 = 0 then (clusterKeys t vt copy).zip (recordsOf (rec_.drop 0xFB00) 16 16) else []

/-! ### The task record (R423) -/

/-- The keys of the units of die and package scope of a task. -/
def taskKeys (t : Nat) : List BarKey :=
  (List.range 16).map (fun u => .die t (BitVec.ofNat 4 u)) ++ (List.range 16).map fun u => .package t (BitVec.ofNat 4 u)

/-- A phase record in eight bytes. -/
def PhaseRec.bytes (r : PhaseRec) : List Byte := leBytes 4 r.phase.toNat ++ [r.cls, 1, if r.ovr then 1 else 0, 0]

/-- The bits of a slip hold: one for each engine of each virtual tile. -/
def holdBits (l : List (TileId × Eng)) : List Byte :=
  (List.range 640).map fun i => BitVec.ofNat 8 (flagsNat ((List.range 8).map fun b =>
    l.any fun h => h.1.toNat * 5 + h.2.code.toNat == 8 * i + b))

/-- The engines of a slip hold, by virtual tile. -/
def holdOf (l : List Byte) : List (TileId × Eng) :=
  ((List.range 5120).filter fun i => (l.getD (i / 8) 0).getLsbD (i % 8)).map fun i => (BitVec.ofNat 10 (i / 5), engOf (i % 5))

/-- The 3,840 bytes of a task record before the counter block: 32 barrier units, four phase records, RCC, the slip hold with the
ticks that it has lasted, and the tile-map base, of which the manual says nothing more.
(DESIGN CHOICE, log entry 87: the tile-map base is a free value.) -/
def Task.recordBytes (k : Task) (t rcc n : Nat) (hold : List (TileId × Eng)) : List Byte :=
  padTo 0xF00
    ((taskKeys t).flatMap (fun u => unitBytes (k.barUnit? u)) ++ padTo 32 (k.phases.flatMap PhaseRec.bytes) ++ leBytes 8 rcc ++
     (match k.slipSince with | some m => leBytes 8 m ++ leBytes 8 1 | none => List.replicate 16 0) ++
     holdBits hold ++ (List.range 8).map fun i => Config.recordByte (n + i))

/-- A task with what its record says. The slip hold names virtual tiles. -/
def Task.fromRecord (k : Task) (t : Nat) (l : List Byte) : Task :=
  let phases := ((recordsOf (l.drop 512) 8 4).filter fun r => fld r 5 1 != 0).map fun r =>
    ({ phase := bvf 32 r 0 4, cls := bvf 8 r 4 1, ovr := fld r 6 1 != 0 } : PhaseRec)
  { k.setUnits ((taskKeys t).zip (recordsOf l 16 32)) with
      phases, rccBase := fld l 544 8, slipSince := if fld l 560 8 = 0 then none else some (fld l 552 8),
      slipHold := holdOf ((l.drop 568).take 640) }

end Sys2Proof.Machine
end

