-- ==== Sys2Proof/Machine/Preempt.lean ====
section
/-! DEFINITION. Pre-emption and the context save: what stops where (R46, R152, R220, R286, R322, R337, R352, R367, R422) and the save
itself (R423, R425, R435). -/
namespace Sys2Proof.Machine

/-! ### Stopping (R422) -/

/-- The core of a tile takes its boundary (R220): IDLE has completed, and any other instruction that waits executes again on
resume. A core that has raised a cause, or has halted, stays so. -/
def Core.boundary (c : Core) : Core :=
  match c.run with
  | .waiting _ .idle _ => c.goto (c.pc + 4)
  | .waiting _ _ _ => { c with run := .running }
  | _ => c

/-- The Siphon abandons the CB of an engine after step 1: it starts again at step 2, with no result (R367). -/
def Engine.restart (x : Engine) : Engine :=
  { x with stage := .body, idx := Vector.replicate 6 0, started := false, result := 0, hash := fnvBasis, count := 0, resw := 0,
           patched := false, rowDone := 0, rowIdx := none, sending := false }

/-- The engine's CB is one that the Siphon runs, and has acquired its header wait. -/
def Engine.inSiphon (x : Engine) (e : Eng) : Bool :=
  x.acquired && (match x.cur with | some f => f.cb.siphons e | none => false)

/-- An engine starts no further iteration, and what it abandons goes again on resume (R285, R286, R367). -/
def Engine.halted (x : Engine) (e : Eng) : Engine :=
  match x.block with
  | .event => x
  | .dead => x
  | .refetch => x
  | .patchTarget _ _ => if x.inSiphon e then { x.restart with block := .none } else x
  | _ =>
    if x.finishing e then x
    else if x.inSiphon e then { x.restart with block := .none }
    else { x with block := .none }

/-- The requests of a tile leave the compare buffer of its task. -/
def State.uncompare (s : State) (P : TileId) : State :=
  s.modTaskOf P fun k => { k with compare := k.compare.filter fun r => r.vt != (s.tile P).vt }

/-- A lease of tile P ends with the pre-emption, its array idle, and its counts are kept for the state record (R91, R424). -/
def State.stopLease (s : State) (P : TileId) : State :=
  let g := quadOf P
  let keep (s : State) (cbs ticks : Nat) : State := s.modTile P fun t => { t with leaseCbs := cbs, leaseTicks := ticks }
  let s := s.modQuad g fun q => { q with wants := q.wants &&& ~~~ posBit (posOf P) }
  match (s.quad g).lease with
  | .held p since n =>
    if p = posOf P then keep (s.modQuad g fun q => { q with lease := .idle, yield := false }) n (s.tick - since) else keep s 0 0
  | .switch p _ => if p = posOf P then keep (s.modQuad g fun q => { q with lease := .idle, yield := false }) 0 0 else keep s 0 0
  | .idle => keep s 0 0

/-- The pre-emption order reaches tile P: its core and its engines stop, what they wait for is withdrawn, its grid drains, and
its CB leaves the Siphon. -/
def State.stopTile (s : State) (P : TileId) : State :=
  let s := (((s.countWait P).stopLease P).abandon P).uncompare P
  let s := [Eng.ld, .st, .gr, .mx, .rt].foldl (fun (s : State) e =>
    (if (s.engine P e).finishing e then s else s.unpark P (engSrc e)).leaveRings P e) s
  let s := s.modDie (dieOf P) fun d =>
    if d.siphon.serving = some P then { d with siphon := { d.siphon with serving := none, last := P } } else d
  s.modTile P fun t =>
    { t with stopped := true, waiters := t.waiters.filter fun w => (match w.who with | .ring _ _ => true | _ => false),
             core := t.core.boundary, eng := Vector.ofFn fun i => t.eng[i].halted (engOf i.val),
             grid := { t.grid with run := t.grid.run.map fun r => { r with drain := true } } }

/-- A trailing tile stops where its leading tile has stopped (R435): an IDLE that it is in completes, as that of the leading tile has (R220). -/
def State.level (s : State) (P : TileId) : Bool :=
  if (s.tile P).trailing then
    match s.twinTile P with
    | some L => (s.tile L).stopped && (s.core P).boundary.instrs == (s.core L).instrs &&
        [Eng.ld, .st, .gr, .mx, .rt].all fun e => s.progress P e == s.progress L e
    | none => true
  else true

/-- A pre-emption order that reaches a task after its last chain has ended is not carried out: the task is RUNNING again, to retire
(R458). -/
def State.dropOrder (s : State) (t : Nat) (k : Task) : State :=
  let s := s.settleRcc.modTask t fun k => { k with state := .running, runSince := s.tick, slipFrom := s.tick }
  k.tiles.foldl (fun (s : State) P => s.modTile P fun t => { t with stopped := false }) s

/-- PREEMPT_ARRIVAL (R422, R458). -/
def execPreemptArrival (P : TileId) (s : State) : Res :=
  match s.taskOf P, (s.tile P).task with
  | some k, some t =>
    if k.state = .saving ∧ k.ending.isNone ∧ (s.tile P).stopped = false ∧ s.level P ∧ s.io.lost = false then
      .next (if s.allHalted k then s.dropOrder t k else s.stopTile P)
    else notNow "PREEMPT_ARRIVAL"
  | _, _ => notNow "PREEMPT_ARRIVAL"

/-! ### What a switched-out tile keeps (R46, R105, R337, R338) -/

/-- A stopped engine forgets the CBs that it has fetched: they are fetched again (R46). One that waits on an event keeps its CB, to be fetched
again when an action lets it go on (R409). A load of a weight plane starts over (R322).
(DESIGN CHOICE, log entry 103: the ring slots of a load that starts over.) -/
def Engine.unfetch (x : Engine) : Engine :=
  let at_ := match x.cur, x.ahead with
    | some f, _ => some f.addr
    | none, g :: _ => some g.addr
    | none, [] => none
  let ovr : Bool := match x.cur with | some f => f.cb.op == 0x30 && decide (x.stage = .body) | none => false
  let x := match at_ with
    | some a => x.modHead fun c => { c with next := a, last := false }
    | none => x
  let held := if x.block = .event then x.cur.map fun f => { f with fault := some (f.fault.getD (Cause.none, 0)) } else none
  let x := { x with cur := held, ahead := [], started := false, readySince := none, lines := [], lag := 0 }
  if ovr then { x with idx := Vector.replicate 6 0, count := 0, hash := fnvBasis, result := 0 } else x

/-- The virtual tile of a physical one, as a saved tile names it. -/
def State.vtAt (s : State) (P : TileId) : TileId := (s.tile P).vt

/-- An event that is raised again on resume as it stands: a slip, whose hold goes on (R420), and the fault of a run of the grid, which
is not resumed (R351). -/
def Tile.stands (t : Tile) (v : Event) : Bool :=
  v.cause == .slip || (match srcEng v.src with | some e => decide ((t.eng[engIx e]).block = .dead) | none => false)

/-- Of an event that has not been recorded, the source goes on and raises it again on resume (R410).
(DESIGN CHOICE, log entry 86: when a call counts as taken up.) -/
def Tile.dropUnrecorded (t : Tile) : Tile :=
  let gone (src : BitVec 3) : Bool := t.events.any fun v => v.src == src && !v.recorded && !t.stands v
  let core := if gone 0 ∧ t.core.run = .event then { t.core with run := .running } else t.core
  let free (e : Eng) (x : Engine) : Engine :=
    if gone (engSrc e) ∧ x.block = .event then { (if x.inSiphon e then x.restart else x) with block := .none } else x
  { t with core, events := t.events.filter fun v => v.recorded || t.stands v,
           eng := Vector.ofFn fun i => free (engOf i.val) t.eng[i] }

/-- What is kept of a stopped tile. Physical tile numbers become virtual ones, prefetched CBs and the instruction cache go, its ports
are empty, and the queues of its semaphores are formed again on resume. -/
def State.keptTile (s : State) (P : TileId) : Tile :=
  let t := (s.tile P).dropUnrecorded
  let t := if t.grid.run.isSome then t.endPorts else t.giveBack
  let hold (h : SlotHold) : SlotHold := { h with tile := s.vtAt h.tile }
  { t with waiters := [], core := { t.core with icache := [], flight := none, ready := [] },
           regions := Vector.ofFn fun i => t.regions[i].map fun g => { g with holds := g.holds.map hold },
           eng := Vector.ofFn fun i => { t.eng[i].unfetch with ring := t.eng[i].ring.map fun r => { r with tile := s.vtAt r.tile } } }

/-! ### The save area (R423, R425) -/

/-- The area of virtual tile v of a copy (R423). -/
def Task.tileArea (k : Task) (copy : Bool) (v : Nat) : Word :=
  k.save + BitVec.ofNat 64 (0x11000 + 0xA0000 * (if copy then k.image.vgrid + v else v))

/-- The safe-point map of a pc: bit n set is a live range; every range is live where no entry matches (R22).
(DESIGN CHOICE, log entry 76: a table that cannot be read.) -/
def State.liveMap (s : State) (k : Task) (pc : Word) : State × BitVec 128 :=
  match s.readTable k.ctx k.image.safetab 32 k.image.nsafe with
  | (s, none) => (s, BitVec.allOnes 128)
  | (s, some l) =>
    match l.find? fun e => numAt e 0 8 == pc.toNat with
    | some e => (s, BitVec.ofNat 128 (numAt e 16 16))
    | none => (s, BitVec.allOnes 128)

/-- The bytes of [a, a + n) from cells that start there. -/
def denseOf : Nat → Nat → List Host.Cell → List Byte
  | 0, _, _ => []
  | n + 1, a, [] => unlisted :: denseOf n (a + 1) []
  | n + 1, a, (k, b) :: r => if k = a then b :: denseOf n (a + 1) r else unlisted :: denseOf n (a + 1) ((k, b) :: r)

/-- The lines of a span with their marks. -/
def State.linesOf (s : State) (g n : Nat) : List (List Byte × Bool) :=
  let l := recordsOf (denseOf n 0 (memSpan s.mem g 0 n)) 64 (n / 64)
  (l.zip (List.range (n / 64))).map fun x => (x.1, s.poisoned (lineOf g + x.2))

/-- A save write or a restore read that fails: the cause that ends the task (R423, R426). -/
def failCause (p : Put) : Cause :=
  match p with
  | .trap .prot => .prot
  | _ => .badaddr

/-- Lines are written upwards from an address under a context with no key check; a marked line is saved with its mark. -/
def saveLines (ctx : BitVec 12) : List (List Byte × Bool) → State → Word → State × Option Cause
  | [], s, _ => (s, none)
  | (l, mark) :: r, s, va =>
    match s.writeVa (agentWho ctx) va l false with
    | (s, .done, _) =>
      let s := if mark then (match s.globalOf (agentWho ctx) va .write with | some g => s.mark (lineOf g) | none => s) else s
      saveLines ctx r s (va + 64)
    | (s, p, _) => (s, some (failCause p))

/-- The live ranges of a tile's memory are saved. -/
def saveMemory (ctx : BitVec 12) (P : TileId) (live : BitVec 128) (area : Word) : List Nat → State → State × Option Cause
  | [], s => (s, none)
  | i :: r, s =>
    if live.getLsbD i then
      match saveLines ctx (s.linesOf (gTile P.toNat (4096 * i)) 4096) s (area + BitVec.ofNat 64 (4096 * i)) with
      | (s, none) => saveMemory ctx P live area r s
      | x => x
    else saveMemory ctx P live area r s

/-- A tile is saved: its memory, its accumulator quarter, and last its state record (R425). -/
def State.saveTile (s : State) (tid : Nat) (k : Task) (P : TileId) (t : Tile) : State × Option Cause :=
  let area := k.tileArea t.copy t.vt.toNat
  let rec_ := s.recordBytes tid k P t
  let (s, live) := s.liveMap k t.core.pc
  match saveMemory k.ctx P live area (List.range 128) s with
  | (s, some c) => (s, some c)
  | (s, none) =>
    match saveLines k.ctx (s.linesOf (gAcc P.toNat 0) 65536) s (area + 0x80000) with
    | (s, some c) => (s, some c)
    | (s, none) => saveLines k.ctx ((recordsOf rec_ 64 1024).map fun l => (l, false)) s (area + 0x90000)

/-! ### TILE_STOPPED (R422, R425) -/

/-- A write of tile P to a peer that the peer has not acknowledged (R425). -/
def State.peerWrites (s : State) (P : TileId) : Bool :=
  s.io.outReqs.any fun r => r.src == s.srcOf P && r.ans.isNone && (match r.op with | .write _ => true | _ => false)

/-- Nothing of a tile is under way any more: the core and the five engines have stopped, its grid has drained, and its remote
writes are acknowledged, those to a peer before a save too (R425). An engine of a task that is to end finishes its CB only if nothing holds it (R415). -/
def State.quiet (s : State) (P : TileId) : Bool :=
  let t := s.tile P
  let ends := match s.taskOf P with | some k => k.ending.isSome | none => false
  let goes (e : Eng) : Bool :=
    (s.engine P e).finishing e && (if ends then decide ((s.engine P e).block = .none) && s.engGo P e else (s.engine P e).block.retries)
  t.stopped && t.grid.run.isNone && !([Eng.ld, .st, .gr, .mx, .rt].any goes) && (ends || !s.peerWrites P) &&
  !s.transit.any fun x => x.tile == P

/-- The bytes of a tile's memory. -/
def State.tileImage (s : State) (P : TileId) : List Byte := denseOf Config.tileBytes 0 (memSpan s.mem (gTile P.toNat 0) 0 Config.tileBytes)

/-- The CRCs of the state records and of the tile-memory images of a pair are equal (R435). Of the trailing tile, the tag of an atomic
that the leading one has issued for both, and its lateness counts, are those of the leading one. -/
def State.pairAgrees (s : State) (tid : Nat) (k : Task) (P Q : TileId) : Bool :=
  let a := s.keptTile P
  let b := s.keptTile Q
  let b := { b with core := { b.core with atomTag := a.core.atomTag },
                    eng := Vector.ofFn fun i => { b.eng[i] with lateCount := a.eng[i].lateCount, lateSum := a.eng[i].lateSum } }
  decide (crc64 (s.recordBytes tid k P a) = crc64 (s.recordBytes tid k Q b)) &&
  decide (crc64 (s.tileImage P) = crc64 (s.tileImage Q))

/-- A failed save or restore ends the task with FAULT at a virtual tile (R423, R426). -/
def State.failSwitch (s : State) (t : Nat) (c : Cause) (vt : BitVec 10) : State := s.endDomain t c.code vt

/-- Every tile of a task has stopped and nothing of it is under way. -/
def State.allQuiet (s : State) (k : Task) : Bool := k.tiles.all s.quiet

/-- A tile of a lower quad of the die is to be saved first: the context-save engine of a die takes one quad at a time, in ascending
physical order (R425). -/
def State.savesBefore (s : State) (P : TileId) : Bool :=
  s.tiles.any fun p =>
    let Q : TileId := BitVec.ofNat 10 p.1
    dieOf Q == dieOf P && decide (quadOf Q < quadOf P) && !p.2.trailing &&
    (match s.taskOf Q with
     | some k => decide (k.state = .saving) && k.ending.isNone && (kfind k.saved (savedKey p.2)).isNone && s.allQuiet k
     | none => false)

/-- TILE_STOPPED (R422, R425): this tile is saved, once the task's other tiles have stopped too, so that none of their signals and
writes comes after its image, and what its die knows of goes with it (R397). Of a pair, the leading tile is saved after the two have been compared (R435).
(DEDUCED, log entry 58: after every tile of the task has stopped.) -/
def execTileStopped (P : TileId) (s : State) : Res :=
  match (s.tile P).task with
  | none => notNow "TILE_STOPPED"
  | some t =>
    match s.task? t with
    | none => notNow "TILE_STOPPED"
    | some k =>
      let kept := s.keptTile P
      if k.state ≠ .saving ∨ k.ending.isSome ∨ (s.tile P).trailing ∨ (kfind k.saved (savedKey kept)).isSome ∨
          s.allQuiet k = false ∨ s.savesBefore P ∨ s.io.lost then notNow "TILE_STOPPED"
      else if (match s.follower P with | some Q => !s.pairAgrees t k P Q | none => false) then .next (s.pairEnd P)
      else match s.saveTile t k P kept with
        | (s, some c) => .next (s.failSwitch t c kept.vt)
        | (s, none) =>
          .next (s.modTask t fun k =>
            { k with saved := kset k.saved (savedKey kept) kept, clock := clockMax k.clock (s.die (dieOf P)).k })

/-! ### SAVE_COMPLETE (R81, R425) -/

/-- The tiles of a task go back to having none. -/
def State.freeTiles (s : State) (l : List TileId) : State :=
  { s with tiles := s.tiles.filter fun p => !l.any fun P => P.toNat == p.1 }

/-- How a slip hold names a tile while its task is switched out: by its virtual tile, with 512 for a trailing one. -/
def State.holdName (s : State) (P : TileId) : TileId :=
  (s.tile P).vt + if (s.tile P).trailing then 512 else 0

/-- The task record is written (R423). -/
def State.saveTaskRecord (s : State) (t : Nat) (k : Task) : State × Option Cause :=
  let l := k.recordBytes t (s.rcc k) s.free (k.slipHold.map fun h => (s.holdName h.1, h.2))
  saveLines k.ctx ((recordsOf l 64 60).map fun l => (l, false)) { s with free := s.free + 8 } (k.save + 0x10000)

/-- SAVE_COMPLETE (R425): the quads are freed, and the task is READY again. -/
def execSaveComplete (t : Nat) (s : State) : Res :=
  match s.task? t with
  | none => notNow "SAVE_COMPLETE"
  | some k =>
    if k.state ≠ .saving ∨ k.ending.isSome ∨ s.io.lost ∨
        ((k.tiles.filter fun P => !(s.tile P).trailing).any fun P => (kfind k.saved (savedKey (s.tile P))).isNone) then
      notNow "SAVE_COMPLETE"
    else match s.saveTaskRecord t k with
      | (s, some c) => .next (s.failSwitch t c 0)
      | (s, none) =>
        let s := s.modTask t fun x =>
          { x with state := .ready, readyAt := s.tick, tileMap := [], tileMap1 := [], slipHold := [],
                   ctr := { x.ctr with preempt := satAdd 32 x.ctr.preempt 1 } }
        let quads := k.tiles.map quadOf
        .next { (s.freeTiles k.tiles) with quads := s.quads.filter fun p => !quads.contains p.1 }

end Sys2Proof.Machine
end

