-- ==== Sys2Proof/Machine/Supervisor.lean ====
section
/-! DEFINITION. Events and the supervisor's actions on them (R409 to R415): recording, PAIR and TWIN comparison (R434, R437), RESUME,
SKIP, ELASTIC (R420), ROLLBACK with its refetch (R441 to R444), END and fault domains. -/
namespace Sys2Proof.Machine

/-! ### Recording (R410 to R412) -/

/-- The oldest event of a source that is not recorded. -/
def Tile.newEvent (t : Tile) (src : BitVec 3) : Option Event := t.events.find? fun v => v.src == src && !v.recorded

/-- The new event of a source takes the sequence number of its record, which names tile P. -/
def Tile.recordEvent (t : Tile) (src : BitVec 3) (P : TileId) (seqno : Word) : Tile :=
  { t with events := t.events.map fun v => if v.src = src ∧ v.recorded = false then { v with recorded := true, ptile := P, seqno } else v }

/-- Two copies have raised the same event (R434, R437). -/
def Event.same (a b : Event) : Bool := a.cause == b.cause && a.src == b.src && a.val == b.val && a.loc == b.loc

/-- Since when a new event of a source is on its way to the arbiter: of a PAIR or TWIN task, since both of its tiles have raised one.
The tiles of the leading cluster, or of copy 0, bring it. Once its tile has been saved it is raised again on resume (R410). -/
def State.onItsWay (s : State) (P : TileId) (src : BitVec 3) : Option Nat :=
  match (s.tile P).newEvent src, s.taskOf P with
  | some v, some k =>
    if (s.tile P).trailing || (s.tile P).copy || k.ending.isSome || (s.keptKey P).isSome then none
    else if k.redun = .none then some v.since
    else match s.twinTile P with
      | none => some v.since
      | some Q => if (s.keptKey Q).isSome then none else ((s.tile Q).newEvent src).map fun w => max v.since w.since
  | _, _ => none

/-- The events on their way to the arbiter of a cluster, with their places in the order of one tick (R411) and since when. -/
def State.arriving (s : State) (c : Nat) : List (Nat × Nat) :=
  s.tiles.flatMap fun p =>
    let P : TileId := BitVec.ofNat 10 p.1
    if clusterOf P = c then
      (p.2.events.filter fun v => !v.recorded).filterMap fun v => (s.onItsWay P v.src).map fun t => (8 * p.1 + v.src.toNat, t)
    else []

/-- An event with this place in the order of a tick, on its way since tick `since`, may reach the arbiter of cluster c now (R410,
R411): two ticks have passed, no other one that has been on its way for 11 ticks longer is left, none that comes before it in the
order of a tick must reach the arbiter in this one, and none that comes after it has done so. The queue has room. -/
def State.arrives (s : State) (c key since : Nat) : Bool :=
  decide (since + 2 ≤ s.tick ∧ (s.cluster c).queue.length < 256) && !s.io.lost &&
  (match (s.cluster c).last with | some (t, k) => decide (t < s.tick ∨ k < key) | none => true) &&
  !(s.arriving c).any fun x => x.1 != key && (decide (11 ≤ s.between (c / 16) x.2 since) || (s.passed (c / 16) x.2 12 && decide (x.1 < key)))

/-- The 32 bytes of an event record (R410). -/
def EventRec.bytes (r : EventRec) : List Byte :=
  leBytes 8 r.seqno.toNat ++ leBytes 1 r.cause.toNat ++ leBytes 1 r.src.toNat ++ leBytes 2 r.ptile.toNat ++ leBytes 2 r.ctx.toNat ++
  leBytes 2 0 ++ leBytes 8 r.val.toNat ++ leBytes 8 r.loc.toNat

/-- A record joins the queue of cluster c with the next sequence number, in the ring of 256 records in the supervisor's memory
(R410). -/
def State.appendEvent (s : State) (c : Nat) (r : EventRec) : State :=
  s.modCluster c fun x =>
    let r := { r with seqno := x.seqno }
    { x with queue := x.queue ++ [r], ring := kset x.ring (x.seqno.toNat % 256) r.bytes, seqno := x.seqno + 1,
             last := some (s.tick, 8 * r.ptile.toNat + r.src.toNat) }

/-- The record of an event of tile P. -/
def State.eventRec (s : State) (P : TileId) (v : Event) : EventRec :=
  { seqno := 0, cause := v.cause.code, src := v.src, ptile := P, ctx := (s.who P 0 0).ctx, val := v.val, loc := v.loc }

/-- The event of a source of tile P, and of its other tile Q if it has one, is recorded. -/
def State.recordAt (s : State) (P : TileId) (Q : Option TileId) (src : BitVec 3) (v : Event) : State :=
  let n := (s.cluster (clusterOf P)).seqno
  let s := (s.appendEvent (clusterOf P) (s.eventRec P v)).modTile P fun t => t.recordEvent src P n
  match Q with
  | some Q => s.modTile Q fun t => t.recordEvent src P n
  | none => s

/-- The oldest report to the lead of die d goes through the arbiter of its cluster 0, as one of tile 256·d with SRC 7 (R412).
(DESIGN CHOICE, log entry 88: PTILE and SRC of a report.) -/
def State.recordReport (s : State) (d : Nat) : Res :=
  match (s.die d).reports with
  | [] => notNow "EVENT_RECORD"
  | (r, since) :: rest =>
    if s.arrives (16 * d) (8 * r.ptile.toNat + 7) since then
      .next ((s.modDie d fun x => { x with reports := rest }).appendEvent (16 * d) r)
    else notNow "EVENT_RECORD"

/-- EVENT_RECORD (R410, R411): between two and twelve ticks after it was raised, and while the queue has room. Of a pair, the leading
event is recorded once the trailing one is the same; of a TWIN task, the two copies' events make one record (R434, R437).
(DEDUCED, log entry 29: from which tick the event of a twin counts.) -/
def execEventRecord (P : TileId) (src : BitVec 3) (s : State) : Res :=
  if src = 7 then (if P.toNat % 256 = 0 then s.recordReport (dieOf P) else notNow "EVENT_RECORD")
  else
    match (s.tile P).newEvent src, s.onItsWay P src, s.taskOf P, (s.tile P).task with
    | some v, some since, some k, some t =>
      if !s.arrives (clusterOf P) (8 * P.toNat + src.toNat) since then notNow "EVENT_RECORD"
      else if k.redun = .none then .next (s.recordAt P none src v)
      else
        match s.twinTile P with
        | none => .next (s.recordAt P none src v)
        | some Q =>
          if (match (s.tile Q).newEvent src with | some w => v.same w | none => false) then .next (s.recordAt P (some Q) src v)
          else if k.redun = .pair then .next (s.pairMismatch P)
          else .next (s.endTask t stTwin 0)
    | _, _, _, _ => notNow "EVENT_RECORD"

/-! ### The source of an action word (R413) -/

/-- Where the source of an action word waits: on a tile, or in what is kept of a tile that is switched out. -/
inductive SrcAt where
  | live (P : TileId)
  | kept (task key : Nat)
deriving DecidableEq, Repr

/-- The recorded event of a source that waits for the supervisor. -/
def Tile.waitingEvent (t : Tile) (src : BitVec 3) : Option Event :=
  t.events.find? fun v => v.src == src && v.recorded && v.action == 0

/-- The recorded event of a source that was raised on physical tile P. -/
def Tile.eventFrom (t : Tile) (P : TileId) (src : BitVec 3) : Option Event :=
  (t.waitingEvent src).filter fun v => v.ptile == P

/-- The sources (P, src) that wait on an event, on the tiles that run and in what is kept of those that have been saved, until they run
again: the number of the event, its task, its place and its tile. -/
def State.sources (s : State) (P : TileId) (src : BitVec 3) : List (Word × Nat × SrcAt × Tile) :=
  let live := s.tiles.filterMap fun p =>
    match p.2.task, p.2.eventFrom P src with
    | some t, some v =>
      if p.2.trailing || p.2.copy || (s.keptKey (BitVec.ofNat 10 p.1)).isSome then none
      else some (v.seqno, t, SrcAt.live (BitVec.ofNat 10 p.1), p.2)
    | _, _ => none
  let kept := s.tasks.flatMap fun k =>
    k.2.saved.filterMap fun p =>
      if p.2.copy then none else (p.2.eventFrom P src).map fun v => (v.seqno, k.1, SrcAt.kept k.1 p.1, p.2)
  (live ++ kept).filter fun x => match s.task? x.2.1 with | some k => k.ending.isNone | none => false

/-- The source (P, src) whose event the arbiter numbered first, its task and its tile. -/
def State.findSrc (s : State) (P : TileId) (src : BitVec 3) : Option (Nat × SrcAt × Tile) :=
  match s.sources P src with
  | [] => none
  | x :: r => some (r.foldl (fun b y => if y.1.toNat < b.1.toNat then y else b) x).2

/-- A tile that a source waits on changes. -/
def State.modSrc (s : State) (x : SrcAt) (f : Tile → Tile) : State :=
  match x with
  | .live P => s.modTile P f
  | .kept t key => s.modTask t fun k =>
    match kfind k.saved key with
    | some y => { k with saved := kset k.saved key (f y) }
    | none => k

/-- The physical tile of a source: the one that it runs on, or on which it raised its event. -/
def SrcAt.tile (x : SrcAt) (P : TileId) : TileId := match x with | .live Q => Q | .kept _ _ => P

/-- Where the sources of tile P wait: on it, or in what has been saved of it. -/
def State.placeOf (s : State) (P : TileId) : SrcAt :=
  match s.keptKey P with
  | some (t, key) => .kept t key
  | none => .live P

/-- The places of a source and of its twin in the other copy or cluster. -/
def State.bothSrc (s : State) (x : SrcAt) (t : Nat) : List SrcAt :=
  match x with
  | .live P => (match s.twinTile P with | some Q => [.live P, s.placeOf Q] | none => [.live P])
  | .kept u key =>
    match s.task? t with
    | some k =>
      if k.redun ≠ .twin then [x]
      else if (kfind k.saved (key + 1024)).isSome then [x, .kept u (key + 1024)]
      else x :: (k.tiles.filter fun Q => savedKey (s.tile Q) == key + 1024).map SrcAt.live
    | none => [x]

/-- The task of a source runs, so that an action takes effect at once (R422). -/
def State.actsNow (s : State) (x : SrcAt) : Bool :=
  match x with
  | .live P => !(s.tile P).stopped && (match s.taskOf P with | some k => decide (k.state = .running) | none => false)
  | .kept _ _ => false

/-! ### RESUME, SKIP, ELASTIC (R413, R420) -/

/-- The event of a source is served: it waits no longer. -/
def Tile.serveEvent (t : Tile) (src : BitVec 3) : Tile := { t with events := t.events.filter fun v => v.src != src }

/-- A CB that a fault met at its fetch, or that was fetched before a pre-emption, is to be fetched again. -/
def Engine.dropStale (x : Engine) : Engine :=
  match x.cur with
  | some f =>
    if f.fault.isSome then { (x.modHead fun c => { c with next := f.addr, last := false }) with cur := none, ahead := [] } else x
  | none => x

/-- The engine tries again: a CB that a fault met at its fetch is fetched again, and otherwise the iteration runs again. -/
def Engine.resume (x : Engine) : Engine := { x.dropStale with block := .none }

/-- A slipped CB that is tried again leaves the task's hold, so that it raises SLIP again if it still is late (R413, R420). -/
def State.leaveSlip (s : State) (P : TileId) (e : Eng) : State :=
  s.settleRcc.modTaskOf P fun k => { k with slipHold := k.slipHold.filter fun x => x != (P, e) }

/-- RESUME on tile P, whose task runs. The phase of a consumer that has met POISON once is not rolled back later (R441). -/
def State.resumeSrc (s : State) (P : TileId) (v : Event) : State :=
  let s := s.modTile P fun t => t.serveEvent v.src
  match srcEng v.src with
  | some e =>
    let s := if v.cause = .slip then s.leaveSlip P e else s
    s.modEngine P e fun x => { x.resume with poisoned := x.poisoned || v.cause == .poison }
  | none => s.modCore P fun c => { c with run := .running }

/-- The results of a service go to s4 and s5 (R417). -/
def Core.takeReply (c : Core) (r : Option (Word × Option Word)) : Core :=
  match r with
  | some (a, some b) => (c.wr 4 a).wr 5 b
  | some (a, none) => c.wr 4 a
  | none => c

/-- SKIP on tile P (a core), whose task runs: it goes on at WHERE + 4. -/
def State.skipSrc (s : State) (P : TileId) (v : Event) : State :=
  (s.modTile P fun t => t.serveEvent v.src).modCore P fun c => (c.takeReply v.reply).goto (v.loc + 4)

/-- ELASTIC on an engine of tile P, whose task runs: the slipped CB waits for its header wait (R420, R421). -/
def State.elasticSrc (s : State) (P : TileId) (src : BitVec 3) : State :=
  match srcEng src with
  | some e =>
    let s := (s.modTile P fun t => t.serveEvent src).modEngine P e fun x => { x.dropStale with block := .none, elastic := true }
    if (s.engine P e).cur.isSome then s.askHeader P e else s
  | none => s

/-! ### ROLLBACK (R441 to R443) -/

/-- A CB that a rollback can cancel (R441). -/
def CB.rollsBack (c : CB) : Bool :=
  c.consumes && c.rwin != 0xFF && c.port == 0 &&
  [0x10, 0x11, 0x12, 0x13, 0x14, 0x20, 0x21, 0x22].contains c.op.toNat

/-- The flattened index of the phase's first iteration: the levels below RLVL are 0. -/
def phaseStart (c : CB) (idx : List Nat) : List Nat :=
  List.replicate c.rlvl.toNat 0 ++ idx.drop c.rlvl.toNat

/-- A refetch record of a slot's fill. -/
def Refetch.names (r : Refetch) (vt : BitVec 10) (id : BitVec 5) (slot : BitVec 4) (fill : BitVec 32) : Bool :=
  r.rtile == vt && r.rid == id && r.slot == slot && r.fill == fill

/-- Some ld or st engine of the task holds the record of a slot's fill, in the copy of tile P. -/
def State.hasRecord (s : State) (P : TileId) (r : RingPos) : Bool :=
  match s.taskOf P with
  | some k => k.tiles.any fun Q =>
      (s.tile Q).copy == (s.tile P).copy && (s.tile Q).trailing == (s.tile P).trailing &&
      [Eng.ld, .st].any fun e => (s.engine Q e).refetch.any fun x => x.names (s.tile r.tile).vt r.rid r.slot r.fill
  | none => false

/-- The job of an engine that waits on an event. -/
def State.stoppedJob (s : State) (P : TileId) (e : Eng) : Option Job :=
  let x := s.engine P e
  match x.cur, x.queue with
  | some f, c :: _ =>
    some { P, e, cb := f.cb, addr := f.addr, idx := x.idx.toList.map BitVec.toNat, mode := Mode.of c.mode, pkr := c.pkr,
           mute := false, gather := false }
  | _, _ => none

/-- The conditions of R441 for an engine's POISON at a line, and the slot that its phase reads. -/
def State.rollbackSlot (s : State) (P : TileId) (e : Eng) (val : Word) : Option (Job × RingPos) :=
  match s.stoppedJob P e, (s.engine P e).ring with
  | some j, some r =>
    match s.region r.tile r.rid with
    | some g =>
      let lo := g.desc.base.toNat + r.slot.toNat * g.desc.slotb.toNat
      let inSlot := decide (s.tileAt P val = some r.tile ∧ lo < offOf val + 64 ∧ offOf val < lo + g.desc.slotb.toNat)
      if j.cb.rollsBack && inSlot && !g.desc.byteMode && !(s.engine P e).byteWrites && s.hasRecord P r && !(s.engine P e).poisoned then
        some (j, r)
      else none
    | none => none
  | _, _ => none

/-- The cancel and the request of a rollback (R443): the phase starts over, and its slot is refetch-pending. -/
def State.cancelPhase (s : State) (j : Job) (r : RingPos) : State :=
  let start := phaseStart j.cb j.idx
  let again := flatOf j.cb.bounds j.idx - flatOf j.cb.bounds start
  let s := s.modTile j.P fun t => t.serveEvent (engSrc j.e)
  let s := j.mod s fun x =>
    { (x.modHead fun c => { c with gen := x.slotGen }).dropStale with
        idx := idxVec start, redo := x.redo + again, block := .refetch, since := s.tick, poisoned := true, byteWrites := false,
        ring := some { r with checked := false } }
  match s.region r.tile r.rid with
  | some g => s.setRegion r.tile r.rid { g with pending := g.pending ||| BitVec.ofNat 16 (2 ^ r.slot.toNat) }
  | none => s

/-- ROLLBACK on tile P, whose task runs: the rollback, or END with ECAUSE 0x05 where a condition of R441 fails. -/
def State.rollbackSrc (s : State) (P : TileId) (t : Nat) (v : Event) : State :=
  match srcEng v.src with
  | some e =>
    match s.rollbackSlot P e v.val with
    | some (j, r) => s.cancelPhase j r
    | none => s.endDomain t 0x05 (s.tile P).vt
  | none => s.endDomain t 0x05 (s.tile P).vt

/-! ### The action rows -/

/-- An action takes effect on a tile whose task runs. -/
def State.act (s : State) (code : BitVec 3) (P : TileId) (t : Nat) (v : Event) : State :=
  if code = 1 then s.resumeSrc P v
  else if code = 2 then s.skipSrc P v
  else if code = 3 then s.elasticSrc P v.src
  else s.rollbackSrc P t v

/-- An action fits an event of a tile (R413); a run of the grid that has faulted is not resumed (R351). -/
def fits (code : BitVec 3) (t : Tile) (v : Event) : Bool :=
  if code = 1 then (match srcEng v.src with | some e => decide ((t.eng[engIx e]).block ≠ .dead) | none => true)
  else if code = 2 then v.src == 0
  else if code = 3 then v.src != 0 && v.cause == .slip
  else if code = 4 then v.cause == .poison
  else true

/-- The supervisor has consumed the record of an event. -/
def State.consume (s : State) (v : Event) : State :=
  s.modCluster (clusterOf v.ptile) fun c => { c with queue := c.queue.filter fun r => r.seqno != v.seqno }

/-- An action word for (P, src) (R413): ignored where no source waits or the action does not fit. While the task is switched
out, the action is kept with the event (R422). -/
def State.action (s : State) (code : BitVec 3) (P : TileId) (src : BitVec 3) : State :=
  match s.findSrc P src with
  | none => s
  | some (t, x, tile) =>
    match tile.waitingEvent src with
    | none => s
    | some v =>
      if !fits code tile v ∨ s.io.lost then s
      else
        let keep (s : State) (y : SrcAt) : State :=
          s.modSrc y fun z => { z with events := z.events.map fun w => if w.src = src then { w with action := code } else w }
        (s.bothSrc x t).foldl (fun (s : State) y =>
          match y with
          | .live Q =>
            if s.actsNow y then
              match (s.tile Q).waitingEvent src with
              | some w => s.act code Q t w
              | none => s
            else keep s y
          | .kept _ _ => keep s y) (s.consume v)

/-- ACTION_RESUME (R413). -/
def execActionResume (P : TileId) (src : BitVec 3) (s : State) : Res := .next (s.action 1 P src)
/-- ACTION_SKIP (R413). -/
def execActionSkip (P : TileId) (src : BitVec 3) (s : State) : Res := .next (s.action 2 P src)
/-- ACTION_ELASTIC (R413, R420). -/
def execActionElastic (P : TileId) (src : BitVec 3) (s : State) : Res := .next (s.action 3 P src)
/-- ACTION_ROLLBACK (R413, R443). -/
def execActionRollback (P : TileId) (src : BitVec 3) (s : State) : Res := .next (s.action 4 P src)

/-- A source whose access is parked, which the die lead may refuse (R418). -/
def State.parkedSrc (s : State) (P : TileId) (src : BitVec 3) : Bool :=
  src != 7 && ((List.range 4).any (fun d => ((s.die d).park ++ (s.die d).parkHeld).any fun p => p.tile == P && p.src == src) ||
    s.io.pri.any fun p => p.tile == P && p.src == src)

/-- ACTION_END (R413, R415, R418, R439): the task of the source ends in its fault domain. A CRYSTAL event marks its cluster
suspect. (DEDUCED, log entry 31: the suspect mark.) -/
def execActionEnd (P : TileId) (src : BitVec 3) (ecause : Byte) (s : State) : Res :=
  if s.io.lost then .next s
  else match s.findSrc P src with
    | some (t, _, tile) =>
      (match tile.waitingEvent src with
       | some v =>
         let s := if v.cause = Cause.crystal then s.modCluster (clusterOf P) Cluster.markSuspect else s
         .next ((s.consume v).endDomain t ecause tile.vt)
       | none => .next s)
    | none =>
      match (s.tile P).task with
      | some t => if s.parkedSrc P src then .next (s.endDomain t ecause (s.tile P).vt) else .next s
      | none => .next s

/-- What an action word does at the action port of cluster c (R413): nothing where ACTION or SRC is none of those listed, or where PTILE is
a tile of another cluster. Its reserved bits have no effect (R6). (DEDUCED, log entry 89: the words that the port ignores.) -/
def actionPort (c : Nat) (w : Word) (s : State) : Res :=
  let P : TileId := w.extractLsb' 32 10
  let src : BitVec 3 := w.extractLsb' 26 3
  let code := w.extractLsb' 0 4
  if clusterOf P ≠ c ∨ 5 < src.toNat then .next s
  else match code.toNat with
    | 1 => execActionResume P src s
    | 2 => execActionSkip P src s
    | 3 => execActionElastic P src s
    | 4 => execActionRollback P src s
    | 5 => execActionEnd P src (w.extractLsb' 8 8) s
    | _ => .next s

/-! ### The refetch (R443, R444) -/

/-- One iteration of a load or store opcode that a producer may run. -/
def producerIter (op : Nat) : Option (State → Job → Eio Done) :=
  match op with
  | 0x10 => some iterLdCopy
  | 0x11 => some iterLdCvt
  | 0x12 => some iterLdAlign
  | 0x13 => some iterLdGather
  | 0x14 => some iterLdConv
  | 0x15 => some iterLdFill
  | 0x20 => some iterStCopy
  | 0x21 => some iterStCvt
  | 0x22 => some iterStScat
  | 0x23 => some iterStRed
  | _ => none

/-- The outcome of a refetch: `waits` is for a peer's answer. -/
inductive Refetched where
  | done (s : State)
  | parks (s : State)
  | waits (s : State)
  | fails

/-- The iteration after one of a refetch, unless the level-RLVL iteration ends with it. -/
def Job.refetchNext (j : Job) : Option Job :=
  if lastBelow j.cb.bounds j.idx j.cb.rlvl.toNat then none
  else (nextTuple j.cb.bounds j.idx).map fun i => { j with idx := i }

/-- The iterations of a refetch that share their line accesses, or one iteration: the job of the last, and what it did. -/
def Job.refetchOne (j : Job) (iter : State → Job → Eio Done) (s : State) : Eio (Job × Done) :=
  let one : Eio (Job × Done) := (iter s j).then fun s d => .ok s (j, d)
  match shareLines iter 64 65536 256 0 (j.unshare s) { j with gather := true, later := true } [] with
  | some (t, k, d, _, _) =>
    (match k.flushLines (t.engine j.P j.e).lines t with
     | .ok u _ => .ok (k.unshare u) ({ k with gather := false, later := false }, d)
     | _ => one)
  | none => one

/-- The iterations of one level-RLVL iteration, from the job's tuple on. -/
def refetchRun (iter : State → Job → Eio Done) : Nat → State → Job → Refetched
  | 0, s, _ => .done s
  | n + 1, s, j =>
    match j.refetchOne iter s with
    | .ok s (k, d) =>
      if d.more then refetchRun iter n s k
      else match k.refetchNext with
        | some j => refetchRun iter n (j.mod s fun x => { x with idx := idxVec j.idx }) j
        | none => .done (s.flushWrites j.P j.e (flatOf k.cb.bounds k.idx + 1))
    | .held s => if (s.engine j.P j.e).block = .parked then .parks s else .fails
    | .busy t => .waits (s.withAsked t)

/-- The engines that wait for the refetch of a slot's fill. -/
def State.consumers (s : State) (Q : TileId) (r : Refetch) : List (TileId × Eng) :=
  match s.taskOf Q with
  | none => []
  | some k => k.tiles.flatMap fun T => ([Eng.ld, .st].filter fun e =>
      (s.engine T e).block == .refetch &&
      (match (s.engine T e).ring with
       | some x => x.tile == Q && x.rid == r.rid && x.slot == r.slot && x.fill == r.fill
       | none => false)).map fun e => (T, e)

/-- A request for (RTILE, RID, FILL) that a record of engine e of tile P answers: the record, and the slot's tile. A consumer whose chain
has been killed has withdrawn its request (R444). -/
def State.pendingRecord (s : State) (P : TileId) (e : Eng) : Option (Refetch × TileId) :=
  match s.taskOf P with
  | none => none
  | some k =>
    (s.engine P e).refetch.findSome? fun r =>
      (k.tiles.find? fun Q =>
        (s.tile Q).vt == r.rtile && (s.tile Q).copy == (s.tile P).copy && (s.tile Q).trailing == (s.tile P).trailing &&
        !(s.consumers Q r).isEmpty &&
        (match s.region Q r.rid with
         | some g => g.pending.getLsbD r.slot.toNat
         | none => false)).map fun Q => (r, Q)

/-- The slot is whole again: the pending bit clears with release to OBS, and its consumers acquire it. -/
def State.refetched (s : State) (P : TileId) (e : Eng) (Q : TileId) (r : Refetch) : State :=
  let X := agentOf P e
  let c := match s.region Q r.rid with
    | some g => s.carried X g.desc.obs
    | none => Clock.zero
  let s := match s.region Q r.rid with
    | some g => (s.release X g.desc.obs).setRegion Q r.rid { g with pending := g.pending &&& ~~~ BitVec.ofNat 16 (2 ^ r.slot.toNat) }
    | none => s
  (s.consumers Q r).foldl (fun (s : State) x => (s.modEngine x.1 x.2 fun y => { y with block := .none }).mustSee (agentOf x.1 x.2) c) s

/-- The rollback has failed: the task of a consumer ends with ECAUSE 0x05 (R444). -/
def State.escalate (s : State) (Q : TileId) (r : Refetch) : State :=
  match s.consumers Q r, (s.tile Q).task with
  | x :: _, some t => s.endDomain t 0x05 (s.tile x.1).vt
  | [], some t => s.endDomain t 0x05 (s.tile Q).vt
  | _, none => s

/-- A refetch is run with a chain of its own, and leaves the engine as it was. (DEDUCED, log entry 65: in one step.) -/
def State.refetch (s : State) (P : TileId) (e : Eng) (r : Refetch) (Q : TileId) (c : CB) : Refetched :=
  match producerIter c.op.toNat with
  | none => .fails
  | some iter =>
    let x := s.engine P e
    let chain : Chain := { num := 0, head := r.cbaddr, next := r.cbaddr, last := true, patch := 0, mode := r.mode, pkr := r.pkr,
                           gen := r.gen, image := none, modes := 0, need := Clock.zero }
    let pos : RingPos := { tile := Q, rid := r.rid, slot := r.slot, fill := r.fill, checked := true }
    let s1 := s.modEngine P e fun y =>
      { y with queue := [chain], ring := some pos, block := .none, stage := .body, idx := r.idx, partIn := [], skip := 0, redo := 0, staging := [], rowDone := 0, rowIdx := none,
               sending := false, lines := [],
               cur := some { addr := r.cbaddr, cb := c, shape := [], fault := none } }
    let j : Job := { P, e, cb := c, addr := r.cbaddr, idx := r.idx.toList.map BitVec.toNat, mode := Mode.of r.mode, pkr := r.pkr,
                     mute := false, gather := false }
    let back (s : State) : State := s.modEngine P e fun _ => x
    match refetchRun iter (65536 * c.trips) s1 j with
    | .done s2 => .done (back s2)
    | .parks s2 => .parks (back s2)
    | .waits s2 => .waits (back s2)
    | .fails => .fails

/-- REFETCH_REQUEST (R443): the engine that holds the record serves the request. -/
def execRefetchRequest (P : TileId) (e : Eng) (s : State) : Res :=
  match s.pendingRecord P e with
  | none => notNow "REFETCH_REQUEST"
  | some (r, Q) =>
    let ready := match s.taskOf P with
      | some k => decide (k.state = .running) && k.ending.isNone && !(s.tile P).stopped
      | none => false
    if !ready || (s.engine P e).block == .parked || s.parkedSrc P (engSrc e) then notNow "REFETCH_REQUEST"
    else match s.fetchBytes P e r.pkr r.cbaddr 256 with
      | (s, .bytes l) =>
        let c := cbOf l
        if c.formOk e false true = false ∨ c.rwin = 0xFF then .next (s.escalate Q r)
        else match s.refetch P e r Q c with
          | .done s => .next (s.refetched P e Q r)
          | .parks s => .next s
          | .waits t => if t.io.outReqs.length ≠ s.io.outReqs.length then .next (s.withAsked t) else notNow "REFETCH_REQUEST"
          | .fails => .next (s.escalate Q r)
      | (s, .fault _ _) => .next (s.escalate Q r)
      | (s, .park) => .next (s.parkAt (parkOwner r.cbaddr) (s.who P (engSrc e) r.pkr) r.cbaddr .fetch)
      | (_, .busy) => notNow "REFETCH_REQUEST"

/-- ROLLBACK_TIMEOUT (R444): no engine has answered the consumer's request within 512 ticks. -/
def execRollbackTimeout (P : TileId) (e : Eng) (s : State) : Res :=
  let x := s.engine P e
  match (s.tile P).task with
  | some t =>
    if x.block = .refetch ∧ s.passed (dieOf P) x.since 513 ∧ (s.tile P).stopped = false then
      .next (s.endDomain t 0x05 (s.tile P).vt)
    else notNow "ROLLBACK_TIMEOUT"
  | none => notNow "ROLLBACK_TIMEOUT"

/-! ### SLIP_HOLD_TIMEOUT (R420) -/

/-- The ticks that a task has spent in RUNNING since its slip hold began. -/
def State.heldTicks (s : State) (k : Task) : Option Nat :=
  k.slipSince.map fun n => if k.state = .running then n + s.between k.home.toNat k.slipFrom s.tick else n

/-- SLIP_HOLD_TIMEOUT (R420): no CB of the hold has acquired within the task's quantum. -/
def execSlipHoldTimeout (t : Nat) (s : State) : Res :=
  match s.task? t with
  | none => notNow "SLIP_HOLD_TIMEOUT"
  | some k =>
    match s.heldTicks k, k.slipHold with
    | some n, (P, _) :: _ =>
      if k.quantum ≤ n ∧ k.ending.isNone ∧ k.state = .running ∧ s.io.lost = false then .next (s.endDomain t 0x08 (s.tile P).vt)
      else notNow "SLIP_HOLD_TIMEOUT"
    | _, _ => notNow "SLIP_HOLD_TIMEOUT"

end Sys2Proof.Machine
end

