-- ==== Sys2Proof/Machine/Services.lean ====
section
/-! DEFINITION. The supervisor's services (R417): YIELD, Gallery allocations, rings (R71, R74), network windows (R239), the slip count,
and unknown services. -/
namespace Sys2Proof.Machine

/-! ### Serving a call -/

/-- The recorded SVC of a tile's core that no service has answered yet, with its number. -/
def Tile.call (t : Tile) : Option Nat :=
  match t.waitingEvent 0 with
  | some v => if v.cause = Cause.svc ∧ v.reply.isNone ∧ v.action = 0 then some v.val.toNat else none
  | none => none

/-- The results of a service wait with the event of the call until the SKIP. -/
def Tile.answerCall (t : Tile) (a : Word) (b : Option Word) : Tile :=
  { t with events := t.events.map fun v => if v.src = 0 then { v with reply := some (a, b) } else v }

/-- What a service comes to: s4 and s5, or a read of its argument that has to wait. -/
inductive Served where
  | gives (s : State) (a : Word) (b : Option Word)
  | waits (s : State)

/-- A service for the core of tile P: `f` gets the state, the task, the tile that the caller runs on and what it holds. A TWIN task's
call is served once for both copies (R437). -/
def serve (s : State) (P : TileId) (ok : Nat → Bool) (name : String)
    (f : State → Nat → Task → SrcAt → TileId → Tile → Served) : Res :=
  match s.findSrc P 0 with
  | none => notNow name
  | some (t, x, tile) =>
    match tile.call, s.task? t with
    | some e, some k =>
      if !ok e ∨ s.io.lost ∨ k.ending.isSome then notNow name
      else match f s t k x (x.tile P) tile with
        | .gives s a b => .next ((s.bothSrc x t).foldl (fun (s : State) y => s.modSrc y fun z => z.answerCall a b) s)
        | .waits t => if decide (t = s) then notNow name else .next t
    | _, _ => notNow name

/-- Status codes of R417: 0 OK, 1 cap exceeded, 2 no resource, 3 bad argument. -/
def svOk : Word := 0
/-- Cap exceeded. -/
def svCap : Word := 1
/-- No resource. -/
def svNone : Word := 2
/-- Bad argument. -/
def svArg : Word := 3

/-- YIELD (R417): the quantum expires at once. -/
def execYield (P : TileId) (s : State) : Res :=
  serve s P (· == 0) "YIELD" fun s t _ _ _ _ => .gives (s.expireQuantum t) svOk none

/-- SLIPRD (R417). -/
def execSliprd (P : TileId) (s : State) : Res :=
  serve s P (· == 5) "SLIPRD" fun s _ k _ _ _ => .gives s svOk (some (k.slips.zeroExtend 64))

/-- UNKNOWN_SERVICE (R417). -/
def execUnknownService (P : TileId) (s : State) : Res :=
  serve s P (fun e => decide (7 ≤ e)) "UNKNOWN_SERVICE" fun s _ _ _ _ _ => .gives s (BitVec.allOnes 64) none

/-! ### Gallery allocations -/

/-- The physical address of the Gallery of a cluster within its die (R221). -/
def galleryBase (P : TileId) : Nat := 0x2100000000 + 0x800000 * (clusterOf P % 16)

/-- The virtual address under which a context gets a Gallery frame of a die. (PRESUMED, log entry 32: the address.) -/
def galleryVa (d pa : Nat) : Word := BitVec.ofNat 64 (d * 2 ^ 53 + 0xFF0000000000 + (pa - 0x2100000000))

/-- The frame of such an address. -/
def galleryPa (va : Word) : Nat := va.toNat % 2 ^ 53 - 0xFF0000000000 + 0x2100000000

/-- The frames that live tasks hold in the Galleries of a die. -/
def State.galleryUsed (s : State) (d : Nat) : List Nat :=
  s.tasks.flatMap fun p => (p.2.allocs.filter fun a => ownerOf a.1 == d).flatMap fun a =>
    (List.range (a.2 / 65536)).map fun i => galleryPa a.1 + 65536 * i

/-- The first run of `n` free frames of a Gallery. -/
def State.galleryRun (s : State) (d base n : Nat) : Option Nat :=
  let used := s.galleryUsed d
  ((List.range (129 - n)).map fun i => base + 65536 * i).find? fun a =>
    (List.range n).all fun i => !used.contains (a + 65536 * i)

/-- The bytes that live tasks beneath a node have allocated. -/
def State.galleryBeneath (s : State) (ctx : BitVec 12) (c : CapNode) : Nat :=
  s.tasks.foldl (fun n p =>
    if p.2.beneath ctx c then n + p.2.allocs.foldl (fun m a => m + a.2) 0 else n) 0

/-- A table frame of the supervisor of a die. -/
def tableFrame (n : Nat) : Nat := 0x17F0000000 - 4096 * (n + 1)

/-- A fresh, zeroed table frame. -/
def State.newTable (s : State) (d : Nat) : State × Nat :=
  let a := tableFrame (s.die d).tables
  (({ (s.modDie d fun x => { x with tables := x.tables + 1 }) with mem := memZero s.mem (gDie d a) 4096 } : State).tellLines d a 64, a)

/-- The table that an entry names, laid down if the entry is empty (R227). -/
def State.tableAt (s : State) (d a : Nat) : State × Nat :=
  let p : Word := BitVec.ofNat 64 (s.num (gDie d a) 8)
  if pteV p then (s, ptePfn p * 4096)
  else
    let (s, t) := s.newTable d
    ((s.putBytes (gDie d a) (leBytes 8 (t / 4096 * 2 ^ 22 + 3 * 2 ^ 20 + 1))).tellHolders d a 0, t)

/-- The root table of a context, laid down if it has none (R226). -/
def State.rootTable (s : State) (d : Nat) (ctx : BitVec 12) : State × Nat :=
  let c := kget 0 (s.die d).crt ctx.toNat
  if c.getLsbD 0 then (s, (c.extractLsb' 12 36).toNat * 4096)
  else
    let (s, t) := s.newTable d
    (s.modDie d fun x => { x with crt := kset x.crt ctx.toNat (BitVec.ofNat 64 (t + 1)) }, t)

/-- The physical address of the level 3 entry of a virtual address, with its tables laid down. -/
def State.leafSlot (s : State) (d : Nat) (ctx : BitVec 12) (va : Word) : State × Nat :=
  let (s, t0) := s.rootTable d ctx
  let (s, t1) := s.tableAt d (t0 + 8 * walkIndex va 0)
  let (s, t2) := s.tableAt d (t1 + 8 * walkIndex va 1)
  let (s, t3) := s.tableAt d (t2 + 8 * walkIndex va 2)
  (s, t3 + 8 * walkIndex va 3)

/-- One 64 KiB page of a context is mapped with R and W, or unmapped and its translation removed. -/
def State.setPage (s : State) (d : Nat) (ctx : BitVec 12) (va : Word) (leaf : Nat) : State :=
  let (s, a) := s.leafSlot d ctx va
  (((s.putBytes (gDie d a) (leBytes 8 leaf)).tellHolders d a 0).invalidate d 0 va ctx).1

/-- The leaf of a Gallery frame: V, R and W, KEYID 0, PKEY 0, ZF 0, 64 KiB (R227). -/
def galleryLeaf (pa : Nat) : Nat := pa / 4096 * 2 ^ 22 + 7

/-- GALLOC (R417): pages of the Gallery of the calling cluster, under every GALB cap of the task's path (R79). -/
def execGalloc (P : TileId) (s : State) : Res :=
  serve s P (· == 1) "GALLOC" fun s t k _ P tile =>
    let n := (tile.core.rd 4).toNat
    let ovr (c : CapNode) : Bool :=
      match c.galb with
      | some g => decide (1024 * g < s.galleryBeneath k.ctx c + n)
      | none => false
    if n = 0 ∨ n % 65536 ≠ 0 ∨ 0x800000 < n then .gives s svArg none
    else if k.path.any ovr then .gives s svCap none
    else match s.galleryRun (dieOf P) (galleryBase P) (n / 65536) with
      | none => .gives s svNone none
      | some pa =>
        let va := galleryVa (dieOf P) pa
        let s := (List.range (n / 65536)).foldl (fun (s : State) i =>
          s.setPage (dieOf P) k.ctx (va + BitVec.ofNat 64 (65536 * i)) (galleryLeaf (pa + 65536 * i))) s
        .gives (s.modTask t fun x => { x with allocs := (va, n) :: x.allocs }) svOk (some va)

/-- The pages of an allocation are unmapped. -/
def State.unmapGallery (s : State) (ctx : BitVec 12) (a : Word × Nat) : State :=
  (List.range (a.2 / 65536)).foldl (fun (s : State) i =>
    s.setPage (ownerOf a.1) ctx (a.1 + BitVec.ofNat 64 (65536 * i)) 0) s

/-- GFREE (R417). -/
def execGfree (P : TileId) (s : State) : Res :=
  serve s P (· == 2) "GFREE" fun s t k _ _ tile =>
    match k.allocs.find? fun a => a.1 == tile.core.rd 4 with
    | some a => .gives ((s.unmapGallery k.ctx a).modTask t fun x => { x with allocs := x.allocs.erase a }) svOk none
    | none => .gives s svArg none

/-! ### Rings and windows -/

/-- Where the save area holds what a tile-memory or accumulator address of a switched-out tile names (R423). -/
def Task.savedVa (k : Task) (tile : Tile) (va : Word) : Option Word :=
  if tagOf va = 0xF0 then some (k.tileArea tile.copy tile.vt.toNat + BitVec.ofNat 64 (offOf va))
  else if tagOf va = 0xF2 then some (k.tileArea tile.copy tile.vt.toNat + 0x80000 + BitVec.ofNat 64 (offOf va))
  else if (vtOf va).toNat < k.image.vgrid then some (k.tileArea tile.copy (vtOf va).toNat + BitVec.ofNat 64 (offOf va))
  else none

/-- Who reads the argument of a call: the caller, or for a switched-out caller the supervisor in its name. -/
def argWho (x : SrcAt) (L : TileId) (k : Task) (tile : Tile) : Who :=
  match x with
  | .live _ => { tile := some L, task := tile.task, ctx := k.ctx, vt := tile.vt, copy := tile.copy, pkr := tile.core.pkr, src := 0 }
  | .kept _ _ => { tile := none, task := tile.task, ctx := k.ctx, vt := tile.vt, copy := tile.copy, pkr := tile.core.pkr, src := 7 }

/-- A read of the argument is parked. -/
def State.argParked (s : State) (x : SrcAt) (L : TileId) (ctx : BitVec 12) (va : Word) : Bool :=
  match x with
  | .live _ => (List.range 4).any (fun d => ((s.die d).park ++ (s.die d).parkHeld).any fun p => p.tile == L && p.src == 0) ||
      s.io.pri.any fun p => p.tile == L && p.src == 0
  | .kept _ _ => ((List.range 4).flatMap (fun d => (s.die d).park ++ (s.die d).parkHeld) ++ s.io.pri).any fun p =>
      p.src == 7 && p.ctx == ctx && p.va.toNat / 64 - va.toNat / 64 ≤ 1

/-- A service that needs the 64 bytes at its argument address, read as a load of the caller: a fault returns bad argument, and a read
that parks or that a peer must answer is waited for (R417). -/
def withArg (s : State) (k : Task) (x : SrcAt) (L : TileId) (tile : Tile) (f : State → List Byte → Served) : Served :=
  let va := tile.core.rd 4
  let last := va + 63
  let at_ := if tagOf va = 0x00 then some va else match x with | .live _ => some va | .kept _ _ => k.savedVa tile va
  match at_ with
  | none => .gives s svArg none
  | some a =>
    if !tagKnown va || !spansZero va || !spansZero last || tagOf last != tagOf va then .gives s svArg none
    else if s.argParked x L k.ctx a then .waits s
    else match State.readFilled (argWho x L k tile) 3 s a 64 with
      | (s, l, none) => f s l
      | (t, _, some (b, .park _)) => .waits (t.parkAt (parkOwner b) (argWho x L k tile) b .read)
      | (t, _, some (_, .busy)) => .waits (s.withAsked t)
      | (s, _, some _) => .gives s svArg none

/-- An index address of a ring: 8-byte aligned, in device memory. (DEDUCED, log entry 33: indices of four bytes.) -/
def ringIndexOk (va : Word) : Bool := va.extractLsb' 0 3 == 0 && tagOf va == 0 && decide (ownerOf va < 4)

/-- The ring of a 64-byte entry for a context (R71, R74), if it is well formed. -/
def ringOf (l : List Byte) (tx : Bool) (ctx : BitVec 12) (t : Nat) : Option Ring :=
  let x : Ring :=
    { base := bvf 64 l 0 8, slotsz := bvf 32 l 8 4, nslot := bvf 32 l 12 4, civa := bvf 64 l 16 8, piva := bvf 64 l 24 8, ctx,
      ports := bvf 4 l 34 1, obs := bvf 6 l 35 1, vtile := bvf 16 l 36 2, sem := bvf 6 l 38 1, etype := bvf 16 l 40 2,
      vlan := bvf 16 l 42 2, udpp := bvf 16 l 44 2, pi := 0, ci := 0, fseq := 0, drops := 0, owner := some t }
  let sizes : List (BitVec 32) := [2048, 4096, 8192, 16384]
  let common := x.base.extractLsb' 0 6 == 0 && tagOf x.base == 0 && decide (ownerOf x.base < 4) && sizes.contains x.slotsz &&
    decide (2 ≤ x.nslot.toNat ∧ x.nslot.toNat ≤ 65536) && ringIndexOk x.civa && ringIndexOk x.piva &&
    decide (fld l 34 1 < 16 ∧ fld l 35 1 < 64 ∧ fld l 38 1 < 64) && fld l 39 1 == 0 && fld l 46 18 == 0
  let kind :=
    if tx then (x.ports == 1 || x.ports == 2 || x.ports == 4 || x.ports == 8) && x.vtile == 0 && x.sem == 0 && x.etype == 0 &&
      x.vlan == 0 && x.udpp == 0
    else decide (x.vtile = 0xFFFF ∨ x.vtile.toNat < 1024)
  if common && kind then some x else none

/-- The lowest index of 256 that a table does not use. -/
def freeIndex {α : Type} (m : KMap α) : Option Nat := (List.range 256).find? fun i => (kfind m i).isNone

/-- RXRING (R417). -/
def execRxring (P : TileId) (s : State) : Res :=
  serve s P (· == 3) "RXRING" fun s t k x L tile =>
    withArg s k x L tile fun s l =>
      match ringOf l false k.ctx t, freeIndex s.io.rxRings with
      | none, _ => .gives s svArg none
      | some _, none => .gives s svNone none
      | some r, some i => .gives (s.modIo fun io => { io with rxRings := kset io.rxRings i r }) svOk (some (BitVec.ofNat 64 i))

/-- TXRING (R417). -/
def execTxring (P : TileId) (s : State) : Res :=
  serve s P (· == 6) "TXRING" fun s t k x L tile =>
    withArg s k x L tile fun s l =>
      match ringOf l true k.ctx t, freeIndex s.io.txRings with
      | none, _ => .gives s svArg none
      | some _, none => .gives s svNone none
      | some r, some i => .gives (s.modIo fun io => { io with txRings := kset io.txRings i r }) svOk (some (BitVec.ofNat 64 i))

/-- The window of a 64-byte request: after byte 0, the fields of R239 from +8 on, in the order in which that rule names them.
(PRESUMED, log entry 32: the layout.) -/
def windowReq (l : List Byte) (ctx : BitVec 12) (t : Nat) : Option (Bool × NetWindow) :=
  let rights := fld l 11 1
  let w : NetWindow :=
    { ctx, owner := some t, port := bvf 2 l 10 1, qp := bvf 24 l 12 4, gid := bvf 128 l 16 16, rkey := bvf 32 l 32 4,
      base := bvf 64 l 40 8, len := bvf 64 l 48 8, r := rights % 2 == 1, w := rights / 2 % 2 == 1,
      atomic := rights / 4 % 2 == 1, pkr := bvf 64 l 56 8 }
  let inbound := fld l 0 1 == 1
  if fld l 0 1 ≤ 1 ∧ fld l 10 1 < 4 ∧ rights < 8 ∧ w.len.toNat ≤ 2 ^ 45 ∧
      (inbound = false ∨ (tagOf w.base = 0 ∧ ownerOf w.base < 4)) then some (inbound, w)
  else none

/-- A window takes the lowest free index of its table. -/
def State.takeWindow (s : State) (inbound : Bool) (w : NetWindow) : Served :=
  match freeIndex (if inbound then s.io.inWins else s.io.outWins) with
  | some i =>
    .gives (s.modIo fun io => if inbound then { io with inWins := kset io.inWins i w } else { io with outWins := kset io.outWins i w })
      svOk (some (BitVec.ofNat 64 i))
  | none => .gives s svNone none

/-- NETWIN (R417). -/
def execNetwin (P : TileId) (s : State) : Res :=
  serve s P (· == 4) "NETWIN" fun s t k x L tile =>
    withArg s k x L tile fun s l =>
      match windowReq l k.ctx t with
      | none => .gives s svArg none
      | some (inbound, w) => s.takeWindow inbound w

end Sys2Proof.Machine
end

