-- ==== Sys2Proof/Machine/Lifecycle.lean ====
section
/-! DEFINITION. The ends and the starts of running: loading and restoring tiles (R110, R111, R426), retirement (R458, R459), TWIN
signatures and commit (R438), the counter block (R460), and tearing an ended task down (R415, R416). -/
namespace Sys2Proof.Machine

/-! ### The first start (R110) -/

/-- The core of a virtual tile at task start (R95, R110). -/
def Core.started (k : Task) (vt : BitVec 10) : Core :=
  { Core.reset with
      regs := ((Core.reset.regs.set 1 0xF000000000080000).set 2 k.save).set 3 (vt.zeroExtend 64),
      pc := k.image.entry, run := .running }

/-- A span of memory is zeroed and loses its marks. -/
def State.wipe (s : State) (g n : Nat) : State :=
  { s with mem := memZero s.mem g n, rels := relsOutside s.rels g n, poison := s.poison.filter fun l => decide (l < lineOf g ∨ lineOf (g + n) ≤ l) }

/-- A tile starts for the first time (R110): its memories and its plane are zero, and the regions that the image declares are
bound. Its accesses follow the acceptance (R392). -/
def State.startTile (s : State) (t : Nat) (k : Task) (P : TileId) : State :=
  let old := s.tile P
  let s := s.setTile P
    { Tile.reset with task := some t, vt := old.vt, copy := old.copy, trailing := old.trailing, core := Core.started k old.vt }
  let s := (s.wipe (gTile P.toNat 0) Config.tileBytes).wipe (gAcc P.toNat 0) Config.accBytes
  let s := (s.zeroPlane (quadOf P) (posOf P)).modQuad (quadOf P) fun q =>
    { q with lease := .idle, wants := 0, yield := false, planes := q.planes.set (posOf P).toNat Plane.reset (posOf P).isLt }
  let s := (k.regions.filter fun d => match d.vt with | some v => v == old.vt | none => true).foldl
    (fun (s : State) d => s.bindRegion P d.id d.desc) s
  s.mustSee (.core P) k.clock

/-! ### Resuming (R111, R426) -/

/-- What loading comes to: done, a failure that ends the task at a virtual tile, or a plane whose source parks or waits for a peer. -/
inductive Loaded where
  | ok (s : State)
  | fail (s : State) (c : Cause) (vt : BitVec 10)
  | park (s : State) (P : TileId) (va : Word)
  | waits (s : State)

/-- A restore read by the context-save engine, line by line: bytes with their marks, or the cause that ends the task. It never
parks, and with `soft` a mark is restored instead of ending the task. -/
def restoreLines (ctx : BitVec 12) (soft : Bool) : Nat → State → Word → State × Except Cause (List (List Byte × Bool))
  | 0, s, _ => (s, .ok [])
  | n + 1, s, va =>
    let more (s : State) (l : List Byte) (mark : Bool) : State × Except Cause (List (List Byte × Bool)) :=
      match restoreLines ctx soft n s (va + 64) with
      | (s, .ok r) => (s, .ok ((l, mark) :: r))
      | x => x
    match s.readVa (agentWho ctx) va 64 .read false false with
    | (s, .bytes l, _) => more s l false
    | (s, .poison _, _) => if soft then more s (List.replicate 64 0) true else (s, .error .poison)
    | (s, .trap .prot, _) => (s, .error .prot)
    | (s, .trap .poison, _) => (s, .error .poison)
    | (s, _, _) => (s, .error .badaddr)

/-- Lines with their marks are put back from an address of the tile's memory on. -/
def putBack : List (List Byte × Bool) → State → Nat → State
  | [], s, _ => s
  | (l, mark) :: r, s, g =>
    let s := s.writePlain g l
    putBack r (if mark then s.mark (lineOf g) else s) (g + 64)

/-- The ranges of a tile's memory are restored; a dead range holds bytes of which nothing is known (R111). -/
def restoreMemory (ctx : BitVec 12) (P : TileId) (live : BitVec 128) (area : Word) : List Nat → State → State × Option Cause
  | [], s => (s, none)
  | i :: r, s =>
    let g := gTile P.toNat (4096 * i)
    if live.getLsbD i then
      match restoreLines ctx true 64 s (area + BitVec.ofNat 64 (4096 * i)) with
      | (s, .ok l) => restoreMemory ctx P live area r (putBack l s g)
      | (s, .error c) => (s, some c)
    else
      let bytes := (List.range 4096).map fun n => Config.deadByte (s.free + n)
      restoreMemory ctx P live area r (({ s with free := s.free + 4096 }.wipe g 4096).putBytes g bytes)

/-- The physical tile of a virtual one for a kept tile; the tile itself where the map has none. -/
def Task.physical (k : Task) (copy : Bool) (v : TileId) : TileId := (k.mapped copy v).getD v

/-- A kept tile on its new physical tile. An event that no arbiter has recorded is raised there again (R410), and a request for a refetch is
made anew (R444). -/
def Tile.onto (t : Tile) (k : Task) (P : TileId) (now : Nat) (second trailing : Bool) : Tile :=
  let at_ (v : TileId) : TileId := k.physical second v
  { t with
      stopped := false, trailing, copy := second && !trailing,
      events := t.events.map fun v => if v.recorded then v else { v with since := now, ptile := P },
      regions := Vector.ofFn fun i => t.regions[i].map fun g => { g with holds := g.holds.map fun h => { h with tile := at_ h.tile } },
      eng := Vector.ofFn fun i =>
        { t.eng[i] with ring := t.eng[i].ring.map fun r => { r with tile := at_ r.tile },
                        since := if t.eng[i].block = .refetch then now else t.eng[i].since } }

/-- The later accesses of every agent of a tile must see a clock. -/
def State.tileMustSee (s : State) (P : TileId) (c : Clock) : State :=
  [Agent.core P, .engine P .ld, .engine P .st, .engine P .gr, .engine P .mx, .siphon P].foldl
    (fun (s : State) Y => s.mustSee Y c) s

/-- One tile is restored from its area (R426). The save and the restore come between its accesses (R397), and the completed
requests to its memory are with it (R189). -/
def State.restoreTile (s : State) (tid : Nat) (k : Task) (P : TileId) : State × Option Cause :=
  let cur := s.tile P
  let second := cur.copy || cur.trailing
  match kfind k.saved (savedKey cur) with
  | none => (s, none)
  | some kept =>
    let area := k.tileArea cur.copy cur.vt.toNat
    match restoreLines k.ctx false 1024 s (area + 0x90000) with
    | (s, .error c) => (s, some c)
    | (s, .ok rows) =>
      let rec_ := rows.flatMap fun r => r.1
      if !recordOk rec_ then (s, some .cbformat)
      else
        let t := kept.fromRecord tid rec_
        let (s, live) := s.liveMap k t.core.pc
        match restoreMemory k.ctx P live area (List.range 128) s with
        | (s, some c) => (s, some c)
        | (s, none) =>
          match restoreLines k.ctx true 1024 s (area + 0x80000) with
          | (s, .error c) => (s, some c)
          | (s, .ok rows) =>
            let s := putBack rows s (gAcc P.toNat 0)
            let s := (s.setTile P (t.onto k P s.tick second cur.trailing)).modPlane (quadOf P) (posOf P) fun _ => planeOf rec_
            let s := s.modTask tid fun x => x.setUnits (unitsOf tid cur.vt cur.copy rec_)
            let s := s.moveDone k.ctx cur.vt cur.copy (dieOf P)
            ((if cur.trailing then s.pairDone k.ctx cur.vt (dieOf P) else s).tileMustSee P k.clock, none)

/-- A tile's plane is loaded again by its record (R92). -/
def State.rebuildPlane (s : State) (P : TileId) : Loaded :=
  match s.reloadPlane P with
  | .ok s => .ok s
  | .busy t => .waits (s.withAsked t)
  | .park s va => .park s P va
  | .fail s c va =>
    .ok ((s.zeroPlane (quadOf P) (posOf P)).modPlane (quadOf P) (posOf P) fun p => { p with record := none, mark := some (c, va) })

/-- Every tile of a list is restored, and then every plane. -/
def restoreAll (t : Nat) (k : Task) : List TileId → State → Loaded
  | [], s => .ok s
  | P :: r, s =>
    match s.restoreTile t k P with
    | (s, some c) => .fail s c (s.tile P).vt
    | (s, none) => restoreAll t k r s

/-- Every plane of a list is rebuilt. -/
def rebuildAll : List TileId → State → Loaded
  | [], s => .ok s
  | P :: r, s =>
    match s.rebuildPlane P with
    | .ok s => rebuildAll r s
    | x => x

/-- The task record is read: its barrier units, phase records, RCC and slip hold (R423, R426). -/
def State.restoreTask (s : State) (t : Nat) (k : Task) : State × Option Cause :=
  match restoreLines k.ctx false 60 s (k.save + 0x10000) with
  | (s, .ok rows) => (s.modTask t fun x => x.fromRecord t (rows.flatMap fun r => r.1), none)
  | (s, .error c) => (s, some c)

/-- Every tile of a task is loaded or restored. -/
def State.load (s : State) (t : Nat) (k : Task) : Loaded :=
  if !k.ranOnce then .ok (k.tiles.foldl (fun s P => s.startTile t k P) s)
  else match s.restoreTask t k with
    | (s, some c) => .fail s c 0
    | (s, none) =>
      match restoreAll t k k.tiles s with
      | .ok s => rebuildAll k.tiles s
      | x => x

/-- The actions and results that the supervisor gave while the task was switched out take effect (R422). -/
def State.pendingActions (s : State) (t : Nat) (P : TileId) : State :=
  ((s.tile P).events.filter fun v => v.action != 0).foldl (fun (s : State) v => s.act v.action P t { v with action := 0 }) s

/-- The additions to semaphores that came while a task was switched out are made (R72). -/
def State.lateAdds (s : State) (k : Task) : State :=
  k.semAdds.foldl (fun (s : State) x =>
    (k.tiles.filter fun P => (s.tile P).vt == x.vt && (s.tile P).copy == x.copy).foldl
      (fun (s : State) P => s.semAddWith P x.sem x.count x.clock) s) s

/-- The task runs from now on (R82). -/
def State.running (s : State) (t : Nat) : State :=
  let s := s.settleRcc.modTask t fun k =>
    { k with state := .running, ranOnce := true, runSince := s.tick, quantSince := s.tick, quantDone := false, saved := [],
             slipFrom := s.tick,
             slipHold := k.slipHold.map fun h =>
               if k.ranOnce then
                 (k.physical (decide (512 ≤ h.1.toNat) && decide (k.redun = .pair)) (if k.redun = .pair then h.1 &&& 511 else h.1), h.2)
               else h }
  match s.task? t with
  | some k =>
    k.tiles.foldl (fun s P => s.pendingActions t P) ((s.lateAdds k).modTask t fun x => { x with semAdds := [] })
  | none => s

/-- The trailing tiles of a PAIR start 64 ticks after the leading ones (R434). -/
def State.trailLater (s : State) (k : Task) : State :=
  k.tiles.foldl (fun (s : State) P =>
    if (s.tile P).trailing then s.modCore P fun c => { c with busy := s.tick + 64 } else s) s

/-- LOADING_COMPLETE (R82, R110, R426). -/
def execLoadingComplete (t : Nat) (s : State) : Res :=
  match s.task? t with
  | none => notNow "LOADING_COMPLETE"
  | some k =>
    if k.state ≠ .loading ∨ k.ending.isSome ∨ s.io.lost then notNow "LOADING_COMPLETE"
    else match s.load t k with
      | .ok s => .next ((s.running t).trailLater k)
      | .fail s c vt => .next (s.failSwitch t c vt)
      | .park s' P va =>
        if s.parkedSrc P (engSrc .mx) then notNow "LOADING_COMPLETE"
        else .next (s.parkAt (parkOwner va) (s'.who P (engSrc .mx) 0) va .read)
      | .waits t => if t.io.outReqs.length ≠ s.io.outReqs.length then .next (s.withAsked t) else notNow "LOADING_COMPLETE"

/-! ### The counter block (R460) -/

/-- The tiles that a task's counts sum over: copy 0 and the leading clusters, live or kept. -/
def State.countedTiles (s : State) (k : Task) : List Tile :=
  if k.state = .running ∨ k.state = .saving then (mapTiles k.tileMap).map s.tile
  else (k.saved.filter fun p => p.1 < 1024).map fun p => p.2

/-- Ticks that a task has spent in RUNNING. -/
def State.ticksRun (s : State) (k : Task) : Nat := if k.state = .running then k.runBase + (s.tick - k.runSince) else k.runBase

/-- The 256 bytes of a task's counter block. -/
def State.counterBytes (s : State) (k : Task) : List Byte :=
  let ts := s.countedTiles k
  let sum (f : Tile → Nat) : Nat := ts.foldl (fun n t => n + f t) 0
  let late (t : Tile) : Nat := t.eng.toList.foldl (fun n x => n + x.lateCount.toNat) 0
  let lateSum (t : Tile) : Nat := t.eng.toList.foldl (fun n x => n + x.lateSum.toNat) 0
  padTo 256
    (leBytes 8 (s.ticksRun k) ++ leBytes 8 (k.ctr.instr.toNat + sum fun t => t.core.instrs.toNat) ++
     k.ctr.cbdone.toList.flatMap (fun x => leBytes 8 x.toNat) ++ leBytes 8 k.ctr.sbytes.toNat ++ leBytes 8 k.ctr.leasew.toNat ++
     leBytes 8 (k.ctr.latecnt.toNat + sum late) ++ leBytes 8 (k.ctr.latesum.toNat + sum lateSum) ++ leBytes 4 k.slips.toNat ++
     leBytes 4 k.ctr.preempt.toNat ++ leBytes 4 k.ctr.diverg.toNat ++ leBytes 4 k.ctr.parity.toNat)

/-- The counter block is written. -/
def State.writeCounters (s : State) (k : Task) (bytes : List Byte) : State := (s.agentWrite k.ctx (k.save + 0x10F00) bytes).1

/-! ### Giving up resources (R416, R458) -/

/-- The tags of the requests that a stopped tile has abandoned. -/
def Tile.abandonedTags (t : Tile) : List (BitVec 16) :=
  (match t.core.atomTag with | some g => [g] | none => []) ++ t.eng.toList.flatMap fun x => x.staging.map fun l => l.tag

/-- A task that may still have requests of a virtual tile's source: it runs it, or is to run it again. -/
def Task.mayAsk (k : Task) (ctx : BitVec 12) (vt : BitVec 10) : Bool :=
  k.ctx == ctx && (k.placed || k.ranOnce) && decide (vt.toNat < k.image.vgrid)

/-- The completed-request table entries of a task's sources are freed: those of the requests that it has abandoned, and the others
unless another task of its context uses the source too (R189, R395, R416). (DEDUCED, log entry 60: entries that another task may
use.) -/
def State.freeRequests (s : State) (t : Nat) (k : Task) : State :=
  let ts := k.tiles.map s.tile ++ k.saved.map fun p => p.2
  let mine (r : DoneReq) : Bool :=
    match r.src with
    | .tile ctx vt copy => ctx == k.ctx && ts.any fun x => x.vt == vt && x.copy == copy &&
        (x.abandonedTags.contains r.tag || !s.tasks.any fun p => p.1 != t && p.2.mayAsk ctx vt)
    | .peer _ _ => false
  (List.range 5).foldl (fun (s : State) o =>
    if (s.doneTable o).any mine then s.setDone o ((s.doneTable o).filter fun r => !mine r) else s) s

/-- A task's quads, Gallery allocations, rings and windows are freed (R416, R458). -/
def State.freeUnits (s : State) (t : Nat) (k : Task) : State :=
  let s := if k.placed then
      let quads := k.tiles.map quadOf
      { (s.freeTiles k.tiles) with quads := s.quads.filter fun p => !quads.contains p.1 }
    else s
  let s := k.allocs.foldl (fun (s : State) a => s.unmapGallery k.ctx a) s
  s.modIo fun io =>
    { io with rxRings := io.rxRings.filter fun p => p.2.owner != some t, txRings := io.txRings.filter fun p => p.2.owner != some t,
              outWins := io.outWins.filter fun p => p.2.owner != some t, inWins := io.inWins.filter fun p => p.2.owner != some t }

/-- The task is gone. -/
def State.dropTask (s : State) (t : Nat) : State := { s with tasks := kdel s.tasks t }

/-! ### TWIN signatures (R438) -/

/-- The blocks of a copy, in ascending order. -/
def Task.blocks (k : Task) (copy : Bool) : List Word :=
  inOrder (fun a b => decide (a.toNat < b.toNat)) ((k.shadows.filter fun x => x.copy == copy).map fun x => x.block)

/-- The sum of the line CRCs of a shadow block: none when a line cannot be read. -/
def blockSum (d frame : Nat) (block leaf : Word) : Nat → State → Nat → Option Word → State × Option Word
  | 0, s, _, sum => (s, sum)
  | n + 1, s, i, sum =>
    match s.readDie d (frame + 64 * i) 64 leaf with
    | (s, .bytes l) =>
      let line := (block.toNat % 2 ^ 56) / 64 + i
      blockSum d frame block leaf n s (i + 1) (sum.map fun x => x + crc64 (leBytes 8 line ++ l))
    | (s, _) => blockSum d frame block leaf n s (i + 1) none

/-- The leaf of a block of a task. -/
def State.blockLeaf (s : State) (k : Task) (block : Word) : Option Word :=
  match (s.findPte (ownerOf block) k.ctx block).1 with
  | .leaf p => some p
  | _ => none

/-- The signature of a copy on a die: none when it cannot be formed. -/
def State.signature (s : State) (k : Task) (copy : Bool) (d : Nat) : State × Option Word :=
  (k.shadows.filter fun x => x.copy == copy && ownerOf x.block == d).foldl (fun (r : State × Option Word) x =>
    match s.blockLeaf k x.block with
    | some leaf => blockSum d x.frame x.block leaf 1024 r.1 0 r.2
    | none => (r.1, none)) (s, some 0)

/-- Every owner die reports equal lists and equal sums for the two copies. -/
def State.twinAgrees (s : State) (k : Task) : State × Bool :=
  (List.range 4).foldl (fun (r : State × Bool) d =>
    let (s, a) := r.1.signature k false d
    let (s, b) := s.signature k true d
    (s, r.2 && a.isSome && a == b)) (s, k.blocks false == k.blocks true)

/-- The shadow blocks of copy 0 are copied into their original frames. -/
def State.commitTwin (s : State) (k : Task) : State :=
  (k.shadows.filter fun x => !x.copy).foldl (fun (s : State) x =>
    match s.blockLeaf k x.block with
    | some leaf =>
      State.copyLines (ownerOf x.block) leaf 1024 s x.frame (ptePfn leaf * 4096 + x.block.toNat % pageBytes (pteSize leaf))
    | none => s) s

/-! ### RETIRE (R458) -/

/-- Every tile of a task has halted, every chain has ended, and its writes and requests are acknowledged (R458). The completion of a step
comes after every other event of its tick (R82). -/
def State.retires (s : State) (k : Task) : Bool :=
  s.spent k && (match k.spentAt with | some n => decide (n < s.tick) | none => false) && (k.tiles.all fun P => !(s.tile P).draining) && !s.transit.any fun x => k.tiles.contains x.tile

/-- RETIRE (R458). -/
def execRetire (t : Nat) (s : State) : Res :=
  match s.task? t with
  | none => notNow "RETIRE"
  | some k =>
    if s.io.lost || !s.spent k then notNow "RETIRE"
    else if k.spentAt.isNone then .next (s.setTask t { k with spentAt := some s.tick })
    else if !s.retires k then notNow "RETIRE"
    else
      let (s, good) := if k.redun = .twin then s.twinAgrees k else (s, true)
      let s := if k.redun = .twin ∧ good then s.commitTwin k else s
      let s := s.writeCounters k (s.counterBytes k)
      let status := if !good then stTwin else if k.slips = 0 then stOk else stSlipped
      let s := s.completeTask t k status (if good then coCommitted else coDiscarded) 0
      .next (((s.freeRequests t k).freeUnits t k).dropTask t)

/-! ### TASK_TEARDOWN (R415, R416) -/

/-- COMMIT of a task that has been ended (R66, R82). (DEDUCED, log entry 26: TWIN tasks that never ran.) -/
def Task.endCommit (k : Task) : Byte :=
  if (k.state = .waiting ∨ k.state = .ready) ∧ k.ranOnce = false then coNone
  else if k.redun = .twin then coDiscarded
  else coPartial

/-- TASK_TEARDOWN (R416): once the last tile has stopped, the task gives up its requests, its parked accesses, and its quads,
allocations, rings and windows, and then its counter block and its record are written. -/
def execTaskTeardown (t : Nat) (s : State) : Res :=
  match s.task? t with
  | none => notNow "TASK_TEARDOWN"
  | some k =>
    match k.ending with
    | none => notNow "TASK_TEARDOWN"
    | some (status, detail) =>
      if s.io.lost ∨ s.allQuiet k = false then notNow "TASK_TEARDOWN"
      else
        let counters := s.counterBytes k
        let s := ((s.freeRequests t k).dropParks t).freeUnits t k
        let s := if k.ranOnce then s.writeCounters k counters else s
        .next ((s.completeTask t k status k.endCommit detail).dropTask t)

end Sys2Proof.Machine
end

