-- ==== Sys2Proof/Machine/LoadStore.lean ====
section
/-! DEFINITION. The loads and stores of the control core (R169 to R178). -/
namespace Sys2Proof.Machine

/-- LDB (R169). -/
def execLdb (rd ra : BitVec 5) (imm : BitVec 16) (s : State) : Res :=
  access s (.ldb rd ra imm) rd (effAddr (s.reg ra) imm) (.load 1 true)
/-- LDBU (R169). -/
def execLdbu (rd ra : BitVec 5) (imm : BitVec 16) (s : State) : Res :=
  access s (.ldbu rd ra imm) rd (effAddr (s.reg ra) imm) (.load 1 false)
/-- LDH (R169). -/
def execLdh (rd ra : BitVec 5) (imm : BitVec 16) (s : State) : Res :=
  access s (.ldh rd ra imm) rd (effAddr (s.reg ra) imm) (.load 2 true)
/-- LDHU (R169). -/
def execLdhu (rd ra : BitVec 5) (imm : BitVec 16) (s : State) : Res :=
  access s (.ldhu rd ra imm) rd (effAddr (s.reg ra) imm) (.load 2 false)
/-- LDW (R169). -/
def execLdw (rd ra : BitVec 5) (imm : BitVec 16) (s : State) : Res :=
  access s (.ldw rd ra imm) rd (effAddr (s.reg ra) imm) (.load 4 true)
/-- LDWU (R169). -/
def execLdwu (rd ra : BitVec 5) (imm : BitVec 16) (s : State) : Res :=
  access s (.ldwu rd ra imm) rd (effAddr (s.reg ra) imm) (.load 4 false)
/-- LDD (R169). -/
def execLdd (rd ra : BitVec 5) (imm : BitVec 16) (s : State) : Res :=
  access s (.ldd rd ra imm) rd (effAddr (s.reg ra) imm) (.load 8 false)
/-- STB (R169). -/
def execStb (rd ra : BitVec 5) (imm : BitVec 16) (s : State) : Res :=
  access s (.stb rd ra imm) rd (effAddr (s.reg ra) imm) (.store 1 ((s.reg rd).toNat % 2 ^ 8))
/-- STH (R169). -/
def execSth (rd ra : BitVec 5) (imm : BitVec 16) (s : State) : Res :=
  access s (.sth rd ra imm) rd (effAddr (s.reg ra) imm) (.store 2 ((s.reg rd).toNat % 2 ^ 16))
/-- STW (R169). -/
def execStw (rd ra : BitVec 5) (imm : BitVec 16) (s : State) : Res :=
  access s (.stw rd ra imm) rd (effAddr (s.reg ra) imm) (.store 4 ((s.reg rd).toNat % 2 ^ 32))
/-- STD (R169). -/
def execStd (rd ra : BitVec 5) (imm : BitVec 16) (s : State) : Res :=
  access s (.std rd ra imm) rd (effAddr (s.reg ra) imm) (.store 8 (s.reg rd).toNat)

end Sys2Proof.Machine
end

