-- ==== Sys2Proof/Machine/MemEvents.lean ====
section
/-! DEFINITION. What the memory side does of its own: walks (R228), re-encryption (R248), remote-line updates (R386), host
translations (R238), accesses of the host (R240) and of peers (R239, R393, R396), and the die-to-die links (R396). -/
namespace Sys2Proof.Machine

/-! ### Walks and re-encryption -/

/-- PAGE_WALK (R228): a walker of die d takes up a miss of a request. What it returns enters the TLB if it is a resident,
permitted leaf (R230). -/
def execPageWalk (d : BitVec 2) (ctx : BitVec 12) (va : Word) (kind : AccKind) (pkr : Word) (s : State) : Res :=
  if tagOf va ≠ 0x00 ∨ ownerOf va ≠ d.toNat ∨ va.extractLsb' 48 5 ≠ 0 ∨
      ((s.die d.toNat).tlbFind ctx va kind).isSome ∨ s.io.lost then notNow "PAGE_WALK"
  else match s.walk d.toNat ctx va kind pkr with
    | (s, .leaf p, _) => .next (s.modDie d.toNat fun x => x.tlbAdd ctx va p)
    | (s, _, _) => .next s

/-- A write of core P that has reached its owner and has not been applied would overflow the minor counter of its line, in a page
under a key (R248). -/
def State.overflows (s : State) (P : TileId) (d page : Nat) (key : Byte) : Bool :=
  match s.inFlight P with
  | some (_, f) =>
    f.reply.isNone && f.req.op.writes &&
    (match (s.locate (s.who P 0 f.req.pkr) f.req.ea .write false).2.1 with
     | .die e pa leaf => e == d && pa / 4096 == page && pteKey leaf == key && ((s.die d).ctr page).minor (pa / 64 % 64) == 127
     | _ => false)
  | none => false

/-- REENCRYPT_PAGE (R248): a write on its way would overflow a minor counter of the page. A counter line that fails its tag is
quarantined first (R247, R249). -/
def execReencryptPage (d : BitVec 2) (page : BitVec 36) (key : Byte) (s : State) : Res :=
  let x := s.die d.toNat
  let c := x.ctr page.toNat
  match kfind x.keys key.toNat with
  | none => notNow "REENCRYPT_PAGE"
  | some k =>
    if key = 0 ∨ inHbm (page.toNat * 4096) 4096 = false ∨ c.major = BitVec.allOnes 64 ∨
        x.quarantined (page.toNat * 4096) ∨ s.io.lost ∨
        (s.tiles.any fun p => s.overflows (BitVec.ofNat 10 p.1) d.toNat page.toNat key) = false then notNow "REENCRYPT_PAGE"
    else match verifyWrite x d.toNat (page.toNat * 4096) with
      | some lvl => .next (s.quarantineAt d.toNat (page.toNat * 4096) lvl)
      | none => .next ((s.reencrypt d.toNat page.toNat k).tellWritten c.major d.toNat (page.toNat * 4096) key)

/-! ### Remote-line updates (R386) -/

/-- A message may be applied: the die has applied everything that it depends on. -/
def Die.ready (x : Die) (m : ClockMsg) : Bool :=
  decide (at4 x.a m.owner.toNat + 1 = at4 m.stamp m.owner.toNat) &&
  (List.range 4).all fun j => j == m.owner.toNat || decide (at4 m.stamp j ≤ at4 x.a j)

/-- RLC_UPDATE (R386): the k-th message on its way to die h is applied, once its causal predecessors have been. -/
def execRlcUpdate (h : BitVec 2) (k : Nat) (s : State) : Res :=
  let x := s.die h.toNat
  match x.inbox[k]? with
  | none => notNow "RLC_UPDATE"
  | some m =>
    if x.ready m then .next (s.setDie h.toNat { (x.applyMsg m) with inbox := x.inbox.eraseIdx k })
    else notNow "RLC_UPDATE"

/-! ### Host translations (R238) -/

/-- The page of a host address. -/
def hostPageOf (va : Word) : Word := BitVec.ofNat 64 ((va.extractLsb' 0 53).toNat / 4096 * 4096)

/-- ATS_INVALIDATE (R238): the translation goes. Every access through it has completed or parked. -/
def execAtsInvalidate (ctx : BitVec 12) (va : Word) (s : State) : Res :=
  .next (s.modIo fun io => { io with atc := io.atc.filter fun e => !(e.1 == ctx && e.2.1 == hostPageOf va) })

/-- The source of a request that parked is refused with a cause. -/
def State.refuseParked (s : State) (p : Parked) (c : Cause) : State :=
  if p.src = 0 then
    match (s.core p.tile).run, (s.core p.tile).flight with
    | .waiting i .parked _, some f => s.deliver p.tile i f.req (.trap c) 0
    | .waiting _ .parked _, none => s.raiseCore p.tile c p.va
    | _, _ => s
  else match srcEng p.src with
    | some e =>
      let x := s.engine p.tile e
      if x.block = .parked then
        let loc : Word := match x.cur, x.queue with
          | some f, _ => f.addr
          | none, ch :: _ => ch.next
          | none, [] => p.va
        s.raiseEng p.tile e c p.va loc
      else s
    | none => s

/-- PRI_RESPONSE (R238): the requests that wait for a host page go again, or are refused with BADADDR. -/
def execPriResponse (ctx : BitVec 12) (va : Word) (ok : Bool) (s : State) : Res :=
  let mine (p : Parked) : Bool := p.ctx == ctx && hostPageOf p.va == hostPageOf va
  let l := s.io.pri.filter mine
  if l.isEmpty then notNow "PRI_RESPONSE"
  else
    let s := s.modIo fun io => { io with pri := io.pri.filter fun p => !mine p }
    .next (l.foldl (fun (s : State) p => if ok then s.retryParked p else s.refuseParked p .badaddr) s)

/-! ### Accesses of the host to device memory (R240) -/

/-- HDM_ACCESS (R240): an access of the host to bytes of one line, through the encryption engine of the die under the range's KEYID.
The answer begins with 0, or with 1 for poison and 2 for a refusal (R242). (DESIGN CHOICE, log entry 36: the form of the answer.) -/
def execHdmAccess (write : Bool) (hpa : Word) (size : Nat) (data : List Byte) (s : State) : Res :=
  match s.io.hdmAt hpa.toNat size with
  | none => notNow "HDM_ACCESS"
  | some r =>
    let pa := r.pa + (hpa.toNat - r.hpa.toNat)
    let d := r.die.toNat
    let leaf := keyLeaf r.key
    if size = 0 ∨ 64 < pa % 64 + size ∨ oneRange pa size = false ∨ (r.key ≠ 0 ∧ inHbm pa size = false) ∨
        (write = true ∧ (data.length ≠ size ∨ s.io.lost)) then notNow "HDM_ACCESS"
    else if write then .next (s.hdmWrite hpa data)
    else if !(s.die d).keyReady leaf then .next (s.reply [2])
    else match s.readDie d pa size leaf with
      | (s, .bytes l) => .next ((s.learnIo (s.die d).k).reply (0 :: l))
      | (s, _) => .next ((s.learnIo (s.die d).k).reply [1])

/-! ### Peers (R239, R393, R396) -/

/-- The inbound window that a remote key names. -/
def IoDie.inbound (io : IoDie) (rkey : BitVec 32) : Option NetWindow :=
  (io.inWins.find? fun p => p.2.rkey == rkey).map fun p => p.2

/-- The parts of [va, va + n) within lines. -/
def linesIn : Nat → Word → Nat → List (Word × Nat)
  | 0, _, _ => []
  | fuel + 1, va, n =>
    if n = 0 then []
    else
      let k := min n (64 - va.toNat % 64)
      (va, k) :: linesIn fuel (va + BitVec.ofNat 64 k) (n - k)

/-- What a peer's request comes to: an answer, a remote access error, or RNR NAK when it would park. -/
inductive PeerOut where
  | ok (l : List Byte)
  | error
  | park
deriving DecidableEq, Repr

/-- A read of lines, as a tile's plain loads: a zero-fill page reads zero (R235). -/
def peerRead (who : Who) : List (Word × Nat) → State → State × PeerOut
  | [], s => (s, .ok [])
  | (va, n) :: r, s =>
    let more (s : State) (l : List Byte) : State × PeerOut :=
      match peerRead who r s with
      | (s, .ok m) => (s, .ok (l ++ m))
      | x => x
    match s.readVa who va n .read true false with
    | (s, .bytes l, _) => more s l
    | (s, .zero, _) => more s (List.replicate n 0)
    | (s, .park _, _) => (s, .park)
    | (s, _, _) => (s, .error)

/-- What the writes of some lines will come to: none of them is made unless all can be. -/
def peerWritable (s : State) (who : Who) : List (Word × Nat) → PeerOut
  | [] => .ok []
  | (va, _) :: r =>
    match (s.locate who va .write true).2.1 with
    | .plain _ => peerWritable s who r
    | .die _ _ _ => peerWritable s who r
    | .zero => peerWritable s who r
    | .park _ => .park
    | _ => .error

/-- The writes of some lines, until one parks: the peer sends the request again, and the lines before are then written again. Each
location written is a release to NW (R393). -/
def peerWrite (X : Agent) (who : Who) : List (Word × Nat) → State → List Byte → State × PeerOut
  | [], s, _ => (s, .ok [])
  | (va, n) :: r, s, bs =>
    match s.writeVa who va (bs.take n) true with
    | (s, .done, _) =>
      let s := match s.globalOf who va .write with
        | some g => s.outsideRel X 0x20 g n
        | none => s
      peerWrite X who r s (bs.drop n)
    | (s, .zero, _) => peerWrite X who r s (bs.drop n)
    | (s, .park _, _) => (s, .park)
    | (s, _, _) => (s, .error)

/-- The operation of a peer at a virtual address; an atomic goes on with the release sequence of its location (R379): the state, the answer, and the reply that a duplicate receives. -/
def roceApply (X : Agent) (op : RoceOp) (who : Who) (va : Word) (s : State) : State × PeerOut × Option AccOut :=
  let atomic (f : Nat → Option Nat) : State × PeerOut × Option AccOut :=
    if va.extractLsb' 0 3 ≠ 0 then (s, .error, none)
    else
      let old := match s.globalOf who va .write with | some g => s.relsAt g | none => []
      match s.rmwVa who va 8 f none with
      | (s, .bytes l, _) =>
        let s := match s.globalOf who va .write with
          | some g => if (f (leNat l)).isSome then s.goOnRel old X 0x20 s.io.known g else s
          | none => s
        (s, .ok l, some (.value (BitVec.ofNat 64 (leNat l))))
      | (s, .park _, _) => (s, .park, none)
      | (s, .zero, _) => (s, .park, none)
      | (s, _, _) => (s, .error, none)
  match op with
  | .read n => let (s, o) := peerRead who (linesIn (n / 64 + 2) va n) s; (s, o, none)
  | .write data =>
    let l := linesIn (data.length / 64 + 2) va data.length
    match peerWritable s who l with
    | .ok _ =>
      match peerWrite X who l s data with
      | (s, .ok _) => (s, .ok [], some .done)
      | (s, o) => (s, o, none)
    | o => (s, o, none)
  | .fetchAdd v => atomic fun old => some ((old + v.toNat) % 2 ^ 64)
  | .cmpSwap expect swap => atomic fun old => if old = expect.toNat then some swap.toNat else none

/-- The bytes that a request covers. -/
def roceSize : RoceOp → Nat
  | .read n => n
  | .write l => l.length
  | _ => 8

/-- The rights of a window allow an operation. -/
def roceAllowed (op : RoceOp) (w : NetWindow) : Bool :=
  match op with
  | .read _ => w.r
  | .write _ => w.w
  | _ => w.atomic

/-- The stored response to a duplicate (R396). -/
def storedReply : AccOut → List Byte
  | .value v => 0 :: leBytes 8 v.toNat
  | _ => [0]

/-- The reply of a request takes one of the 4,096 entries of its queue pair; the oldest goes. -/
def State.storeReply (s : State) (src : ReqSrc) (tag : BitVec 16) (r : AccOut) : State :=
  let mine := s.io.peerDone.filter fun x => x.src == src
  let rest := s.io.peerDone.filter fun x => !(x.src == src)
  s.modIo fun io => { io with peerDone := ({ src, trailing := false, tag, vt := none, reply := r } :: mine.take 4095) ++ rest }

/-- The key of a queue pair of a context. -/
def qpKey (ctx : BitVec 12) (qp : BitVec 24) : Nat := ctx.toNat * 2 ^ 24 + qp.toNat

/-- A request is not the next of its queue pair, so it is not applied (R393). The first request of a queue pair sets the number from
which its sequence goes on, and a read may come again. (PRESUMED, log entry 35: where a sequence starts, and repeated reads.) -/
def State.psnAhead (s : State) (ctx : BitVec 12) (r : RoceReq) : Bool :=
  match kfind s.io.inPsn (qpKey ctx r.qp) with
  | none => false
  | some n => r.psn != n && !(match r.op with | .read _ => (r.psn - n).msb | _ => false)

/-- The request has been carried out or refused: the queue pair goes on with the next number. -/
def State.takePsn (s : State) (ctx : BitVec 12) (r : RoceReq) : State :=
  let k := qpKey ctx r.qp
  match kfind s.io.inPsn k with
  | some n => if r.psn = n then s.modIo fun io => { io with inPsn := kset io.inPsn k (n + 1) } else s
  | none => s.modIo fun io => { io with inPsn := kset io.inPsn k (r.psn + 1) }

/-- ROCE_INBOUND (R239, R393, R396): a peer's request through an inbound window. The requests of a queue pair are applied in PSN order.
The answer begins with 0, with 1 for a remote access error, with 2 for RNR NAK, or with 3 for a sequence error. (PRESUMED, log entry 35: the form of request and answer.) -/
def execRoceInbound (r : RoceReq) (s : State) : Res :=
  if s.io.lost then notNow "ROCE_INBOUND"
  else match s.io.inbound r.rkey with
  | none => .next (s.reply [1])
  | some w =>
    let src := ReqSrc.peer w.ctx r.qp
    let tag := r.psn.extractLsb' 0 16
    match s.io.peerDone.find? fun x => x.src == src && x.tag == tag with
    | some x => .next (s.reply (storedReply x.reply))
    | none =>
      if s.psnAhead w.ctx r then .next (s.reply [3])
      else
        let s' := s.takePsn w.ctx r
        if roceAllowed r.op w = false ∨ w.len.toNat < r.va.toNat + roceSize r.op then .next (s'.reply [1])
        else
          let who : Who := { tile := none, task := none, ctx := w.ctx, vt := 0, copy := false, pkr := w.pkr, src := 7 }
          match roceApply (.peer w.ctx r.qp) r.op who (w.base + r.va) s with
          | (s, .park, _) => .next (s.reply [2])
          | (s, .error, _) => .next ((s.takePsn w.ctx r).reply [1])
          | (s, .ok l, some a) => .next (((s.takePsn w.ctx r).storeReply src tag a).reply (0 :: l))
          | (s, .ok l, none) => .next ((s.takePsn w.ctx r).reply (0 :: l))

/-! ### Die-to-die links (R396) -/

/-- A link joins two different dies of the package. -/
def linkOk (a b : BitVec 3) : Bool := a != b && decide (a.toNat ≤ 4 ∧ b.toNat ≤ 4)

/-- A count of the telemetry of the compute dies at the ends of a link. -/
def State.countLink (s : State) (a b : BitVec 3) (f : Telemetry → Telemetry) : State :=
  [a, b].foldl (fun (s : State) x =>
    if x.toNat < 4 then s.modDie x.toNat fun d => { d with telemetry := f d.telemetry } else s) s

/-- FLIT_RETRY (R396, R462). -/
def execFlitRetry (a b : BitVec 3) (s : State) : Res :=
  if linkOk a b then .next (s.countLink a b fun t => { t with flitRetries := bump t.flitRetries }) else notNow "FLIT_RETRY"

/-- A request of tile P crosses the link. -/
def State.overLink (s : State) (P : TileId) (a b : BitVec 3) (ea : Word) : Bool :=
  (dieOf P == a.toNat && s.ownerIx P ea == b.toNat) || (dieOf P == b.toNat && s.ownerIx P ea == a.toNat)

/-- A request that has no reply at its source is sent again, with its tag: its owner answers it from the table or applies it (R394).
(DEDUCED, log entry 37: which requests.) -/
def State.sendAgain (s : State) (a b : BitVec 3) (P : TileId) : State :=
  match s.inFlight P with
  | some (_, f) =>
    if s.overLink P a b f.req.ea then s.modCore P fun c => { c with flight := some { f with reply := none } } else s
  | none => s

/-- LINK_RETRAIN (R396, R462). -/
def execLinkRetrain (a b : BitVec 3) (s : State) : Res :=
  if linkOk a b then
    let s := s.countLink a b fun t => { t with retrains := bump t.retrains }
    .next (s.tiles.foldl (fun (s : State) p => s.sendAgain a b (BitVec.ofNat 10 p.1)) s)
  else notNow "LINK_RETRAIN"

end Sys2Proof.Machine
end

