-- ==== Sys2Proof/Machine/Network.lean ====
section
/-! DEFINITION. Ethernet (R68 to R74): frames, rings and their indices, with the FRAME records of record and replay (R464, R465).
A frame is a list of bytes in the order in which the wire carries them; a received one ends in its FCS. -/
namespace Sys2Proof.Machine

/-! ### Frames -/

/-- One step of the FCS of IEEE 802.3 for each of `n` bits, least significant bit first. -/
def fcsBits : Nat → BitVec 32 → BitVec 32
  | 0, c => c
  | n + 1, c => fcsBits n ((c >>> 1) ^^^ (if c.getLsbD 0 then 0xEDB88320 else 0))

/-- The FCS of the bytes of a frame (R68: IEEE 802.3). (PRESUMED, log entry 34: the constants of IEEE 802.3.) -/
def fcs (l : List Byte) : BitVec 32 :=
  ~~~ l.foldl (fun (c : BitVec 32) (b : Byte) => fcsBits 8 (c ^^^ b.zeroExtend 32)) (BitVec.allOnes 32)

/-- A number of `n` bytes at byte `i`, highest byte first. -/
def netNum (l : List Byte) (i n : Nat) : Nat := ((l.drop i).take n).foldl (fun a b => 256 * a + b.toNat) 0

/-- What rings match on: the EtherType, the VLAN id if the frame has one, the UDP destination port if it has one, and whether
it is a PTP event message. -/
structure FrameHead where
  etype : Nat
  vlan  : Option Nat
  udp   : Option Nat
  ptp   : Bool
deriving DecidableEq, Repr

/-- The UDP destination port of a packet of an EtherType at byte `at_`. -/
def udpPort (l : List Byte) (etype at_ : Nat) : Option Nat :=
  if etype = 0x0800 ∧ netNum l (at_ + 9) 1 = 17 then some (netNum l (at_ + 4 * (netNum l at_ 1 % 16) + 2) 2)
  else if etype = 0x86DD ∧ netNum l (at_ + 6) 1 = 17 then some (netNum l (at_ + 42) 2)
  else none

/-- The head of a frame. (PRESUMED, log entry 34: the constants of VLAN, UDP and PTP.) -/
def frameHead (l : List Byte) : FrameHead :=
  let tagged := netNum l 12 2 == 0x8100
  let at_ := if tagged then 18 else 14
  let etype := netNum l (at_ - 2) 2
  let udp := udpPort l etype at_
  { etype, vlan := if tagged then some (netNum l 14 2 % 4096) else none, udp,
    ptp := (etype == 0x88F7 && decide (netNum l at_ 1 % 16 < 4)) || udp == some 319 }

/-- A ring takes a frame of a port (R72). -/
def Ring.takes (r : Ring) (port : BitVec 2) (h : FrameHead) : Bool :=
  r.ports.getLsbD port.toNat && (r.etype == 0 || r.etype.toNat == h.etype) &&
  (r.vlan == 0xFFFF || h.vlan == some r.vlan.toNat) && (r.udpp == 0 || h.udp == some r.udpp.toNat)

/-- The quarter nanoseconds of TIME (R69, R70). -/
def State.timeQuarter (s : State) : Nat := s.timeFrac * 4 / timeDen

/-- The 32-byte header of a receive slot (R73). -/
def slotHeader (tsns tsq port len fseq vid ffl : Nat) : List Byte :=
  leBytes 8 tsns ++ leBytes 1 tsq ++ leBytes 1 port ++ leBytes 2 len ++ leBytes 4 fseq ++ leBytes 2 vid ++ leBytes 2 ffl ++
    List.replicate 12 0

/-- The header of a frame that arrives now. -/
def State.rxHeader (s : State) (port : BitVec 2) (r : Ring) (h : FrameHead) (len : Nat) : List Byte :=
  slotHeader s.timeNs.toNat s.timeQuarter port.toNat len r.fseq.toNat (h.vlan.getD 0)
    ((if h.vlan.isSome then 1 else 0) + (if h.ptp then 2 else 0))

/-! ### Rings -/

/-- A receive ring changes. -/
def State.setRx (s : State) (g : Nat) (r : Ring) : State := s.modIo fun io => { io with rxRings := kset io.rxRings g r }
/-- A transmit ring changes. -/
def State.setTx (s : State) (g : Nat) (r : Ring) : State := s.modIo fun io => { io with txRings := kset io.txRings g r }

/-- The 32-bit index that software keeps at an address, or the last one when it cannot be read (R72). -/
def State.readIndex (s : State) (ctx : BitVec 12) (va : Word) (last : BitVec 32) : State × BitVec 32 :=
  match s.agentRead ctx va 4 with
  | (s, some l) => (s, BitVec.ofNat 32 (leNat l))
  | (s, none) => (s, last)

/-- The address of a slot of a ring. -/
def Ring.slotVa (r : Ring) (i : BitVec 32) : Word := r.base + BitVec.ofNat 64 (r.slotsz.toNat * (i.toNat % r.nslot.toNat))

/-- One drop more. -/
def Ring.drop (r : Ring) : Ring := { r with drops := bump r.drops }

/-- The tiles of a task that run a virtual tile: two for a pair or a TWIN task. -/
def State.tilesOf (s : State) (k : Task) (vt : Nat) : List TileId := k.tiles.filter fun P => (s.tile P).vt.toNat == vt

/-- What is kept of a tile that is switched out is that of a virtual tile. -/
def keptFor (vt : Nat) (p : Nat × Tile) : Bool := p.2.vt.toNat == vt

/-- A live task of a context that maps a virtual tile: the ring's own, or the oldest (R72).
(DESIGN CHOICE, log entry 33: which of several.) -/
def State.taskMapping (s : State) (r : Ring) : Option (Nat × Task) :=
  let maps (p : Nat × Task) : Bool :=
    p.2.ctx == r.ctx && p.2.ending.isNone && decide (p.2.state ≠ .done) &&
    (!(s.tilesOf p.2 r.vtile.toNat).isEmpty || p.2.saved.any (keptFor r.vtile.toNat))
  match s.tasks.find? fun p => maps p && r.owner == some p.1 with
  | some p => some p
  | none => s.tasks.find? maps

/-- The last write that an owner has applied, as a clock. -/
def State.stampOf (s : State) (o : Nat) : Clock := set4 Clock.zero o (at4 (s.die o).k o)

/-- SLOTSZ is added to the ring's semaphore (R72), on the tiles of its task that run, and once it runs on those that are switched out; or
the addition is dropped and counted. A wait that counts it sees what the owners of the slot and of PIVA have applied (R390). -/
def State.signalRing (s : State) (g : Nat) (r : Ring) (slot : Word) : State :=
  if r.vtile = 0xFFFF then s
  else match s.taskMapping r with
    | none => s.setRx g r.drop
    | some (t, k) =>
      let clock := clockMax (s.stampOf (ownerOf slot)) (s.stampOf (ownerOf r.piva))
      let runs (P : TileId) : Bool := decide (k.state = .running ∨ k.state = .saving) && (s.keptKey P).isNone
      let live := (s.tilesOf k r.vtile.toNat).filter runs
      let later (copy : Bool) : List SemLater :=
        if live.any fun P => (s.tile P).copy == copy then []
        else [{ vt := BitVec.ofNat 10 r.vtile.toNat, copy, sem := r.sem, count := r.slotsz, clock }]
      let adds := later false ++ if k.redun = .twin then later true else []
      (live.foldl (fun (s : State) P => s.semAddWith P r.sem r.slotsz clock) s).modTask t fun x => { x with semAdds := x.semAdds ++ adds }

/-! ### FRAME records (R464, R465) -/

/-- The number of bytes of a context's frame area, and its first address. -/
def RecDesc.frameBytes (r : RecDesc) : Nat := 128 * r.nrec.toNat
/-- The address of a byte of the frame area. -/
def RecDesc.frameVa (r : RecDesc) (off : Nat) : Word := r.logva + BitVec.ofNat 64 (r.frameBytes + off % r.frameBytes)

/-- Bytes go into a frame area from an offset on, and wrap. -/
def State.putFrame (s : State) (ctx : BitVec 12) (r : RecDesc) (off : Nat) (l : List Byte) : State :=
  let first := r.frameBytes - off % r.frameBytes
  let s := (s.agentWrite ctx (r.frameVa off) (l.take first)).1
  if l.length ≤ first then s else (s.agentWrite ctx (r.frameVa 0) (l.drop first)).1

/-- The bytes of a frame area from an offset on. -/
def State.getFrame (s : State) (ctx : BitVec 12) (r : RecDesc) (off n : Nat) : List Byte :=
  let first := min n (r.frameBytes - off % r.frameBytes)
  let a := ((s.agentRead ctx (r.frameVa off) first).2).getD []
  if n ≤ first then a else a ++ ((s.agentRead ctx (r.frameVa 0) (n - first)).2).getD []

/-- The FRAME records whose bytes [off, off + n) of the frame area overwrites get their flag. -/
def State.flagFrames (s : State) (ctx : BitVec 12) (r : RecDesc) (off n : Nat) : State :=
  let (s, pi, ci) := s.logIndex ctx
  (List.range (pi - ci)).foldl (fun (s : State) i =>
    let l := s.logRecord ctx (ci + i)
    let len := leNat ((l.drop 50).take 2)
    let at_ := leNat ((l.drop 52).take 8)
    let hit := (List.range len).any fun j => decide ((at_ + j + r.frameBytes - off % r.frameBytes) % r.frameBytes < n)
    if leNat (l.take 1) = 2 ∧ hit = true then
      (s.agentWrite ctx (r.logva + BitVec.ofNat 64 (128 * ((ci + i) % r.nrec.toNat) + 1)) [1]).1
    else s) s

/-- A frame placed in a ring of a context that records is logged, its bytes in the frame area: none while the log is full.
(DEDUCED, log entry 43: widths within the payload.) -/
def State.logFrame (s : State) (g : Nat) (r : Ring) (header frame : List Byte) : Option State :=
  let d := s.recDesc r.ctx
  let off := kget 0 s.io.frameOff r.ctx.toNat
  let s := s.flagFrames r.ctx d off frame.length
  let payload := leBytes 2 g ++ header ++ leBytes 2 frame.length ++ leBytes 8 off
  (s.logAppend r.ctx 2 r.vtile.toNat r.fseq.toNat payload).map fun s =>
    (s.putFrame r.ctx d off frame).modIo fun io =>
      { io with frameOff := kset io.frameOff r.ctx.toNat ((off + frame.length) % d.frameBytes) }

/-- The header and the frame that replay mode places next in a ring (R465). -/
def State.replayFrame (s : State) (g : Nat) (r : Ring) : Option (List Byte × List Byte) :=
  let d := s.recDesc r.ctx
  (s.logFind r.ctx 2 r.fseq.toNat fun _ l => leNat (l.take 2) == g).map fun l =>
    ((l.drop 2).take 32, s.getFrame r.ctx d (leNat ((l.drop 36).take 8)) (leNat ((l.drop 34).take 2)))

/-! ### FRAME_RECEIVE (R72) -/

/-- The slot of a frame that has been written in ring g is given out: PIVA, then the semaphore. -/
def State.giveSlot (s : State) (g : Nat) (r : Ring) : State :=
  let next := { r with pi := r.pi + 1, fseq := r.fseq + 1 }
  let s := ((s.release .paths r.obs).agentWrite r.ctx r.piva (leBytes 4 next.pi.toNat)).1
  (s.setRx g next).signalRing g next (r.slotVa r.pi)

/-- A frame is placed in the next slot of ring g, or dropped where its slot cannot be written. `note` logs a frame that is placed; none
while it has to wait. -/
def State.placeFrame (s : State) (g : Nat) (r : Ring) (header frame : List Byte) (note : State → Option State) : Option State :=
  match s.agentWrite r.ctx (r.slotVa r.pi) (header ++ frame) with
  | (_, false) => some (s.setRx g r.drop)
  | (s, true) => (note s).map fun s => s.giveSlot g r

/-- The device accepts a frame into ring g, or drops it: CI is read once more before a frame is dropped for a full ring. None while
the log of its context is full, or a replay has no record. -/
def State.acceptFrame (s : State) (port : BitVec 2) (g : Nat) (r : Ring) (frame : List Byte) (h : FrameHead) : Option State :=
  let full (r : Ring) : Bool := (r.pi - r.ci).toNat == r.nslot.toNat
  let (s, r) :=
    if full r then
      let (s, ci) := s.readIndex r.ctx r.civa r.ci
      (s, { r with ci })
    else (s, r)
  let s := s.setRx g r
  let mode := s.recModeOf r.ctx
  if mode = 2 then
    if full r then some (s.setRx g r.drop)
    else (s.replayFrame g r).bind fun x => s.placeFrame g r x.1 x.2 some
  else if full r ∨ r.slotsz.toNat < frame.length + 32 then some (s.setRx g r.drop)
  else
    let header := s.rxHeader port r h frame.length
    s.placeFrame g r header frame fun s => if mode = 1 then s.logFrame g r header frame else some s

/-- The lowest enabled ring that takes a frame. -/
def State.ringFor (s : State) (port : BitVec 2) (h : FrameHead) : Option (Nat × Ring) := s.io.rxRings.find? fun p => p.2.takes port h

/-- A port has dropped a frame. -/
def State.dropAtPort (s : State) (port : BitVec 2) : State := s.modIo fun io => { io with portDrop := set4 io.portDrop port.toNat (bump (at4 io.portDrop port.toNat)) }

/-- FRAME_RECEIVE (R68, R69, R72): a frame with its FCS crosses the reference plane of a port.
(DESIGN CHOICE, log entry 79: a frame longer than 9,216 bytes.) -/
def execFrameReceive (port : BitVec 2) (frame : List Byte) (s : State) : Res :=
  let n := frame.length - 4
  let body := frame.take n
  if s.io.lost ∨ frame.length < 4 ∨ leNat (frame.drop n) ≠ (fcs body).toNat ∨ 9216 < n then .next (s.dropAtPort port)
  else
    let h := frameHead body
    match s.ringFor port h with
    | none => .next (s.dropAtPort port)
    | some (g, r) =>
      match s.acceptFrame port g r body h with
      | some s => .next s
      | none => notNow "FRAME_RECEIVE"

/-! ### Indices that software stores (R72, R74) -/

/-- CIVA_STORE (R72): a store has reached the consumer index of a receive ring, and die 4 reads it with acquire. -/
def execCivaStore (g : Byte) (s : State) : Res :=
  match kfind s.io.rxRings g.toNat with
  | none => notNow "CIVA_STORE"
  | some r =>
    let (s, ci) := s.readIndex r.ctx r.civa r.ci
    .next (s.setRx g.toNat { r with ci })

/-- PIVA_STORE (R74): a store has reached the producer index of a transmit ring. -/
def execPivaStore (g : Byte) (s : State) : Res :=
  match kfind s.io.txRings g.toNat with
  | none => notNow "PIVA_STORE"
  | some r =>
    let (s, pi) := s.readIndex r.ctx r.piva r.pi
    .next (s.setTx g.toNat { r with pi })

/-! ### FRAME_TRANSMIT (R74) -/

/-- What die 4 reads of a slot for a network request: bytes, or the access parks or is refused. -/
def State.slotRead (s : State) (r : Ring) (va : Word) (n : Nat) : State × List Byte × Option (Word × Got) :=
  State.readSpan (agentWho r.ctx) false false (n / 64 + 2) s va n

/-- The slot is returned: CI + 1 goes to CIVA with release to OBS. -/
def State.returnSlot (s : State) (g : Nat) (r : Ring) : State :=
  let r := { r with ci := r.ci + 1 }
  (((s.release .paths r.obs).agentWrite r.ctx r.civa (leBytes 4 r.ci.toNat)).1).setTx g r

/-- The frame of the next slot is sent, or returned unsent when its LEN is too great.
(DESIGN CHOICE, log entry 78: the port by which a frame leaves.) -/
def State.sendSlot (s : State) (g : Nat) (r : Ring) (header frame : List Byte) : State :=
  let va := r.slotVa r.ci
  let len := numAt header 10 2
  if 9216 < len ∨ r.slotsz.toNat < len + 32 then
    let s := (s.agentWrite r.ctx va (leBytes 8 0)).1
    ((s.agentWrite r.ctx (va + 18) (leBytes 2 (numAt header 18 2 % 32768 + 32768))).1).returnSlot g r
  else
    let s := s.modIo fun io => { io with sent := io.sent ++ [(r.ports, frame)] }
    let s := if numAt header 18 2 % 2 = 1 then (s.agentWrite r.ctx va (leBytes 8 s.timeNs.toNat ++ leBytes 1 s.timeQuarter)).1 else s
    s.returnSlot g r

/-- An access of die 4 for a ring parks once, and its record names a network request (R236). -/
def State.parkSlot (s : State) (r : Ring) (va : Word) : Option State :=
  let d := parkOwner va
  if ((s.die d).park ++ (s.die d).parkHeld ++ s.io.pri).any fun p => p.src == 7 && p.va == va && p.ctx == r.ctx then none
  else some (s.parkAt d (agentWho r.ctx) va .read)

/-- FRAME_TRANSMIT (R74): die 4 takes the next slot of a transmit ring that software has filled. A slot that cannot be read is
returned unsent. -/
def execFrameTransmit (g : Byte) (s : State) : Res :=
  match kfind s.io.txRings g.toNat with
  | none => notNow "FRAME_TRANSMIT"
  | some r =>
    if r.pi = r.ci ∨ s.io.lost then notNow "FRAME_TRANSMIT"
    else
      let va := r.slotVa r.ci
      match s.slotRead r va 32 with
      | (s, _, some (a, .park _)) => (match s.parkSlot r a with | some s => .next s | none => notNow "FRAME_TRANSMIT")
      | (s, _, some _) => .next (s.returnSlot g.toNat r)
      | (s, header, none) =>
        let len := numAt header 10 2
        if 9216 < len ∨ r.slotsz.toNat < len + 32 then .next (s.sendSlot g.toNat r header [])
        else match s.slotRead r (va + 32) len with
          | (s, _, some (a, .park _)) => (match s.parkSlot r a with | some s => .next s | none => notNow "FRAME_TRANSMIT")
          | (s, _, some _) => .next (s.returnSlot g.toNat r)
          | (s, frame, none) => .next (s.sendSlot g.toNat r header frame)

end Sys2Proof.Machine
end

