-- ==== Sys2Proof/Machine/Reliability.lean ====
section
/-! DEFINITION. Reliability and containment: voted units and the fatal sequencer (R430 to R433), time-outs of PAIR and TWIN tasks
(R435, R437), divergences of a replay (R465), freezes of the region cycle counter (R419), patrol scrub (R445), throttling and
thermal trips (R467, R468). -/
namespace Sys2Proof.Machine

/-! ### The fatal sequencer (R64, R433) -/

/-- A tile of a task stops at its pre-emption point, with its events discarded and its parked accesses gone. Nothing of it is under
way any more, because nothing is written from now on. -/
def State.fatalStop (s : State) (P : TileId) : State :=
  let s := [1, 2, 3, 4, 5].foldl (fun (s : State) (x : Nat) => s.unpark P (BitVec.ofNat 3 x)) (s.stopTile P)
  s.modTile P fun t => { t with events := [], grid := { t.grid with run := none } }

/-- The DEVICE-LOST record of every accepted launch of a queue that has not completed, with the slips of its task. A control packet that
still waits has had no record store: it stays unaccepted (R64, R65). -/
def State.loseEntries (s : State) (q : Nat) : State :=
  (s.queue q).entries.foldl (fun (s : State) e =>
    match e.kind with
    | .launch t => s.recordEntry q e stLost coNone 0 (match s.task? t with | some k => k.slips | none => 0)
    | _ => s) s

/-- A control-plane fatal event (R433): LOST, every tile of every task stops and none is saved, every event and parked access is
discarded, and the DEVICE-LOST records are written. (DEDUCED, log entry 20: nothing in flight lands afterwards.) -/
def State.fatal (s : State) : State :=
  if s.io.lost then s
  else
    let s := s.modIo fun io => { io with lost := true, pri := [] }
    let s := s.settleRcc
    let s := s.tasks.foldl (fun (s : State) p => p.2.tiles.foldl State.fatalStop s) s
    let s := [0, 1, 2, 3].foldl (fun (s : State) d => s.modDie d fun x => { x with park := [], parkHeld := [], parkRecs := [], reports := [] }) s
    let s := [0, 1, 2, 3].foldl (fun (s : State) d => s.modDie d fun x => { x with siphon := { x.siphon with serving := none } }) s
    let clusters := s.clusters.map fun (p : Nat × Cluster) => (p.1, { p.2 with queue := [] })
    let tasks := s.tasks.map fun (p : Nat × Task) => (p.1, { p.2 with compare := [] })
    let s : State := { s with clusters, tasks, transit := [] }
    (s.io.queues.map fun p => p.1).foldl State.loseEntries s

/-! ### Voted units (R430 to R432) -/

/-- The kind of a voted unit, in the order of R430. -/
def kindIx : VotedUnit → Fin 5
  | .commandProcessors => 0 | .dieScheduler _ => 1 | .clusterScheduler _ => 2 | .walker _ _ => 3 | .supervisor _ => 4

/-- The compute dies whose telemetry counts a unit (R462): its own, or all of them for die 4. -/
def unitDies : VotedUnit → List Nat
  | .commandProcessors => [0, 1, 2, 3]
  | .dieScheduler d => [d.toNat]
  | .clusterScheduler c => [c.toNat / 16]
  | .walker d _ => [d.toNat]
  | .supervisor c => [c.toNat / 16]

/-- One copy dissents: it is held out of the vote and resynchronised, and RSYNC is set; a second disagreement is fatal. -/
def State.dissent (s : State) (u : VotedUnit) : State :=
  if s.resync.contains u then s.fatal else { s with resync := s.resync ++ [u] }

/-- VOTE_DISAGREE (R432, R433): with a majority the dissenter is resynchronised, and without one the event is fatal. -/
def execVoteDisagree (u : VotedUnit) (majority : Bool) (s : State) : Res :=
  .next (if majority then s.dissent u else s.fatal)

/-- The architectural state of a voted unit as numbers of 8 bytes: what the model holds of the unit (R430). -/
def State.unitWords (s : State) (u : VotedUnit) : List Nat :=
  match u with
  | .commandProcessors => s.io.queues.flatMap fun p => [p.1, p.2.head.toNat, p.2.tail.toNat, p.2.next.toNat, p.2.count, p.2.era]
  | .dieScheduler d => (s.tasks.filter fun p => p.2.home == d).flatMap fun p => [p.1, p.2.order, p.2.readyAt, p.2.tiles.length]
  | .clusterScheduler c =>
    s.tiles.flatMap fun p => if p.1 / 16 = c.toNat then [p.1, p.2.task.getD 0, if p.2.stopped then 1 else 0] else []
  | .walker d _ => (s.die d.toNat).crt.flatMap fun p => [p.1, p.2.toNat]
  | .supervisor c => (s.cluster c.toNat).seqno.toNat :: (s.cluster c.toNat).queue.map fun r => r.seqno.toNat

/-- The CRC-64 of a voted unit's state (R431, R478). -/
def State.unitCrc (s : State) (u : VotedUnit) : Word := crc64 ((s.unitWords u).flatMap (leBytes 8))

/-- STATE_CRC_COMPARE (R431): every 4,096 ticks each copy forms the CRC-64 of its state. `a`, `b` and `c` say which bits of it the upsets
of each copy change; the first two copies are the agreeing pair while the unit is resynchronised. (DESIGN CHOICE, log entry 22: in the
ticks that are multiples of 4,096, over what the model holds of the unit, and upsets that come from outside.) -/
def execStateCrcCompare (u : VotedUnit) (a b c : Word) (s : State) : Res :=
  let f := s.unitCrc u
  let (a, b, c) := (f ^^^ a, f ^^^ b, f ^^^ c)
  if s.tick % 4096 ≠ 0 then notNow "STATE_CRC_COMPARE"
  else if s.resync.contains u then .next (if a = b then s else s.fatal)
  else if a = b ∧ b = c then .next s
  else if a = b ∨ b = c ∨ a = c then .next (s.dissent u)
  else .next s.fatal

/-- A resynchronisation is counted (R462). -/
def State.countResync (s : State) (u : VotedUnit) : State :=
  (unitDies u).foldl (fun (s : State) d =>
    s.modDie d fun x => { x with telemetry := { x.telemetry with
      resync := x.telemetry.resync.set (kindIx u) (bump x.telemetry.resync[(kindIx u)]) } }) s

/-- RESYNC_COMPLETE (R432): the dissenter's CRC agrees and it votes again, or the event is fatal. -/
def execResyncComplete (u : VotedUnit) (agree : Bool) (s : State) : Res :=
  if !s.resync.contains u then notNow "RESYNC_COMPLETE"
  else if agree then .next ({ s with resync := s.resync.erase u }.countResync u)
  else .next s.fatal

/-! ### PAIR and TWIN time-outs -/

/-- Since when the oldest event of tile P has waited for its twin to raise the matching one (R435, R437). -/
def State.lonelyEvent (s : State) (P : TileId) : Option Nat :=
  ((s.tile P).events.find? fun v => !v.recorded && (match s.twinTile P with
    | some Q => ((s.tile Q).newEvent v.src).isNone
    | none => true)).map fun v => v.since

/-- Since when a leading tile's oldest outbound request or event waits for its twin. -/
def State.twinWait (s : State) (k : Task) (vt : BitVec 10) : Option Nat :=
  let req := (k.compare.find? fun r => r.vt == vt && r.leading).map fun r => r.since
  let ev := k.tiles.findSome? fun P => if (s.tile P).vt = vt ∧ (s.tile P).trailing = false then s.lonelyEvent P else none
  match req, ev with
  | some a, some b => some (min a b)
  | some a, none => some a
  | none, x => x

/-- A request or an event of tile P has waited for more than `n` ticks. -/
def waited (s : State) (P : TileId) (x : Option Nat) (n : Nat) : Bool :=
  match x with
  | some t => s.passed (dieOf P) t (n + 1)
  | none => false

/-- PAIR_COMPARE_TIMEOUT (R435): no trailing twin has arrived within 256 ticks, or requests have differed in this tick. The lowest virtual
tile is named. -/
def execPairCompareTimeout (P : TileId) (s : State) : Res :=
  match s.taskOf P with
  | none => notNow "PAIR_COMPARE_TIMEOUT"
  | some k =>
    let vt := (s.tile P).vt
    let late (v : BitVec 10) : Bool := k.mismatch == some v || (decide (k.state = .running) && waited s P (s.twinWait k v) 256)
    if k.redun ≠ .pair ∨ (s.tile P).trailing ∨ k.ending.isSome ∨ late vt = false ∨ s.io.lost ∨
        (List.range vt.toNat).any (fun v => late (BitVec.ofNat 10 v)) then notNow "PAIR_COMPARE_TIMEOUT"
    else .next (s.pairEnd P)

/-- TWIN_EVENT_TIMEOUT (R437): the other copy has raised no event to match one of a copy within 65,536 ticks. -/
def execTwinEventTimeout (t : Nat) (s : State) : Res :=
  match s.task? t with
  | none => notNow "TWIN_EVENT_TIMEOUT"
  | some k =>
    let late := k.tiles.any fun P => waited s P (s.lonelyEvent P) 65536
    if k.redun = .twin ∧ k.state = .running ∧ k.ending.isNone ∧ late = true ∧ s.io.lost = false then .next (s.endTask t stTwin 0)
    else notNow "TWIN_EVENT_TIMEOUT"

/-! ### Divergence (R465) -/

/-- A request of a source with a tag is in the recorded order of a location. -/
def State.recordedAt (s : State) (P : TileId) (va : Word) (tag : BitVec 16) : Bool :=
  let w := s.who P 0 0
  let (_, pi, ci) := s.logIndex w.ctx
  (List.range (pi - ci)).any fun i =>
    let l := s.logRecord w.ctx (ci + i)
    let x := l.drop 16
    leNat (l.take 1) == 5 && leNat (x.take 8) == va.toNat && leNat ((x.drop 8).take 2) == w.ctx.toNat &&
    leNat ((x.drop 10).take 2) == w.vt.toNat && leNat ((x.drop 12).take 2) == tag.toNat

/-- A combine of tile P at a location is held, and it is absent from the recorded order or has waited 65,536 ticks since `since`. -/
def State.divergesAt (s : State) (P : TileId) (va : Word) (tag : BitVec 16) (since : Nat) : Bool :=
  s.orderHeld P va tag && !(s.io.diverged.any fun x => x.1 == (s.who P 0 0).ctx && x.2 == va) && (!s.recordedAt P va tag || s.passed (dieOf P) since 65536)

/-- A combine that tile P holds at a location diverges. -/
def State.tileDiverges (s : State) (P : TileId) (va : Word) : Bool :=
  (match (s.core P).run, (s.core P).flight with
   | .waiting _ .flight t, some f => f.req.op.once && f.req.ea == va && s.divergesAt P va (f.req.tag.getD 0) t
   | _, _ => false) ||
  (s.tile P).eng.toList.any fun x => x.staging.any fun l => l.addr == va && s.divergesAt P va l.tag x.since

/-- REPLAY_DIVERGENCE (R465): from now on the location applies requests in arrival order, and the event is counted. -/
def execReplayDivergence (t : Nat) (va : Word) (s : State) : Res :=
  match s.task? t with
  | none => notNow "REPLAY_DIVERGENCE"
  | some k =>
    if k.recMode = 2 ∧ k.tiles.any (fun P => s.tileDiverges P va) = true then
      .next ((s.modIo fun io => { io with diverged := (k.ctx, va) :: io.diverged }).modTask t fun k =>
        { k with ctr := { k.ctr with diverg := satAdd 32 k.ctr.diverg 1 } })
    else notNow "REPLAY_DIVERGENCE"

/-! ### Freezes (R419) -/

/-- RCC_FREEZE (R419): a freeze takes hold. -/
def execRccFreeze (c : FreezeCause) (s : State) : Res :=
  if s.freezes.contains c then notNow "RCC_FREEZE" else .next { s.settleRcc with freezes := s.freezes ++ [c] }

/-- RCC_THAW (R419): a freeze lifts; an overlapping one stays. -/
def execRccThaw (c : FreezeCause) (s : State) : Res :=
  if s.freezes.contains c then .next { s.settleRcc with freezes := s.freezes.erase c } else notNow "RCC_THAW"

/-! ### Patrol scrub (R445) -/

/-- The compute die whose scrub reaches a line: of HBM, Cavern, Gallery, tile memory or accumulator memory. -/
def scrubDie (line : Nat) : Option Nat :=
  let g := 64 * line
  if g < 4 * 2 ^ 48 then (if oneRange (g % 2 ^ 48) 64 then some (g / 2 ^ 48) else none)
  else if gTile 0 0 ≤ g ∧ g < gTile 1024 0 then some ((g - gTile 0 0) / 2 ^ 19 / 256)
  else if gAcc 0 0 ≤ g ∧ g < gAcc 1024 0 then some ((g - gAcc 0 0) / 2 ^ 16 / 256)
  else none

/-- PATROL_SCRUB (R445, R462): a correctable error is written back, and an uncorrectable one marks the line. -/
def execPatrolScrub (line : Nat) (ok : Bool) (s : State) : Res :=
  match scrubDie line with
  | none => notNow "PATROL_SCRUB"
  | some d =>
    if ok then .next (s.modDie d fun x => { x with telemetry := { x.telemetry with corrections := bump x.telemetry.corrections } })
    else .next ((s.mark line).modDie d fun x => { x with telemetry := { x.telemetry with marks := bump x.telemetry.marks } })

/-! ### Temperature (R467, R468) -/

/-- Ticks in a millisecond. -/
def msTicks : Nat := 1300000

/-- A die may raise its level by one, since its power or its temperature is past its limit, or lower it by one, since both have stayed 5 %
below their limits for 10 ms; at most once per millisecond (R467). -/
def Die.mayStep (x : Die) (now : Nat) (up : Bool) : Bool :=
  x.powered && (x.telemetry.throttle == 0 || decide (x.lastStep + msTicks ≤ now)) &&
  (if up then x.past && x.throttle != 7
   else x.throttle != 0 && (match x.coolFrom with | some t => decide (t + 10 * msTicks ≤ now) | none => false))

/-- The level of a die changes at tick `now`, and the step is counted. -/
def Die.step (x : Die) (now : Nat) (up : Bool) : Die :=
  let l := if up then x.throttle + 1 else x.throttle - 1
  { x with throttle := l, steps := (now, l) :: x.steps, lastStep := now,
           telemetry := { x.telemetry with throttle := bump x.telemetry.throttle } }

/-- What a core is occupied for lasts the same number of unheld ticks at the new level. -/
def State.rescale (s : State) (d : Nat) (l : BitVec 3) : State :=
  let at_ (t : Nat) : Nat := if t ≤ s.tick then t else s.tick + throttledAt l.toNat (s.between d s.tick t)
  { s with tiles := s.tiles.map fun p =>
      if p.1 / 256 = d then
        (p.1, { p.2 with core := { p.2.core with busy := at_ p.2.core.busy, ready := p.2.core.ready.map fun r => (r.1, at_ r.2) } })
      else p }

/-- THERMAL_STEP (R467): the level changes by one at once.
(DEDUCED, log entry 21: the limits and the draw are the outside world's.) -/
def execThermalStep (d : BitVec 2) (up : Bool) (s : State) : Res :=
  let x := s.die d.toNat
  if x.mayStep s.tick up then
    .next ((s.settleRcc.rescale d.toNat (x.step s.tick up).throttle).modDie d.toNat fun x => x.step s.tick up)
  else notNow "THERMAL_STEP"

/-- The temperature of a thermal trip, in sixteenths of a degree. -/
def tripTemp : Nat := 115 * 16

/-- THERMAL_TRIP (R468): the fatal sequencer runs, and dies 0 to 3 lose power. -/
def execThermalTrip (d : BitVec 2) (s : State) : Res :=
  if (s.die d.toNat).telemetry.temp.toNat < tripTemp ∨ 2 ^ 15 ≤ (s.die d.toNat).telemetry.temp.toNat ∨ (s.die d.toNat).powered = false then notNow "THERMAL_TRIP"
  else .next ([0, 1, 2, 3].foldl (fun (s : State) x => s.modDie x fun y => { y with powered := false }) s.fatal)

/-- The temperature of a die changes. At 115 °C the trip comes at once (R468). -/
def State.heat (s : State) (d : BitVec 2) (v : BitVec 16) : State :=
  let s := s.modDie d.toNat fun x => { x with telemetry := { x.telemetry with temp := v } }
  match execThermalTrip d s with
  | .next t => t
  | _ => s

end Sys2Proof.Machine
end

