-- ==== Sys2Proof/Machine/Management.lean ====
section
/-! DEFINITION. Reset and its stages (R470, R471), firmware images (R472 to R474, R476), attestation (R475) and monitoring (R462,
R476). -/
namespace Sys2Proof.Machine

/-! ### Firmware images (R472, R473) -/

/-- The smallest SVN that an image of a KIND may have. -/
def IoDie.svnFloor (io : IoDie) (kind : Nat) : Nat := (kget 0 io.svnMin kind).toNat

/-- What an image says it is (R472). -/
def imageOf (l : List Byte) : Firmware :=
  { kind := BitVec.ofNat 16 (numAt l 6 2), svn := BitVec.ofNat 32 (numAt l 8 4), digest := BitVec.ofNat 384 (bigNat ((l.drop 0x10).take 48)),
    payload := l.drop 0x7800, image := l }

/-- The checks of R473 on an image. -/
def IoDie.accepts (io : IoDie) (l : List Byte) : Bool :=
  let x := imageOf l
  let modulus := (l.drop 0x40).take 384
  let message := l.take 0x204
  let key := (l.drop 0x1C4).take 64
  let len := numAt l 12 4
  numAt l 0 4 == 0x4C594657 && numAt l 4 2 == 1 && (x.kind == 1 || x.kind == 2) && decide (1 ≤ len ∧ len ≤ 2 ^ 24) &&
  x.payload.length == len && zeroAt l 0x77E4 28 && numAt l 0x1C0 4 == 65537 &&
  sha384 (modulus ++ (l.drop 0x1C0).take 4) == Config.rsaRoot && sha384 key == Config.slhRoot &&
  rsaVerifies modulus ((l.drop 0x204).take 384) message && Config.slhVerifies key ((l.drop 0x384).take 29792) message &&
  decide (io.svnFloor x.kind.toNat ≤ x.svn.toNat) && sha384 x.payload == x.digest

/-- The flash source of an image changes: what is there for its KIND at the next stage 2 is copied and checked then (R473). -/
def State.flashWrite (s : State) (image : List Byte) : State :=
  let x := imageOf image
  s.modIo fun io => { io with staged := x :: io.staged.filter fun y => y.kind != x.kind }

/-- A management transport gives an answer. -/
def State.mgmtAnswer (s : State) (l : List Byte) : State := s.modIo fun io => { io with mgmt := io.mgmt ++ [l] }

/-- The management firmware runs, from the end of stage 2 on (R471). -/
def IoDie.managed (io : IoDie) : Bool := decide (2 ≤ io.stage)

/-- FIRMWARE_UPDATE (R473, R476): an image that passes every check is staged in the place of an earlier one of its KIND. The answer
is 1 when it is accepted and 0 when it is rejected. -/
def execFirmwareUpdate (image : List Byte) (s : State) : Res :=
  if !s.io.managed then notNow "FIRMWARE_UPDATE"
  else if s.io.accepts image then
    let x := imageOf image
    .next ((s.modIo fun io => { io with staged := x :: io.staged.filter fun y => y.kind != x.kind }).mgmtAnswer [1])
  else .next (s.mgmtAnswer [0])

/-! ### Reset (R470) -/

/-- The bytes of host memory, which no reset of the device reaches. -/
def hostCell (a : Nat) : Bool := decide (gHost 0 ≤ a ∧ a < gTile 0 0)

/-- A compute die after a reset: a new metadata key is drawn. -/
def Die.afterReset (x : Die) : Die :=
  { Die.reset with metaGen := x.metaGen + 1, telemetry := { Telemetry.reset with temp := x.telemetry.temp } }

/-- The device after a reset of either kind (R470): fuses and staged firmware stay, and so does what belongs to the world outside.
(DESIGN CHOICE, log entry 17: what is kept of the world outside.) -/
def State.afterReset (s : State) : State :=
  { State.reset with
      mem := s.mem.filter fun c => hostCell c.1,
      poison := s.poison.filter fun l => hostCell (64 * l),
      dies := [0, 1, 2, 3].map fun d => (d, (s.die d).afterReset),
      io := { IoDie.reset with staged := s.io.staged, svnMin := s.io.svnMin, sent := s.io.sent, mgmt := s.io.mgmt,
                               answers := s.io.answers },
      hostPages := s.hostPages, holds := s.holds, agenda := s.agenda, free := s.free }

/-- COLD_RESET (R470). -/
def execColdReset (s : State) : Res := .next s.afterReset

/-- Every compute die has lost power (R468). -/
def State.dark (s : State) : Bool := [0, 1, 2, 3].all fun d => !(s.die d).powered

/-- WARM_RESET (R470): it does not give back the power that a thermal trip has removed (R468). -/
def execWarmReset (s : State) : Res := if s.dark then notNow "WARM_RESET" else .next s.afterReset

/-! ### Reset stages (R471) -/

/-- The minimum of a KIND after its image has been activated: the fuse block holds 32 steps per KIND (R476).
(DEDUCED, log entry 19: the minimum stays within 32.) -/
def raiseSvn (m : KMap (BitVec 32)) (x : Firmware) : KMap (BitVec 32) :=
  let k := x.kind.toNat
  kset m k (BitVec.ofNat 32 (max (kget 0 m k).toNat (min x.svn.toNat 32)))

/-- The staged images, as they are copied from flash, pass every check of R473. -/
def IoDie.stagedOk (io : IoDie) : Bool := io.staged.all fun x => io.accepts x.image

/-- The Prapisen image in the private SRAM still has its DIGEST when the supervisors load it, and so each cluster's three copies have one
state CRC (R471). -/
def IoDie.loadsOk (io : IoDie) : Bool := io.running.all fun x => x.kind != 2 || sha384 x.payload == x.digest

/-- The measurement of the image of a KIND among some images (R474). -/
def measured (l : List Firmware) (kind : Nat) : BitVec 384 :=
  match l.find? fun x => x.kind.toNat == kind with
  | some x => sha384 x.payload
  | none => Config.flashDigest kind

/-- The two identity key pairs of two measurements (R474). -/
def identityKeys (management prapisen : BitVec 384) : List KeyPair :=
  [{ slh := false, management, prapisen, pub := Config.rsaPublic management prapisen },
   { slh := true, management, prapisen, pub := Config.slhPublic management prapisen }]

/-- The byte offset at which Prapisen places the queue table, in the range that it maps first (R49). -/
def queueTable : Nat := 0x1000

/-- The work of a stage. (DESIGN CHOICE, log entry 18: the queue table's place.) -/
def State.runStage (s : State) (n : Nat) : State :=
  if n = 2 then
    s.modIo fun io =>
      { io with running := io.staged, svnMin := io.staged.foldl raiseSvn io.svnMin,
                identity := identityKeys (measured io.staged 1) (measured io.staged 2) }
  else if n = 6 then
    s.modIo fun io =>
      { io with hdm := [{ hpa := 0, size := 0x100000, die := 0, pa := 0, key := 0 }], qtable := gDie 0 queueTable,
                qtbase := BitVec.ofNat 64 queueTable }
  else if n = 7 then s.modIo fun io => { io with ready := true }
  else s

/-- Why a stage fails, if it does: 1 its own work, 2 an image check of stage 2, 3 the DIGEST check of stage 6.
(PRESUMED, log entry 14: the codes.) -/
def IoDie.stageFails (io : IoDie) (n : Nat) (ok : Bool) : Option Byte :=
  if !ok then some 1
  else if n = 2 ∧ !io.stagedOk then some 2
  else if n = 6 ∧ !io.loadsOk then some 3
  else none

/-- A read of the configuration space by the host: it is answered from the end of stage 4 on (R471). -/
def State.configRead (s : State) (off : BitVec 12) : Res :=
  if s.io.stage < 4 then notNow "CONFIG_READ" else .next (s.reply (leBytes 4 (Config.configWord off).toNat))

/-- RESET_STAGE (R471): the next stage completes, or fails and stops the sequence, and the management controller reports the stage and the
reason. -/
def execResetStage (ok : Bool) (s : State) : Res :=
  let n := s.io.stage + 1
  if s.io.failed ∨ 7 < n ∨ s.dark then notNow "RESET_STAGE"
  else match s.io.stageFails n ok with
    | some why => .next ((s.modIo fun io => { io with failed := true }).mgmtAnswer [BitVec.ofNat 8 n, why])
    | none => .next ((s.modIo fun io => { io with stage := n }).runStage n)

/-! ### Attestation (R475) -/

/-- The measurement of the image of a KIND that runs (R474). -/
def IoDie.measurement (io : IoDie) (kind : Nat) : BitVec 384 := measured io.running kind

/-- A measurement block (R475). -/
def IoDie.block (io : IoDie) (i : Nat) : List Byte :=
  if i = 1 then shaBytes 48 Config.bootDigest.toNat
  else if i = 2 then shaBytes 48 (io.measurement 1).toNat
  else if i = 3 then shaBytes 48 (io.measurement 2).toNat
  else if i = 4 then shaBytes 48 Config.fuseDigest.toNat ++ leBytes 4 (io.svnFloor 1) ++ leBytes 4 (io.svnFloor 2)
  else if i = 5 then [0]
  else []

/-- The identity certificate: the two public keys, and the two signatures of the root keys over them, under which it is accepted by the rule
of images (R473). (PRESUMED, log entry 14: its form.) -/
def IoDie.certificate (io : IoDie) : List Byte :=
  let body := io.identity.flatMap KeyPair.pub
  body ++ Config.rsaCertifies body ++ Config.slhCertifies body

/-- What an SPDM response holds besides its nonce and its signatures: the header and the fields before them, and those after OpaqueData. -/
structure SpdmAnswer where
  head   : List Byte
  signed : Bool
  tail   : List Byte

/-- An error response with its code and its data (R475). -/
def spdmError (code data : Byte) : SpdmAnswer := { head := [0x13, 0x7F, code, data], signed := false, tail := [] }

/-- OpaqueData with one element, the SLH-DSA signature under the registry id (R475). -/
def opaqueData (signature : List Byte) : List Byte :=
  let l := [1, 0, 0, 0, Config.registryId, 0] ++ leBytes 2 signature.length ++ signature
  leBytes 2 l.length ++ l

/-- The bytes of a response after a transcript: a signed one has its nonce, then OpaqueData with the SLH-DSA signature, and last the
RSASSA-3072 signature, both over the transcript with the response up to OpaqueData. -/
def IoDie.spdmBytes (io : IoDie) (t : List Byte) (a : SpdmAnswer) : List Byte :=
  if a.signed then
    let head := a.head ++ leBytes 32 (Config.spdmNonce t).toNat
    head ++ opaqueData (Config.slhSign (io.measurement 1) (io.measurement 2) (t ++ head)) ++ a.tail ++
      Config.rsaSign (io.measurement 1) (io.measurement 2) (t ++ head)
  else a.head

/-- An SPDM request is answered; the transcript is that of all messages since GET_VERSION.
(PRESUMED, log entry 14: the codes and the fields of SPDM 1.3.) -/
def spdm (name : String) (request : List Byte) (f : IoDie → SpdmAnswer) (s : State) : Res :=
  if !s.io.managed then notNow name
  else
    let t := s.io.spdm ++ request
    let answer := s.io.spdmBytes t (f s.io)
    .next ((s.modIo fun io => { io with spdm := t ++ answer }).mgmtAnswer answer)

/-- GET_VERSION (R475): a new exchange begins. -/
def execGetVersion (s : State) : Res :=
  spdm "GET_VERSION" [0x10, 0x84, 0, 0] (fun _ => { head := [0x10, 0x04, 0, 0, 0, 1, 0x00, 0x13], signed := false, tail := [] })
    (s.modIo fun io => { io with spdm := [] })

/-- GET_CAPABILITIES (R475): certificates, challenges and signed measurements, and no key exchange. -/
def execGetCapabilities (s : State) : Res :=
  spdm "GET_CAPABILITIES" [0x13, 0xE1, 0, 0]
    (fun _ => { head := [0x13, 0x61, 0, 0, 0, 0, 0, 0] ++ leBytes 4 0x16 ++ leBytes 4 65536 ++ leBytes 4 65536, signed := false, tail := [] }) s

/-- NEGOTIATE_ALGORITHMS (R475): SHA-384 and RSASSA-3072. -/
def execNegotiateAlgorithms (algs : List Byte) (s : State) : Res :=
  spdm "NEGOTIATE_ALGORITHMS" ([0x13, 0xE3] ++ algs)
    (fun _ => { head := [0x13, 0x63, 0, 0] ++ leBytes 2 36 ++ [1, 2] ++ leBytes 4 4 ++ leBytes 4 4 ++ leBytes 4 2 ++ List.replicate 16 0,
                signed := false, tail := [] }) s

/-- GET_DIGESTS (R475): the digest of the certificate in slot 0. -/
def execGetDigests (s : State) : Res :=
  spdm "GET_DIGESTS" [0x13, 0x81, 0, 0]
    (fun io => { head := [0x13, 0x01, 0, 1] ++ shaList io.certificate, signed := false, tail := [] }) s

/-- GET_CERTIFICATE (R475): a part of the certificate in slot 0. -/
def execGetCertificate (slot : BitVec 4) (off len : BitVec 16) (s : State) : Res :=
  spdm "GET_CERTIFICATE" ([0x13, 0x82, slot.zeroExtend 8, 0] ++ leBytes 2 off.toNat ++ leBytes 2 len.toNat)
    (fun io =>
      if slot ≠ 0 then spdmError 0x01 0
      else
        let rest := io.certificate.drop off.toNat
        let part := rest.take len.toNat
        { head := [0x13, 0x02, 0, 0] ++ leBytes 2 part.length ++ leBytes 2 (rest.length - part.length) ++ part, signed := false, tail := [] }) s

/-- CHALLENGE (R475): the response carries two signatures. -/
def execChallenge (slot : BitVec 4) (nonce : List Byte) (s : State) : Res :=
  spdm "CHALLENGE" ([0x13, 0x83, slot.zeroExtend 8, 0] ++ nonce)
    (fun io =>
      if slot ≠ 0 then spdmError 0x01 0
      else { head := [0x13, 0x03, 0, 1] ++ shaList io.certificate, signed := true, tail := (nonce.drop 32).take 8 }) s

/-- A measurement block as a response holds it: index, specification, length and value. -/
def IoDie.blockRecord (io : IoDie) (i : Nat) : List Byte :=
  match io.block i with
  | [] => []
  | l => [BitVec.ofNat 8 i, 1] ++ leBytes 2 (l.length + 3) ++ [BitVec.ofNat 8 (i - 1)] ++ leBytes 2 l.length ++ l

/-- The measurement blocks that an index asks for: all for 0xFF, and none for 0, which asks for their number. -/
def asked (index : Byte) : List Nat :=
  if index = 0 then [] else if index = 0xFF then [1, 2, 3, 4, 5] else if index.toNat ≤ 5 then [index.toNat] else []

/-- GET_MEASUREMENTS (R475): the response carries the measurement blocks and two signatures. -/
def execGetMeasurements (index : Byte) (nonce : List Byte) (s : State) : Res :=
  spdm "GET_MEASUREMENTS" ([0x13, 0xE0, 1, index] ++ nonce)
    (fun io =>
      let l := asked index
      let record := l.flatMap io.blockRecord
      { head := [0x13, 0x60, if index = 0 then 5 else 0, 0, BitVec.ofNat 8 l.length] ++ leBytes 3 record.length ++ record, signed := true,
        tail := (nonce.drop 32).take 8 }) s

/-- The request codes that the device supports (R475). -/
def spdmCodes : List Byte := [0x84, 0xE1, 0xE3, 0x81, 0x82, 0x83, 0xE0]

/-- A request of another code, as for key exchange and sessions, is refused as unsupported (R475). -/
def State.spdmOther (s : State) (request : List Byte) : Res :=
  let code := request.getD 1 0
  if spdmCodes.contains code then notNow "SPDM" else spdm "SPDM" request (fun _ => spdmError 0x07 code) s

/-! ### Monitoring (R462, R476) -/

/-- The suspect mask of a die. -/
def State.suspects (s : State) (d : Nat) : Nat :=
  (List.range 16).foldl (fun m c => if (s.cluster (16 * d + c)).suspect then m + 2 ^ c else m) 0

/-- The telemetry page of a compute die, in the order of R462. (DEDUCED, log entry 66: the layout.) -/
def State.telemetryPage (s : State) (d : Nat) : List Byte :=
  let t := (s.die d).telemetry
  ([t.corrections, t.marks, t.tagMiss, t.quarantines, t.flitRetries, t.retrains, t.throttle].foldl
    (fun l w => l ++ leBytes 8 w.toNat) (t.resync.toList.flatMap fun w => leBytes 8 w.toNat)) ++
    leBytes 2 (s.suspects d) ++ leBytes 2 t.temp.toNat

/-- What die 4 adds: the state of the fatal sequencer and the drops of each port. -/
def IoDie.telemetryPage (io : IoDie) : List Byte :=
  [if io.lost then 1 else 0] ++ io.portDrop.toList.flatMap fun w => leBytes 8 w.toNat

/-- PLDM_MONITOR (R462, R476). -/
def execPldmMonitor (d : BitVec 3) (s : State) : Res :=
  if !s.io.managed ∨ 4 < d.toNat then notNow "PLDM_MONITOR"
  else .next (s.mgmtAnswer (if d = 4 then s.io.telemetryPage else s.telemetryPage d.toNat))

end Sys2Proof.Machine
end

