-- ==== Sys2Proof/Machine/Memo.lean ====
section
/-! DEFINITION. The MEMO group of the control core: acquire, release and fence, waiting on memory, the atomics and the
floating-point reductions (R180 to R191). -/
namespace Sys2Proof.Machine

/-- LD.ACQ (R183). -/
def execLdAcq (rd ra : BitVec 5) (obs : BitVec 6) (s : State) : Res := memo s (.ldAcq rd ra obs) rd (s.reg ra) obs .acq
/-- ST.REL (R184): every earlier access of the core has completed (R172). -/
def execStRel (rd ra : BitVec 5) (obs : BitVec 6) (s : State) : Res :=
  memo s (.stRel rd ra obs) rd (s.reg ra) obs (.rel (s.reg rd))
/-- FENCE (R185): every earlier access of the core, and every write that it had acquired, is performed for the mask before any
later access; every earlier access has completed (R172). -/
def execFence (obs : BitVec 6) (s : State) : Res := stepOver (s.release (.core s.cur) obs) 1
/-- WAIT.NE (R186). -/
def execWaitNe (rd ra rb : BitVec 5) (obs : BitVec 6) (s : State) : Res :=
  memo s (.waitNe rd ra rb obs) rd (s.reg ra) obs (.wait 0 (s.reg rb))
/-- WAIT.EQ (R186). -/
def execWaitEq (rd ra rb : BitVec 5) (obs : BitVec 6) (s : State) : Res :=
  memo s (.waitEq rd ra rb obs) rd (s.reg ra) obs (.wait 1 (s.reg rb))
/-- WAIT.GE (R186). -/
def execWaitGe (rd ra rb : BitVec 5) (obs : BitVec 6) (s : State) : Res :=
  memo s (.waitGe rd ra rb obs) rd (s.reg ra) obs (.wait 2 (s.reg rb))
/-- AMO.ADD (R187). -/
def execAmoAdd (rd ra rb : BitVec 5) (obs : BitVec 6) (s : State) : Res :=
  memo s (.amoAdd rd ra rb obs) rd (s.reg ra) obs (.amo 0 (s.reg rb) 0)
/-- AMO.AND (R187). -/
def execAmoAnd (rd ra rb : BitVec 5) (obs : BitVec 6) (s : State) : Res :=
  memo s (.amoAnd rd ra rb obs) rd (s.reg ra) obs (.amo 1 (s.reg rb) 0)
/-- AMO.OR (R187). -/
def execAmoOr (rd ra rb : BitVec 5) (obs : BitVec 6) (s : State) : Res :=
  memo s (.amoOr rd ra rb obs) rd (s.reg ra) obs (.amo 2 (s.reg rb) 0)
/-- AMO.XOR (R187). -/
def execAmoXor (rd ra rb : BitVec 5) (obs : BitVec 6) (s : State) : Res :=
  memo s (.amoXor rd ra rb obs) rd (s.reg ra) obs (.amo 3 (s.reg rb) 0)
/-- AMO.MIN (R187). -/
def execAmoMin (rd ra rb : BitVec 5) (obs : BitVec 6) (s : State) : Res :=
  memo s (.amoMin rd ra rb obs) rd (s.reg ra) obs (.amo 4 (s.reg rb) 0)
/-- AMO.MAX (R187). -/
def execAmoMax (rd ra rb : BitVec 5) (obs : BitVec 6) (s : State) : Res :=
  memo s (.amoMax rd ra rb obs) rd (s.reg ra) obs (.amo 5 (s.reg rb) 0)
/-- AMO.MINU (R187). -/
def execAmoMinu (rd ra rb : BitVec 5) (obs : BitVec 6) (s : State) : Res :=
  memo s (.amoMinu rd ra rb obs) rd (s.reg ra) obs (.amo 6 (s.reg rb) 0)
/-- AMO.MAXU (R187). -/
def execAmoMaxu (rd ra rb : BitVec 5) (obs : BitVec 6) (s : State) : Res :=
  memo s (.amoMaxu rd ra rb obs) rd (s.reg ra) obs (.amo 7 (s.reg rb) 0)
/-- AMO.SWAP (R187). -/
def execAmoSwap (rd ra rb : BitVec 5) (obs : BitVec 6) (s : State) : Res :=
  memo s (.amoSwap rd ra rb obs) rd (s.reg ra) obs (.amo 8 (s.reg rb) 0)
/-- AMO.CAS (R187). -/
def execAmoCas (rd ra rb : BitVec 5) (obs : BitVec 6) (s : State) : Res :=
  memo s (.amoCas rd ra rb obs) rd (s.reg ra) obs (.amo 9 (s.reg rb) (s.reg rd))
/-- FRED.ADD (R190): the rd field is the control. -/
def execFredAdd (ctl ra rb : BitVec 5) (obs : BitVec 6) (s : State) : Res :=
  memo s (.fredAdd ctl ra rb obs) 0 (s.reg ra) obs (.fred 0 ctl (s.reg rb))
/-- FRED.MIN (R190): the rd field is the control. -/
def execFredMin (ctl ra rb : BitVec 5) (obs : BitVec 6) (s : State) : Res :=
  memo s (.fredMin ctl ra rb obs) 0 (s.reg ra) obs (.fred 1 ctl (s.reg rb))
/-- FRED.MAX (R190): the rd field is the control. -/
def execFredMax (ctl ra rb : BitVec 5) (obs : BitVec 6) (s : State) : Res :=
  memo s (.fredMax ctl ra rb obs) 0 (s.reg ra) obs (.fred 2 ctl (s.reg rb))

end Sys2Proof.Machine
end

