-- ==== Sys2Proof/Machine/Siphon.lean ====
section
/-! DEFINITION. The Siphon: expert routing (R354 to R366) and the apportionment of a pool of clusters (R93). Each opcode carries out its whole
step 2 in one iteration. -/
namespace Sys2Proof.Machine

/-! ### Accesses of the Siphon -/

/-- A window whose owner is another die (R355). -/
def foreignBase (P : TileId) (a : Word) : Bool := tagOf a == 0x00 && decide (ownerOf a ≠ dieOf P)

/-- The bases that a Siphon CB uses. -/
def CB.siphonBases (c : CB) : List Word :=
  match c.op.toNat with
  | 0x51 => [c.w1.base, c.w3.base]
  | _ => [c.w0.base, c.w1.base, c.w2.base, c.w3.base]

/-- The next part with the address of `n` bytes at an offset from a base. -/
def Job.spot {β : Type} (j : Job) (s : State) (base : Word) (off : Int) (f : Word → Eio β) : Eio β :=
  let sum : Int := (base.extractLsb' 0 56).toNat + off
  let a := tagged base sum
  if sum < 0 ∨ 2 ^ 56 ≤ sum ∨ spansZero a = false then j.fault s .badaddr a else f a

/-- Bytes at an offset from the base of a window; window 3 is the expert table and has no residency report. -/
def Job.peek (j : Job) (s : State) (win : Nat) (base : Word) (off : Int) (n : Nat) : Eio (List Byte) :=
  j.spot s base off fun a => (j.read s win a n false).then fun s d => .ok s d.raw

/-- Records written one after another at multiples of their size from a base. -/
def Job.pour (j : Job) (win : Nat) (base : Word) : List (Int × List Byte) → State → Eio Unit
  | [], s => .ok s ()
  | (o, l) :: r, s =>
    j.spot s base o fun a => (j.write s win a (Data.of l)).then fun s _ => Job.pour j win base r s

/-- Records of `n` bytes each, read from a base upwards. -/
def Job.table (j : Job) (win : Nat) (base : Word) (n : Nat) : Nat → Nat → State → Eio (List (List Byte))
  | 0, _, s => .ok s []
  | k + 1, i, s =>
    (j.peek s win base ((n * i : Nat) : Int) n).then fun s l =>
    (Job.table j win base n k (i + 1) s).then fun s t => .ok s (l :: t)

/-- Records at rising multiples of `n`. -/
def atSteps (n : Nat) (l : List (List Byte)) : List (Int × List Byte) :=
  (l.zip (List.range l.length)).map fun x => (((n * x.2 : Nat) : Int), x.1)

/-! ### RT.ROUTE (R359, R360) -/

/-- The exact quotient of two values. -/
def Val.div (a b : Val) : Val :=
  match firstNaN [a, b] with
  | some v => v
  | none =>
    match a, b with
    | .inf _, .inf _ => .canon
    | .inf s, b => .inf (s != b.neg)
    | a, .inf t => .fin (a.neg != t) 0 0
    | .fin s m e, .fin t n d =>
      if n = 0 then (if m = 0 then .canon else .inf (s != t))
      else if m = 0 then .fin (s != t) 0 0
      else .sticky (s != t) (m * 2 ^ 192 / n) (e - d - 192) (decide (m * 2 ^ 192 % n = 0))
    | _, _ => .canon

/-- Insertion into a list sorted by an order. -/
def insertBy {α : Type} (lt : α → α → Bool) (x : α) : List α → List α
  | [] => [x]
  | y :: r => if lt x y then x :: y :: r else y :: insertBy lt x r

/-- A list sorted by an order. -/
def sortBy {α : Type} (lt : α → α → Bool) (l : List α) : List α := l.foldr (insertBy lt) []

/-- The bits of a score as FP32 (R359). -/
def scoreBits (f : Byte) (l : List Byte) : Nat :=
  match scalarFmt f with
  | some x => fp32.round (x.read false (leNat l)) Mode.rne 0
  | none => 0

/-- The expert with the best score among those that are left: the highest, then the lowest index. -/
def bestOf : List (Nat × Val) → Option (Nat × Val)
  | [] => none
  | x :: r =>
    match bestOf r with
    | none => if x.2.isNaN then none else some x
    | some y => if x.2.isNaN || x.2.lt y.2 then some y else some x

/-- The first `k` experts in the order of R359. -/
def topChoices : Nat → List (Nat × Val) → List Nat
  | 0, _ => []
  | k + 1, l =>
    match bestOf l with
    | none => []
    | some (e, _) => e :: topChoices k (l.filter fun x => x.1 != e)

/-- The scores of a token. -/
def Job.scoreRow (j : Job) (x : Shape) (t : Nat) : Nat → Nat → State → Eio (List Nat)
  | 0, _, s => .ok s []
  | n + 1, e, s =>
    (j.peek s 0 j.cb.w0.base (x.srow * t + x.sexp * e) (unitOf j.cb.w0.fmt)).then fun s l =>
    (Job.scoreRow j x t n (e + 1) s).then fun s r => .ok s (scoreBits j.cb.w0.fmt l :: r)

/-- One choice of a token: its expert, whether it is kept, and its weight. -/
structure Choice where
  expert : Nat
  kept   : Bool
  weight : Nat
deriving DecidableEq, Repr

/-- The counts of one expert (R358). -/
structure Tally where
  cnt  : Nat
  drop : Nat
  ask  : Nat
deriving DecidableEq, Repr

/-- The weights of a token's choices (R359). -/
def weightsOf (norm : Bool) (row : List Nat) (l : List Nat) : List Nat :=
  let bits := l.map fun e => row.getD e 0
  if !norm then bits
  else
    let m : Mode := { Mode.rne with can := true }
    let u := fp32.round (Val.sum false (bits.map fp32.decode)) m 0
    if u % 2 ^ 31 = 0 then bits.map fun _ => 0x7FC00000
    else bits.map fun b => fp32.round ((fp32.decode b).div (fp32.decode u)) m 0

/-- A token's valid choices, with the counts after them. -/
def Shape.choose (x : Shape) (row : List Nat) (m : KMap Tally) : List Choice × KMap Tally :=
  let l := topChoices x.topk ((List.range x.nexp).zip (row.map fp32.decode))
  (l.zip (weightsOf x.norm row l)).foldl (fun (acc : List Choice × KMap Tally) (c : Nat × Nat) =>
    let t := kget { cnt := 0, drop := 0, ask := 0 } acc.2 c.1
    let kept := !x.capen || decide (t.ask + 1 ≤ x.cap)
    let t : Tally := { cnt := if kept then t.cnt + 1 else t.cnt, drop := if kept then t.drop else t.drop + 1, ask := t.ask + 1 }
    (acc.1 ++ [{ expert := c.1, kept, weight := c.2 }], kset acc.2 c.1 t)) ([], m)

/-- The scores of the tokens from t on. -/
def Job.scoreRows (j : Job) (x : Shape) : Nat → Nat → State → Eio (List (List Nat))
  | 0, _, s => .ok s []
  | n + 1, t, s =>
    (j.scoreRow x t x.nexp 0 s).then fun s row =>
    (Job.scoreRows j x n (t + 1) s).then fun s r => .ok s (row :: r)

/-- The choices of tokens, one after another, with the counts after them. -/
def Shape.chooseAll (x : Shape) : List (List Nat) → KMap Tally → List (List Choice) × KMap Tally
  | [], m => ([], m)
  | row :: r, m =>
    let (l, m) := x.choose row m
    let (ls, m) := Shape.chooseAll x r m
    (l :: ls, m)

/-- The sums of the counts below each place. -/
def offsets : Nat → List Nat → List Nat
  | _, [] => []
  | t, n :: r => t :: offsets (t + n) r

/-- The choice records of the tokens, and the list entries (position and token), with the next free position of each
expert (R359). -/
def placeChoices (k : Nat) : Nat → List (List Choice) → KMap Nat → List (List Byte) × List (Nat × Nat)
  | _, [], _ => ([], [])
  | t, row :: r, fill =>
    let (recs, ents, fill) := row.foldl (fun (acc : List Byte × List (Nat × Nat) × KMap Nat) (c : Choice) =>
      let p := kget 0 acc.2.2 c.expert
      let pos := if c.kept then p else 0xFFFFFFFF
      (acc.1 ++ leBytes 2 c.expert ++ [if c.kept then 1 else 0, 0] ++ leBytes 4 c.weight ++ leBytes 4 pos ++ leBytes 4 0,
       if c.kept then acc.2.1 ++ [(p, t)] else acc.2.1,
       if c.kept then kset acc.2.2 c.expert (p + 1) else acc.2.2)) ([], [], fill)
    let invalid := leBytes 2 0xFFFF ++ [0, 0] ++ leBytes 4 0 ++ leBytes 4 0xFFFFFFFF ++ leBytes 4 0
    let recs := recs ++ (List.replicate (k - row.length) invalid).flatten
    let (a, b) := placeChoices k (t + 1) r fill
    (recs :: a, ents ++ b)

/-- What RT.ROUTE writes: the choice records of each token, the expert records, the list entries by their place, and its result word. -/
structure Routing where
  recs    : List (List Byte)
  experts : List (List Byte)
  lists   : List (Int × List Byte)
  result  : Word
deriving DecidableEq, Repr

/-- The routing of tokens by their scores (R358 to R360). -/
def Shape.routing (x : Shape) (scores : List (List Nat)) : Routing :=
  let (rows, m) := x.chooseAll scores []
  let tally := (List.range x.nexp).map fun e => kget { cnt := 0, drop := 0, ask := 0 } m e
  let offs := offsets 0 (tally.map fun t => t.cnt)
  let fill : KMap Nat := ((List.range x.nexp).zip offs)
  let (recs, ents) := placeChoices x.topk 0 rows fill
  let experts := (tally.zip offs).map fun y =>
    leBytes 4 y.1.cnt ++ leBytes 4 y.2 ++ leBytes 4 y.1.drop ++ leBytes 4 y.1.ask
  let lists := (sortBy (fun x y => decide (x.1 < y.1)) ents).map fun y => (((4 * y.1 : Nat) : Int), leBytes 4 y.2)
  let drops := (tally.map fun t => t.drop).foldl (· + ·) 0
  let invalid := (rows.map fun r => x.topk - r.length).foldl (· + ·) 0
  { recs, experts, lists, result := BitVec.ofNat 32 invalid ++ BitVec.ofNat 32 drops }

/-- Step 2 of RT.ROUTE. -/
def Job.route (j : Job) (x : Shape) (s : State) : Eio Done :=
  (j.scoreRows x j.cb.opb.toNat 0 s).then fun s scores =>
  let r := x.routing scores
  (j.pour 1 j.cb.w1.base (atSteps x.crow r.recs) s).then fun s _ =>
  (j.pour 3 j.cb.w3.base (atSteps 16 r.experts) s).then fun s _ =>
  (j.pour 2 j.cb.w2.base r.lists s).then fun s _ =>
  .ok (j.mod s fun y => { y with result := r.result })
    { out := r.recs.flatten ++ r.lists.flatMap (fun y => y.2) ++ r.experts.flatten, count := 0 }

/-! ### Apportionment (R93, R361) -/

/-- One apportion record: clusters, first pool cluster, pass. -/
structure Share where
  clusters : Nat
  first    : Nat
  pass     : Nat
deriving DecidableEq, Repr

/-- The record of an expert with no tokens (R361). -/
def Share.none : Share := { clusters := 0, first := 0xFFFF, pass := 0xFFFF }

/-- The assignment when the pool holds a cluster for every active expert. -/
def apportionOne (ns : List Nat) (pool total active : Nat) : List Share :=
  let m := pool - active
  let es := (ns.zip (List.range ns.length)).map fun x => (x.2, x.1, m * x.1 / total, m * x.1 % total)
  let left := m - (es.map fun x => x.2.2.1).foldl (· + ·) 0
  let lt (x y : Nat × Nat × Nat × Nat) : Bool :=
    decide (y.2.2.2 < x.2.2.2) || (x.2.2.2 == y.2.2.2 && (decide (y.2.1 < x.2.1) || (x.2.1 == y.2.1 && decide (x.1 < y.1))))
  let winners := ((sortBy lt es).take left).map fun x => x.1
  let as := es.map fun x => (if 0 < x.2.1 then 1 else 0) + x.2.2.1 + (if winners.contains x.1 then 1 else 0)
  (as.zip (offsets 0 as)).map fun x => if x.1 = 0 then Share.none else { clusters := x.1, first := x.2, pass := 0 }

/-- The assignment in several passes. -/
def apportionMany (ns : List Nat) (pool : Nat) : List Share :=
  let es := ((List.range ns.length).zip ns).filter fun x => 0 < x.2
  let order := (sortBy (fun x y => decide (y.2 < x.2) || (x.2 == y.2 && decide (x.1 < y.1))) es).map fun x => x.1
  (List.range ns.length).map fun e =>
    match order.findIdx? fun x => x == e with
    | none => Share.none
    | some i =>
      let mates := (order.drop (i / pool * pool)).take pool
      { clusters := 1, first := (mates.filter fun x => x < e).length, pass := i / pool }

/-- The rule of R93: the records of all experts and the number of passes. -/
def apportion (ns : List Nat) (pool : Nat) : List Share × Nat :=
  let total := ns.foldl (· + ·) 0
  let active := (ns.filter fun n => 0 < n).length
  if total = 0 then (ns.map fun _ => Share.none, 0)
  else if active ≤ pool then (apportionOne ns pool total active, 1)
  else (apportionMany ns pool, (active + pool - 1) / pool)

/-- An apportion record (R358). -/
def Share.bytes (a : Share) : List Byte := leBytes 2 a.clusters ++ leBytes 2 a.first ++ leBytes 2 a.pass ++ leBytes 2 0

/-- Step 2 of RT.APPORT. -/
def Job.apport (j : Job) (x : Shape) (s : State) : Eio Done :=
  (j.table 3 j.cb.w3.base 16 x.nexp 0 s).then fun s t =>
  let (l, passes) := apportion (t.map fun r => fld r 0 4) j.cb.opb.toNat
  let recs := l.map Share.bytes
  (j.pour 1 j.cb.w1.base (atSteps 8 recs) s).then fun s _ =>
  .ok (j.mod s fun y => { y with result := BitVec.ofNat 64 passes }) { out := recs.flatten, count := 0 }

/-! ### RT.LISTS (R362) -/

/-- An apportion record that R93 could not have produced: it is not that of an expert without tokens, and breaks one of the three
conditions of R362. -/
def badShare (pool cnt : Nat) (a : Share) : Bool :=
  !(a == Share.none && cnt == 0) &&
    ((decide (1 ≤ a.clusters) && cnt == 0) || decide (pool < a.first + a.clusters) || decide (1024 ≤ a.pass))

/-- A work record (R358). -/
def workRec (cnt : Nat) (laddr : Word) (e share pass woff : Nat) : List Byte :=
  leBytes 8 cnt ++ leBytes 8 laddr.toNat ++ leBytes 4 e ++ leBytes 2 share ++ leBytes 2 pass ++ leBytes 8 woff

/-- The work records that one expert's shares fill, by index. -/
def shareRecs (base : Word) (pool e cnt off : Nat) (a : Share) : List (Nat × List Byte) :=
  (List.range a.clusters).map fun i =>
    let q := cnt / a.clusters
    let m := cnt % a.clusters
    let start := off + i * q + min i m
    (a.pass * pool + a.first + i,
     workRec (q + if i < m then 1 else 0) (base + BitVec.ofNat 64 (4 * start)) e i a.pass start)

/-- The apportion record that bytes hold. -/
def Share.of (r : List Byte) : Share := { clusters := fld r 0 2, first := fld r 2 2, pass := fld r 4 2 }

/-- How many work records RT.LISTS writes for apportion records and a pool of clusters (R362). -/
def workCount (pool : Nat) (as : List Share) : Nat :=
  max 1 (((as.map fun a => a.pass).filter fun p => p != 0xFFFF).foldl (fun m p => max m (p + 1)) 0) * pool

/-- The work records of RT.LISTS from apportion records, and from the CNT and OFF of the experts (R362). -/
def workRecs (base : Word) (pool : Nat) (as : List Share) (es : List (Nat × Nat)) : List (List Byte) :=
  let filled := ((as.zip es).zip (List.range as.length)).flatMap fun y => shareRecs base pool y.2 y.1.2.1 y.1.2.2 y.1.1
  (List.range (workCount pool as)).map fun i =>
    match filled.reverse.find? fun y => y.1 == i with
    | some y => y.2
    | none => workRec 0 base 0xFFFFFFFF 0 (i / pool) 0

/-- Step 2 of RT.LISTS. -/
def Job.lists (j : Job) (x : Shape) (s : State) : Eio Done :=
  let pool := j.cb.opb.toNat
  (j.table 1 j.cb.w1.base 8 x.nexp 0 s).then fun s t =>
  (j.table 3 j.cb.w3.base 16 x.nexp 0 s).then fun s u =>
  let as := t.map Share.of
  let es := u.map fun r => (fld r 0 4, fld r 4 4)
  match (as.zip es).findIdx? fun y => badShare pool y.2.1 y.1 with
  | some i => j.fault s .cbformat (j.cb.w1.base + BitVec.ofNat 64 (8 * i))
  | none =>
    let r := workCount pool as
    if j.cb.opc.toNat < r then j.fault s .badaddr (j.cb.w2.base + BitVec.ofNat 64 (32 * j.cb.opc.toNat))
    else
      let recs := workRecs j.cb.w0.base pool as es
      (j.pour 2 j.cb.w2.base (atSteps 32 recs) s).then fun s _ =>
      .ok (j.mod s fun y => { y with result := BitVec.ofNat 64 r }) { out := recs.flatten, count := 0 }

/-! ### The opcodes -/

/-- An RT opcode: the Siphon serves the tile, the windows lie on its die, and then its step 2. -/
def siphonStep (P : TileId) (op : Nat) (name : String) (f : Job → Shape → State → Eio Done) (s : State) : Res :=
  let s := s.takeSiphon (dieOf P)
  if !s.unitReady P .rt then notNow name
  else
    bodyStep s P .rt op name fun s j =>
      match j.cb.siphonBases.find? (foreignBase j.P), (s.engine j.P .rt).cur.bind fun c => shapeOf c.shape 1 with
      | some a, _ => j.fault s .badaddr a
      | none, some x => f j x s
      | none, none => j.fault s .cbformat j.addr

/-- RT_ROUTE (R359). -/
def execRtRoute (P : TileId) (s : State) : Res := siphonStep P 0x50 "RT_ROUTE" Job.route s
/-- RT_APPORT (R361). -/
def execRtApport (P : TileId) (s : State) : Res := siphonStep P 0x51 "RT_APPORT" Job.apport s
/-- RT_LISTS (R362). -/
def execRtLists (P : TileId) (s : State) : Res := siphonStep P 0x52 "RT_LISTS" Job.lists s

end Sys2Proof.Machine
end

