-- ==== Sys2Proof/Machine/Dispatch.lean ====
section
/-! DEFINITION. The dispatch of `exec`: one arm for each constructor of `Instr`, each a direct call of its meaning. -/
namespace Sys2Proof.Machine


/-- The meaning of an operation: a next state, a fault or a refusal. -/
def exec (i : Instr) (s : State) : Host.Outcome State Fault Refusal :=
  match i with
  | .add rd ra rb => Sys2Proof.Machine.execAdd rd ra rb s
  | .sub rd ra rb => Sys2Proof.Machine.execSub rd ra rb s
  | .and rd ra rb => Sys2Proof.Machine.execAnd rd ra rb s
  | .or rd ra rb => Sys2Proof.Machine.execOr rd ra rb s
  | .xor rd ra rb => Sys2Proof.Machine.execXor rd ra rb s
  | .andn rd ra rb => Sys2Proof.Machine.execAndn rd ra rb s
  | .sll rd ra rb => Sys2Proof.Machine.execSll rd ra rb s
  | .srl rd ra rb => Sys2Proof.Machine.execSrl rd ra rb s
  | .sra rd ra rb => Sys2Proof.Machine.execSra rd ra rb s
  | .slt rd ra rb => Sys2Proof.Machine.execSlt rd ra rb s
  | .sltu rd ra rb => Sys2Proof.Machine.execSltu rd ra rb s
  | .min rd ra rb => Sys2Proof.Machine.execMin rd ra rb s
  | .max rd ra rb => Sys2Proof.Machine.execMax rd ra rb s
  | .minu rd ra rb => Sys2Proof.Machine.execMinu rd ra rb s
  | .maxu rd ra rb => Sys2Proof.Machine.execMaxu rd ra rb s
  | .mul rd ra rb => Sys2Proof.Machine.execMul rd ra rb s
  | .mulh rd ra rb => Sys2Proof.Machine.execMulh rd ra rb s
  | .mulhu rd ra rb => Sys2Proof.Machine.execMulhu rd ra rb s
  | .div rd ra rb => Sys2Proof.Machine.execDiv rd ra rb s
  | .divu rd ra rb => Sys2Proof.Machine.execDivu rd ra rb s
  | .rem rd ra rb => Sys2Proof.Machine.execRem rd ra rb s
  | .remu rd ra rb => Sys2Proof.Machine.execRemu rd ra rb s
  | .clz rd ra => Sys2Proof.Machine.execClz rd ra s
  | .ctz rd ra => Sys2Proof.Machine.execCtz rd ra s
  | .popc rd ra => Sys2Proof.Machine.execPopc rd ra s
  | .bswap rd ra => Sys2Proof.Machine.execBswap rd ra s
  | .addw rd ra rb => Sys2Proof.Machine.execAddw rd ra rb s
  | .subw rd ra rb => Sys2Proof.Machine.execSubw rd ra rb s
  | .mulw rd ra rb => Sys2Proof.Machine.execMulw rd ra rb s
  | .cmovnz rd ra rb => Sys2Proof.Machine.execCmovnz rd ra rb s
  | .cmovz rd ra rb => Sys2Proof.Machine.execCmovz rd ra rb s
  | .addi rd ra imm => Sys2Proof.Machine.execAddi rd ra imm s
  | .andi rd ra imm => Sys2Proof.Machine.execAndi rd ra imm s
  | .ori rd ra imm => Sys2Proof.Machine.execOri rd ra imm s
  | .xori rd ra imm => Sys2Proof.Machine.execXori rd ra imm s
  | .slti rd ra imm => Sys2Proof.Machine.execSlti rd ra imm s
  | .sltiu rd ra imm => Sys2Proof.Machine.execSltiu rd ra imm s
  | .slli rd ra n => Sys2Proof.Machine.execSlli rd ra n s
  | .srli rd ra n => Sys2Proof.Machine.execSrli rd ra n s
  | .srai rd ra n => Sys2Proof.Machine.execSrai rd ra n s
  | .rori rd ra n => Sys2Proof.Machine.execRori rd ra n s
  | .lih rd ra imm => Sys2Proof.Machine.execLih rd ra imm s
  | .adpc rd imm => Sys2Proof.Machine.execAdpc rd imm s
  | .xtz rd ra w p => Sys2Proof.Machine.execXtz rd ra w p s
  | .xts rd ra w p => Sys2Proof.Machine.execXts rd ra w p s
  | .ins rd ra w p => Sys2Proof.Machine.execIns rd ra w p s
  | .lea rd ra rb x => Sys2Proof.Machine.execLea rd ra rb x s
  | .madd rd ra rb rc => Sys2Proof.Machine.execMadd rd ra rb rc s
  | .ldb rd ra imm => Sys2Proof.Machine.execLdb rd ra imm s
  | .ldbu rd ra imm => Sys2Proof.Machine.execLdbu rd ra imm s
  | .ldh rd ra imm => Sys2Proof.Machine.execLdh rd ra imm s
  | .ldhu rd ra imm => Sys2Proof.Machine.execLdhu rd ra imm s
  | .ldw rd ra imm => Sys2Proof.Machine.execLdw rd ra imm s
  | .ldwu rd ra imm => Sys2Proof.Machine.execLdwu rd ra imm s
  | .ldd rd ra imm => Sys2Proof.Machine.execLdd rd ra imm s
  | .stb rd ra imm => Sys2Proof.Machine.execStb rd ra imm s
  | .sth rd ra imm => Sys2Proof.Machine.execSth rd ra imm s
  | .stw rd ra imm => Sys2Proof.Machine.execStw rd ra imm s
  | .std rd ra imm => Sys2Proof.Machine.execStd rd ra imm s
  | .ldAcq rd ra obs => Sys2Proof.Machine.execLdAcq rd ra obs s
  | .stRel rd ra obs => Sys2Proof.Machine.execStRel rd ra obs s
  | .fence obs => Sys2Proof.Machine.execFence obs s
  | .waitNe rd ra rb obs => Sys2Proof.Machine.execWaitNe rd ra rb obs s
  | .waitEq rd ra rb obs => Sys2Proof.Machine.execWaitEq rd ra rb obs s
  | .waitGe rd ra rb obs => Sys2Proof.Machine.execWaitGe rd ra rb obs s
  | .amoAdd rd ra rb obs => Sys2Proof.Machine.execAmoAdd rd ra rb obs s
  | .amoAnd rd ra rb obs => Sys2Proof.Machine.execAmoAnd rd ra rb obs s
  | .amoOr rd ra rb obs => Sys2Proof.Machine.execAmoOr rd ra rb obs s
  | .amoXor rd ra rb obs => Sys2Proof.Machine.execAmoXor rd ra rb obs s
  | .amoMin rd ra rb obs => Sys2Proof.Machine.execAmoMin rd ra rb obs s
  | .amoMax rd ra rb obs => Sys2Proof.Machine.execAmoMax rd ra rb obs s
  | .amoMinu rd ra rb obs => Sys2Proof.Machine.execAmoMinu rd ra rb obs s
  | .amoMaxu rd ra rb obs => Sys2Proof.Machine.execAmoMaxu rd ra rb obs s
  | .amoSwap rd ra rb obs => Sys2Proof.Machine.execAmoSwap rd ra rb obs s
  | .amoCas rd ra rb obs => Sys2Proof.Machine.execAmoCas rd ra rb obs s
  | .fredAdd ctl ra rb obs => Sys2Proof.Machine.execFredAdd ctl ra rb obs s
  | .fredMin ctl ra rb obs => Sys2Proof.Machine.execFredMin ctl ra rb obs s
  | .fredMax ctl ra rb obs => Sys2Proof.Machine.execFredMax ctl ra rb obs s
  | .beq ra rb off => Sys2Proof.Machine.execBeq ra rb off s
  | .bne ra rb off => Sys2Proof.Machine.execBne ra rb off s
  | .blt ra rb off => Sys2Proof.Machine.execBlt ra rb off s
  | .bge ra rb off => Sys2Proof.Machine.execBge ra rb off s
  | .bltu ra rb off => Sys2Proof.Machine.execBltu ra rb off s
  | .bgeu ra rb off => Sys2Proof.Machine.execBgeu ra rb off s
  | .jal rd off => Sys2Proof.Machine.execJal rd off s
  | .jalr rd ra imm => Sys2Proof.Machine.execJalr rd ra imm s
  | .semdef ra n => Sys2Proof.Machine.execSemdef ra n s
  | .semp rd ra n => Sys2Proof.Machine.execSemp rd ra n s
  | .semv ra rb n => Sys2Proof.Machine.execSemv ra rb n s
  | .semtry rd ra n => Sys2Proof.Machine.execSemtry rd ra n s
  | .semrd rd n => Sys2Proof.Machine.execSemrd rd n s
  | .semset ra n => Sys2Proof.Machine.execSemset ra n s
  | .bardef ra n => Sys2Proof.Machine.execBardef ra n s
  | .bara rd n => Sys2Proof.Machine.execBara rd n s
  | .barw rd n => Sys2Proof.Machine.execBarw rd n s
  | .baraw rd n => Sys2Proof.Machine.execBaraw rd n s
  | .chain rd ra e => Sys2Proof.Machine.execChain rd ra e s
  | .chwait rd ra e => Sys2Proof.Machine.execChwait rd ra e s
  | .chstat rd e => Sys2Proof.Machine.execChstat rd e s
  | .chkill rd ra e => Sys2Proof.Machine.execChkill rd ra e s
  | .gcfg rd ra x => Sys2Proof.Machine.execGcfg rd ra x s
  | .mxlease rd ra y q => Sys2Proof.Machine.execMxlease rd ra y q s
  | .chselProbe rd ra => Sys2Proof.Machine.execChselProbe rd ra s
  | .chselCur rd => Sys2Proof.Machine.execChselCur rd s
  | .chselAdv rd => Sys2Proof.Machine.execChselAdv rd s
  | .pgreq rd ra => Sys2Proof.Machine.execPgreq rd ra s
  | .resq rd ra => Sys2Proof.Machine.execResq rd ra s
  | .pkrw rd ra => Sys2Proof.Machine.execPkrw rd ra s
  | .pkrr rd => Sys2Proof.Machine.execPkrr rd s
  | .rply => Sys2Proof.Machine.execRply s
  | .tlbinv ra rb x => Sys2Proof.Machine.execTlbinv ra rb x s
  | .rdtime rd => Sys2Proof.Machine.execRdtime rd s
  | .rdrcc rd => Sys2Proof.Machine.execRdrcc rd s
  | .waitt rd ra t => Sys2Proof.Machine.execWaitt rd ra t s
  | .rdtick rd => Sys2Proof.Machine.execRdtick rd s
  | .mfs rd x => Sys2Proof.Machine.execMfs rd x s
  | .mts ra x => Sys2Proof.Machine.execMts ra x s
  | .trap x => Sys2Proof.Machine.execTrap x s
  | .svc x => Sys2Proof.Machine.execSvc x s
  | .tret => Sys2Proof.Machine.execTret s
  | .idle => Sys2Proof.Machine.execIdle s
  | .brk x => Sys2Proof.Machine.execBrk x s
  | .halt => Sys2Proof.Machine.execHalt s
  | .rdid rd x => Sys2Proof.Machine.execRdid rd x s
  | .illegalEncoding w => Sys2Proof.Machine.execIllegalEncoding w s
  | .instructionFetch => Sys2Proof.Machine.execInstructionFetch s
  | .memoryReply P => Sys2Proof.Machine.execMemoryReply P s
  | .waitForChange P => Sys2Proof.Machine.execWaitForChange P s
  | .waitTimeout P => Sys2Proof.Machine.execWaitTimeout P s
  | .waittTarget P => Sys2Proof.Machine.execWaittTarget P s
  | .idleWake P => Sys2Proof.Machine.execIdleWake P s
  | .idleTimeout P => Sys2Proof.Machine.execIdleTimeout P s
  | .cbNop P e => Sys2Proof.Machine.execCbNop P e s
  | .cbMode P e => Sys2Proof.Machine.execCbMode P e s
  | .patch P e => Sys2Proof.Machine.execPatch P e s
  | .crys P e => Sys2Proof.Machine.execCrys P e s
  | .ldCopy P => Sys2Proof.Machine.execLdCopy P s
  | .ldCvt P => Sys2Proof.Machine.execLdCvt P s
  | .ldAlign P => Sys2Proof.Machine.execLdAlign P s
  | .ldGather P => Sys2Proof.Machine.execLdGather P s
  | .ldConv P => Sys2Proof.Machine.execLdConv P s
  | .ldFill P => Sys2Proof.Machine.execLdFill P s
  | .stCopy P => Sys2Proof.Machine.execStCopy P s
  | .stCvt P => Sys2Proof.Machine.execStCvt P s
  | .stScat P => Sys2Proof.Machine.execStScat P s
  | .stRed P => Sys2Proof.Machine.execStRed P s
  | .stMigr P => Sys2Proof.Machine.execStMigr P s
  | .mxWload P => Sys2Proof.Machine.execMxWload P s
  | .mxMma P => Sys2Proof.Machine.execMxMma P s
  | .mxMmb P => Sys2Proof.Machine.execMxMmb P s
  | .mxSacc P => Sys2Proof.Machine.execMxSacc P s
  | .mxAclr P => Sys2Proof.Machine.execMxAclr P s
  | .mxAdrn P => Sys2Proof.Machine.execMxAdrn P s
  | .grCfg P => Sys2Proof.Machine.execGrCfg P s
  | .grRun P => Sys2Proof.Machine.execGrRun P s
  | .grSwap P => Sys2Proof.Machine.execGrSwap P s
  | .rtRoute P => Sys2Proof.Machine.execRtRoute P s
  | .rtApport P => Sys2Proof.Machine.execRtApport P s
  | .rtLists P => Sys2Proof.Machine.execRtLists P s
  | .fadd f o => Sys2Proof.Machine.execFadd f o s
  | .fsub f o => Sys2Proof.Machine.execFsub f o s
  | .fmul f o => Sys2Proof.Machine.execFmul f o s
  | .fma f o => Sys2Proof.Machine.execFma f o s
  | .fms f o => Sys2Proof.Machine.execFms f o s
  | .fnma f o => Sys2Proof.Machine.execFnma f o s
  | .fmax f o => Sys2Proof.Machine.execFmax f o s
  | .fmin f o => Sys2Proof.Machine.execFmin f o s
  | .fmaxa f o => Sys2Proof.Machine.execFmaxa f o s
  | .frcp f o => Sys2Proof.Machine.execFrcp f o s
  | .frsq f o => Sys2Proof.Machine.execFrsq f o s
  | .fex2 f o => Sys2Proof.Machine.execFex2 f o s
  | .flg2 f o => Sys2Proof.Machine.execFlg2 f o s
  | .iadd f o => Sys2Proof.Machine.execIadd f o s
  | .isub f o => Sys2Proof.Machine.execIsub f o s
  | .imul f o => Sys2Proof.Machine.execImul f o s
  | .imad f o => Sys2Proof.Machine.execImad f o s
  | .imulh f o => Sys2Proof.Machine.execImulh f o s
  | .imin f o => Sys2Proof.Machine.execImin f o s
  | .imax f o => Sys2Proof.Machine.execImax f o s
  | .iabs f o => Sys2Proof.Machine.execIabs f o s
  | .dot4 f o => Sys2Proof.Machine.execDot4 f o s
  | .fdot2 f o => Sys2Proof.Machine.execFdot2 f o s
  | .feAnd f o => Sys2Proof.Machine.execFeAnd f o s
  | .feOr f o => Sys2Proof.Machine.execFeOr f o s
  | .feXor f o => Sys2Proof.Machine.execFeXor f o s
  | .shl f o => Sys2Proof.Machine.execShl f o s
  | .shr f o => Sys2Proof.Machine.execShr f o s
  | .sar f o => Sys2Proof.Machine.execSar f o s
  | .fcmp f o => Sys2Proof.Machine.execFcmp f o s
  | .icmp f o => Sys2Proof.Machine.execIcmp f o s
  | .feSel f o => Sys2Proof.Machine.execFeSel f o s
  | .mov f o => Sys2Proof.Machine.execMov f o s
  | .movi f o => Sys2Proof.Machine.execMovi f o s
  | .cvt f o => Sys2Proof.Machine.execCvt f o s
  | .cvtsr f o => Sys2Proof.Machine.execCvtsr f o s
  | .qnt f o => Sys2Proof.Machine.execQnt f o s
  | .expo f o => Sys2Proof.Machine.execExpo f o s
  | .scalb f o => Sys2Proof.Machine.execScalb f o s
  | .feClass f o => Sys2Proof.Machine.execFeClass f o s
  | .plog f o => Sys2Proof.Machine.execPlog f o s
  | .lane f o => Sys2Proof.Machine.execLane f o s
  | .rng f o => Sys2Proof.Machine.execRng f o s
  | .lvl f o => Sys2Proof.Machine.execLvl f o s
  | .send f o => Sys2Proof.Machine.execSend f o s
  | .recv f o => Sys2Proof.Machine.execRecv f o s
  | .feIn f o => Sys2Proof.Machine.execFeIn f o s
  | .feOut f o => Sys2Proof.Machine.execFeOut f o s
  | .red f o => Sys2Proof.Machine.execRed f o s
  | .shuf f o => Sys2Proof.Machine.execShuf f o s
  | .bcst f o => Sys2Proof.Machine.execBcst f o s
  | .accin f o => Sys2Proof.Machine.execAccin f o s
  | .scan f o => Sys2Proof.Machine.execScan f o s
  | .get f o => Sys2Proof.Machine.execGet f o s
  | .put f o => Sys2Proof.Machine.execPut f o s
  | .cbFetch P e => Sys2Proof.Machine.execCbFetch P e s
  | .timedStart P e => Sys2Proof.Machine.execTimedStart P e s
  | .patchList P e => Sys2Proof.Machine.execPatchList P e s
  | .headerSignal P e => Sys2Proof.Machine.execHeaderSignal P e s
  | .semSignal P n c reach => Sys2Proof.Machine.execSemSignal P n c reach s
  | .semWaitGrant P n => Sys2Proof.Machine.execSemWaitGrant P n s
  | .remoteWriteArrival k => Sys2Proof.Machine.execRemoteWriteArrival k s
  | .remoteWriteAck k => Sys2Proof.Machine.execRemoteWriteAck k s
  | .barrierRelease u => Sys2Proof.Machine.execBarrierRelease u s
  | .leaseRequest P => Sys2Proof.Machine.execLeaseRequest P s
  | .leaseEnd g => Sys2Proof.Machine.execLeaseEnd g s
  | .leaseTimeout g => Sys2Proof.Machine.execLeaseTimeout g s
  | .leaseHandover g => Sys2Proof.Machine.execLeaseHandover g s
  | .tailUpdate q => Sys2Proof.Machine.execTailUpdate q s
  | .queueEntry q => Sys2Proof.Machine.execQueueEntry q s
  | .drainComplete q => Sys2Proof.Machine.execDrainComplete q s
  | .cancelComplete q seq => Sys2Proof.Machine.execCancelComplete q seq s
  | .predecessorComplete q seq => Sys2Proof.Machine.execPredecessorComplete q seq s
  | .qcmdEnable q => Sys2Proof.Machine.execQcmdEnable q s
  | .qcmdDisable q => Sys2Proof.Machine.execQcmdDisable q s
  | .qcmdComplete => Sys2Proof.Machine.execQcmdComplete s
  | .supqEnable q => Sys2Proof.Machine.execSupqEnable q s
  | .supqDisable q => Sys2Proof.Machine.execSupqDisable q s
  | .ptpfreqWrite v => Sys2Proof.Machine.execPtpfreqWrite v s
  | .ptpstepWrite v => Sys2Proof.Machine.execPtpstepWrite v s
  | .ptptimeRead high => Sys2Proof.Machine.execPtptimeRead high s
  | .bar0Write off v => Sys2Proof.Machine.execBar0Write off v s
  | .placeTask d => Sys2Proof.Machine.execPlaceTask d s
  | .quantumExpiry t => Sys2Proof.Machine.execQuantumExpiry t s
  | .preemptArrival P => Sys2Proof.Machine.execPreemptArrival P s
  | .tileStopped P => Sys2Proof.Machine.execTileStopped P s
  | .saveComplete t => Sys2Proof.Machine.execSaveComplete t s
  | .loadingComplete t => Sys2Proof.Machine.execLoadingComplete t s
  | .retire t => Sys2Proof.Machine.execRetire t s
  | .taskTeardown t => Sys2Proof.Machine.execTaskTeardown t s
  | .eventRecord P src => Sys2Proof.Machine.execEventRecord P src s
  | .actionResume P src => Sys2Proof.Machine.execActionResume P src s
  | .actionSkip P src => Sys2Proof.Machine.execActionSkip P src s
  | .actionElastic P src => Sys2Proof.Machine.execActionElastic P src s
  | .actionRollback P src => Sys2Proof.Machine.execActionRollback P src s
  | .actionEnd P src ecause => Sys2Proof.Machine.execActionEnd P src ecause s
  | .yield P => Sys2Proof.Machine.execYield P s
  | .galloc P => Sys2Proof.Machine.execGalloc P s
  | .gfree P => Sys2Proof.Machine.execGfree P s
  | .rxring P => Sys2Proof.Machine.execRxring P s
  | .netwin P => Sys2Proof.Machine.execNetwin P s
  | .sliprd P => Sys2Proof.Machine.execSliprd P s
  | .txring P => Sys2Proof.Machine.execTxring P s
  | .unknownService P => Sys2Proof.Machine.execUnknownService P s
  | .refetchRequest P e => Sys2Proof.Machine.execRefetchRequest P e s
  | .rollbackTimeout P e => Sys2Proof.Machine.execRollbackTimeout P e s
  | .slipHoldTimeout t => Sys2Proof.Machine.execSlipHoldTimeout t s
  | .ownerRequest P => Sys2Proof.Machine.execOwnerRequest P s
  | .pageWalk d ctx va kind pkr => Sys2Proof.Machine.execPageWalk d ctx va kind pkr s
  | .reencryptPage d page key => Sys2Proof.Machine.execReencryptPage d page key s
  | .rlcUpdate h k => Sys2Proof.Machine.execRlcUpdate h k s
  | .atsInvalidate ctx va => Sys2Proof.Machine.execAtsInvalidate ctx va s
  | .priResponse ctx va ok => Sys2Proof.Machine.execPriResponse ctx va ok s
  | .hdmAccess write hpa size data => Sys2Proof.Machine.execHdmAccess write hpa size data s
  | .roceInbound r => Sys2Proof.Machine.execRoceInbound r s
  | .frameReceive port frame => Sys2Proof.Machine.execFrameReceive port frame s
  | .civaStore ring => Sys2Proof.Machine.execCivaStore ring s
  | .pivaStore ring => Sys2Proof.Machine.execPivaStore ring s
  | .frameTransmit ring => Sys2Proof.Machine.execFrameTransmit ring s
  | .linkRetrain a b => Sys2Proof.Machine.execLinkRetrain a b s
  | .flitRetry a b => Sys2Proof.Machine.execFlitRetry a b s
  | .voteDisagree u majority => Sys2Proof.Machine.execVoteDisagree u majority s
  | .stateCrcCompare u a b c => Sys2Proof.Machine.execStateCrcCompare u a b c s
  | .resyncComplete u agree => Sys2Proof.Machine.execResyncComplete u agree s
  | .pairCompareTimeout P => Sys2Proof.Machine.execPairCompareTimeout P s
  | .twinEventTimeout t => Sys2Proof.Machine.execTwinEventTimeout t s
  | .replayDivergence t loc => Sys2Proof.Machine.execReplayDivergence t loc s
  | .logAppend ctx => Sys2Proof.Machine.execLogAppend ctx s
  | .rccFreeze c => Sys2Proof.Machine.execRccFreeze c s
  | .rccThaw c => Sys2Proof.Machine.execRccThaw c s
  | .patrolScrub line ok => Sys2Proof.Machine.execPatrolScrub line ok s
  | .thermalStep d up => Sys2Proof.Machine.execThermalStep d up s
  | .thermalTrip d => Sys2Proof.Machine.execThermalTrip d s
  | .coldReset => Sys2Proof.Machine.execColdReset s
  | .warmReset => Sys2Proof.Machine.execWarmReset s
  | .resetStage ok => Sys2Proof.Machine.execResetStage ok s
  | .getVersion => Sys2Proof.Machine.execGetVersion s
  | .getCapabilities => Sys2Proof.Machine.execGetCapabilities s
  | .negotiateAlgorithms algs => Sys2Proof.Machine.execNegotiateAlgorithms algs s
  | .getDigests => Sys2Proof.Machine.execGetDigests s
  | .getCertificate slot off len => Sys2Proof.Machine.execGetCertificate slot off len s
  | .challenge slot nonce => Sys2Proof.Machine.execChallenge slot nonce s
  | .getMeasurements index nonce => Sys2Proof.Machine.execGetMeasurements index nonce s
  | .firmwareUpdate image => Sys2Proof.Machine.execFirmwareUpdate image s
  | .pldmMonitor d => Sys2Proof.Machine.execPldmMonitor d s
  | .pgreqAnswer P ans => Sys2Proof.Machine.execPgreqAnswer P ans s
  | .replyAcknowledgement owner src tag => Sys2Proof.Machine.execReplyAcknowledgement owner src tag s

end Sys2Proof.Machine
end

