-- ==== Sys2Proof/Machine/Fetch.lean ====
section
/-! DEFINITION. How one instruction of a control core is fetched, decoded and run (R112, R121, R151, R167). -/
namespace Sys2Proof.Machine

/-- A word of the current core runs: what it decodes to, once the registers it reads are ready (R151), or the
illegal-instruction trap (R121). -/
def runWord (s : State) (w : InstrWord) : Res :=
  match decode w with
  | .ok i =>
    if s.tick < s.readyFor i then .next (s.modCore s.cur fun c => { c with busy := s.readyFor i }) else exec i s
  | .error _ => exec (.illegalEncoding w) s

/-- The current core issues the word at PC from the instruction cache, or the line at PC is fetched (R167). -/
def issueCore (s : State) : Res :=
  match (s.core s.cur).cached s.pc with
  | some w => runWord s w
  | none => .next (s.fetchLine s.cur)

/-- The outcome with its turn counter at `n`. -/
def Res.turned (r : Res) (n : Nat) : Res :=
  match r with
  | .next s => .next { s with turn := n }
  | r => r

end Sys2Proof.Machine
end

