-- ==== Sys2Proof/Machine/Agenda.lean ====
section
/-! DEFINITION. What happens next in the device: what the agenda names, an instruction of a core, or an operation of another agent
that can happen, each agent in turn. -/
namespace Sys2Proof.Machine

/-! ### The outside world -/

/-- A store by the host to its own memory: a whole line clears its mark, and die 4 no longer holds the line (R48, R250). -/
def State.hostStore (s : State) (va : Word) (data : List Byte) : State :=
  let g := gHost (va.extractLsb' 0 53).toNat
  let s := (s.writePlain g data).outsideRel (.host 0) 0x10 g data.length
  { s with io := { s.io with hostHeld := s.io.hostHeld.filter fun l => l != lineOf g } }

/-- The die lead services a park record (R418): with a frame it makes the page resident there, and writes its entry with V = 1; with none
it refuses the page, and the task that owns the record ends with ECAUSE 0x03, wherever its request has gone. A record whose request has
left the queue goes. -/
def State.parkService (s : State) (d token : Nat) (frame : Option (BitVec 36)) : Res :=
  match kfind (s.die d).parkRecs token with
  | none => notNow "PARK_SERVICE"
  | some r =>
    let queued := (s.die d).park.any fun p => p.token == token
    let s := if queued then s else s.modDie d fun x => { x with parkRecs := kdel x.parkRecs token }
    match frame with
    | some pfn =>
      match s.findPte d r.ctx r.va with
      | (.nonres p, a, _) =>
        let leaf : Word := (p &&& ~~~ (0x3FFFFFFFFC00000 : Word)) ||| (pfn.zeroExtend 64 <<< 22) ||| 1
        .next ((s.putBytes (gDie d a) (leBytes 8 leaf.toNat)).tellHolders d a 0)
      | _ => .next s
    | none =>
      match r.task with
      | some t => .next (if s.io.lost || r.src == 7 then s else s.endDomain t 0x03 r.vt)
      | none => .next s

/-- Prapisen runs the full crystal suite on a suspect cluster that is idle. Three passes in a row clear the mark, unless it is the third
since reset (R439). -/
def State.suiteRun (s : State) (c : Nat) (pass : Bool) : Res :=
  let x := s.cluster c
  let idle := !s.tiles.any fun p => p.1 / 16 == c && p.2.task.isSome
  if x.suspect = false ∨ idle = false ∨ s.io.lost then notNow "SUITE_RUN"
  else
    let n := if pass then x.passes + 1 else 0
    .next (s.modCluster c fun x =>
      if 3 ≤ n ∧ x.marks < 3 then { x with suspect := false, passes := 0 } else { x with passes := n })

/-! ### The passing of time -/

/-- The first operation of a list that can happen. -/
def firstOf (s : State) : List (State → Res) → Option State
  | [] => none
  | f :: r =>
    match f s with
    | .next t => some t
    | _ => firstOf s r

/-- The operations that a quad may be ready for. -/
def quadActs (g : Nat) : List (State → Res) :=
  [execLeaseEnd (BitVec.ofNat 8 g), execLeaseTimeout (BitVec.ofNat 8 g), execLeaseHandover (BitVec.ofNat 8 g)]

/-- The operations of a tile that a tick does not end without, once they can happen: waits that are met or over, timed starts, and
time-outs. -/
def State.tileDue (s : State) (P : TileId) (t : Tile) : List (State → Res) :=
  (t.waiters.map fun w => execSemWaitGrant P w.sem) ++
  (match t.core.run with
   | .waiting _ .time _ => [execWaittTarget P]
   | .waiting _ .idle _ => [execIdleTimeout P]
   | .waiting _ _ _ => [execWaitTimeout P]
   | _ => []) ++
  [Eng.ld, .st, .gr, .mx, .rt].flatMap (fun e =>
    (if (s.engine P e).stage = .timed then [execTimedStart P e] else []) ++
    (if (s.engine P e).block = .refetch then [execRollbackTimeout P e] else [])) ++
  (if s.isPair P then [execPairCompareTimeout P] else [])

/-- The events of cluster c that must reach its arbiter in this tick (R411). -/
def State.recordsDue (s : State) (c : Nat) : List (State → Res) :=
  ((s.arriving c).filter fun x => s.passed (c / 16) x.2 12).map fun x =>
    execEventRecord (BitVec.ofNat 10 (x.1 / 8)) (BitVec.ofNat 3 (x.1 % 8))

/-- The operations that a tick does not end without, once they can happen: those of tiles, events that must reach an arbiter (R411),
leases (R90, R91), barrier releases (R199), thermal throttle steps (R467) and the time-outs of tasks (R420, R437). -/
def State.dueActs (s : State) : List (State → Res) :=
  s.tiles.flatMap (fun p => s.tileDue (BitVec.ofNat 10 p.1) p.2) ++
  s.clusters.flatMap (fun p => s.recordsDue p.1) ++
  [0, 1, 2, 3].flatMap (fun d =>
    if (s.die d).reports.any fun r => s.passed d r.2 12 then [execEventRecord (BitVec.ofNat 10 (256 * d)) 7] else []) ++
  s.quads.flatMap (fun p => quadActs p.1) ++
  [0, 1, 2, 3].flatMap (fun d => [execThermalStep (BitVec.ofNat 2 d) true, execThermalStep (BitVec.ofNat 2 d) false]) ++
  s.tasks.flatMap fun p =>
    if p.2.state = .running then
      [execSlipHoldTimeout p.1, execTwinEventTimeout p.1] ++
      (p.2.bars.filter fun b => b.2.due).map fun b => execBarrierRelease b.1
    else []

/-- Something of a tile waits for a tick. -/
def State.tileWatches (s : State) (P : TileId) (t : Tile) : Bool :=
  (match t.core.run with
   | .waiting _ .time _ => true
   | .waiting _ .idle _ => true
   | .waiting _ _ _ => t.core.wtoTicks != 0
   | _ => false) ||
  [Eng.ld, .st, .gr, .mx, .rt].any (fun e => decide ((s.engine P e).stage = .timed) || decide ((s.engine P e).block = .refetch)) ||
  t.events.any (fun v => !v.recorded) || s.isPair P

/-- Something in the device waits for a tick. -/
def State.watches (s : State) : Bool :=
  s.tiles.any (fun p => s.tileWatches (BitVec.ofNat 10 p.1) p.2) ||
  [0, 1, 2, 3].any (fun d => !(s.die d).reports.isEmpty || (s.die d).past || (s.die d).throttle != 0) ||
  s.quads.any (fun p => match p.2.lease with | .idle => false | .held _ _ _ => p.2.wants != 0 | .switch _ _ => true) ||
  s.tasks.any fun p => p.2.slipSince.isSome

/-- `n` ticks pass, tick by tick while something waits for one: what a tick does not end without comes before the next one. -/
def State.letPass (s : State) (n : Nat) : Res :=
  match (if s.dark then none else firstOf s s.dueActs) with
  | some t => .next { t with agenda := .elapse n :: t.agenda }
  | none =>
    if n = 0 ∨ s.watches = false ∨ s.dark then .next (s.elapse n)
    else .next { s.elapse 1 with agenda := .elapse (n - 1) :: s.agenda }

/-- The tile whose engine or core carries out an operation that is no instruction of a control core. -/
def actor (i : Instr) : Option TileId :=
  match i with
  | .memoryReply P | .waitForChange P | .idleWake P | .cbNop P _ | .cbMode P _ | .patch P _ | .crys P _ | .ldCopy P | .ldCvt P
  | .ldAlign P | .ldGather P | .ldConv P | .ldFill P | .stCopy P | .stCvt P | .stScat P | .stRed P | .stMigr P | .mxWload P
  | .mxMma P | .mxMmb P | .mxSacc P | .mxAclr P | .mxAdrn P | .grCfg P | .grRun P | .grSwap P | .rtRoute P | .rtApport P
  | .rtLists P | .cbFetch P _ | .timedStart P _ | .patchList P _ | .headerSignal P _ | .refetchRequest P _ => some P
  | _ => none

/-- An operation is carried out outside dies 0 to 3: by the host, the board, the management controller or BAR0. -/
def offDie (i : Instr) : Bool :=
  match i with
  | .qcmdEnable _ | .qcmdDisable _ | .qcmdComplete | .supqEnable _ | .supqDisable _ | .ptpfreqWrite _ | .ptpstepWrite _ | .ptptimeRead _
  | .bar0Write _ _ | .atsInvalidate _ _ | .coldReset | .warmReset | .resetStage _ | .getVersion | .getCapabilities
  | .negotiateAlgorithms _ | .getDigests | .getCertificate _ _ _ | .challenge _ _ | .getMeasurements _ _ | .firmwareUpdate _
  | .pldmMonitor _ => true
  | _ => false

/-- An act is one that a package without power on dies 0 to 3 can still meet (R468). -/
def Act.offDie (a : Act) : Bool :=
  match a with
  | .op i => Sys2Proof.Machine.offDie i
  | .elapse _ | .hostStore _ _ | .hostPage _ _ _ _ _ | .fabric _ | .supTable _ _ | .recordMode _ _ | .hdmRange _ | .loader _ _ _
  | .temperature _ _ | .limits _ _ _ | .bar0Read _ | .configRead _ | .flashWrite _ | .spdmOther _ => true
  | _ => false

/-- An operation meets a die that is held in this tick (R467). -/
def State.heldOp (s : State) (i : Instr) : Bool :=
  match actor i with
  | some P => s.heldDie (dieOf P)
  | none => false

/-- An operation on the agenda: it comes unless its die is held in this tick (R467). -/
def State.doOp (s : State) (i : Instr) : Res := if s.heldOp i then notNow "HELD" else exec i s

/-- What the outside world or a free choice does next, with power on dies 0 to 3. -/
def performLit (a : Act) (s : State) : Res :=
  match a with
  | .op i => s.doOp i
  | .elapse n => s.letPass n
  | .issue P => if s.coreRuns P then issueCore { s with cur := P } else notNow "ISSUE"
  | .hostStore va data => .next (s.hostStore va data)
  | .hostPage ctx page present r w =>
    let rest := s.hostPages.filter fun e => !(e.1 == ctx && e.2.1 == page)
    .next { s with hostPages := (ctx, page, present, r, w) :: rest }
  | .peerReply qp psn data =>
    if s.io.outReqs.any fun r => r.qp == qp && r.psn == psn && r.ans.isNone then
      .next { s with io := { s.io with outReqs := s.io.outReqs.map fun r =>
        if r.qp = qp ∧ r.psn = psn ∧ r.ans.isNone then { r with ans := some data } else r } }
    else notNow "PEER_REPLY"
  | .fabric holds => .next { s with holds }
  | .eccMark line => .next (s.mark line)
  | .transferFail line => .next { s with failing := s.failing ++ [line] }
  | .planeParity g pos row grp =>
    .next (s.modPlane g.toNat pos fun x => { x with upset := if x.upset.contains (row, grp) then x.upset else x.upset ++ [(row, grp)] })
  | .contextRoot d ctx v => .next (s.modDie d.toNat fun x => { x with crt := kset x.crt ctx.toNat v })
  | .installKey d slot k =>
    if slot = 0 then notNow "KEY" else .next (s.modDie d.toNat fun x => { x with keys := kset x.keys slot.toNat k })
  | .dieStore d pa data =>
    if (s.die d.toNat).quarantined pa then .next s
    else .next ((s.writePlain (gDie d.toNat pa) data).tellLines d.toNat pa ((pa % 64 + data.length + 63) / 64))
  | .supTable q desc => .next { s with io := { s.io with suptable := kset s.io.suptable q.toNat desc } }
  | .recordMode ctx r =>
    .next { s with io := { s.io with
      recTable := kset s.io.recTable ctx.toNat r, orders := s.io.orders.filter fun x => x.1 != ctx,
      diverged := s.io.diverged.filter fun x => x.1 != ctx } }
  | .hdmRange r => .next { s with io := { s.io with hdm := s.io.hdm ++ [r] } }
  | .loader ctx kimg decls =>
    .next { s with loader := (ctx, kimg, decls) :: s.loader.filter fun e => !(e.1 == ctx && e.2.1 == kimg) }
  | .rply d => .next (s.replay d.toNat)
  | .parkService d token frame => s.parkService d.toNat token frame
  | .alterCounter d page line => .next (s.alterCounter d.toNat page line)
  | .alterTag d lvl c n tag => .next (s.alterTag d.toNat lvl c.toNat n tag)
  | .reinit d lvl c n => if lvl = 3 ∧ 24576 ≤ n then notNow "REINIT" else .next (s.reinit d.toNat lvl.toNat c.toNat n)
  | .rlcParity d k => .next (s.modDie d.toNat fun x => { x with rlc := x.rlc.eraseIdx k })
  | .tlbParity d k => .next (s.modDie d.toNat fun x => { x with tlb := x.tlb.eraseIdx k })
  | .suiteRun c pass => s.suiteRun c.toNat pass
  | .actionPort c w => actionPort c.toNat w s
  | .temperature d v => .next (s.heat d v)
  | .limits d past cool =>
    .next (s.modDie d.toNat fun x =>
      { x with past, coolFrom := if cool then (match x.coolFrom with | some t => some t | none => some s.tick) else none })
  | .bar0Read off => s.bar0Read off
  | .configRead off => s.configRead off
  | .flashWrite image => .next (s.flashWrite image)
  | .spdmOther request => s.spdmOther request

/-- What the outside world or a free choice does next. Without power on dies 0 to 3 only what does not act there (R468). -/
def perform (a : Act) (s : State) : Res := if s.dark && !a.offDie then notNow "DARK" else performLit a s

/-! ### The supervisor firmware (R414, R418) -/

/-- The oldest record of a cluster's queue is consumed with no action, because its source no longer waits. -/
def State.skipRecord (s : State) (c : Nat) : State := s.modCluster c fun x => { x with queue := x.queue.drop 1 }

/-- The service that a number names (R417). -/
def serviceOf (n : Nat) (P : TileId) : State → Res :=
  match n with
  | 0 => execYield P
  | 1 => execGalloc P
  | 2 => execGfree P
  | 3 => execRxring P
  | 4 => execNetwin P
  | 5 => execSliprd P
  | 6 => execTxring P
  | _ => execUnknownService P

/-- What Prapisen does on an event (R414). -/
def State.actOn (s : State) (P : TileId) (src : BitVec 3) (v : Event) : Res :=
  match v.cause with
  | .svc => if v.reply.isNone then serviceOf v.val.toNat P s else execActionSkip P src s
  | .slip => execActionElastic P src s
  | .poison => if src = 0 then execActionEnd P src v.cause.code s else execActionRollback P src s
  | c => execActionEnd P src c.code s

/-- Prapisen serves the oldest record of a cluster's queue (R414). A report, and a record whose source waits no longer, is only consumed.
(DESIGN CHOICE, log entry 30: the firmware acts by itself.) -/
def State.prapisen (s : State) (c : Nat) : Res :=
  match (s.cluster c).queue with
  | [] => notNow "PRAPISEN"
  | r :: _ =>
    if s.io.lost then notNow "PRAPISEN"
    else if r.src = 7 then .next (s.skipRecord c)
    else match s.findSrc r.ptile r.src with
      | none => .next (s.skipRecord c)
      | some (_, _, t) =>
        match t.waitingEvent r.src with
        | some v => if v.seqno = r.seqno then s.actOn r.ptile r.src v else .next (s.skipRecord c)
        | none => .next (s.skipRecord c)

/-- A parked request would not park again: its page has become resident or has lost its mapping, or a TWIN copy's first write
waits for its shadow frame (R418, R436). -/
def State.parkOver (s : State) (d : Nat) (p : Parked) : Bool :=
  match (s.findPte d p.ctx p.va).1 with
  | .nonres _ => false
  | .leaf leaf =>
    let pa := ptePfn leaf * 4096 + p.va.toNat % pageBytes (pteSize leaf)
    let c := (s.die d).ctr (pa / 4096)
    !(pteKey leaf != 0 && c.minor (pa / 64 % 64) == 127 && c.major == BitVec.allOnes 64)
  | _ => true

/-- The die lead of die d issues RPLY once a page that requests wait for has been made resident (R418). -/
def State.dieLead (s : State) (d : Nat) : Res :=
  if !s.io.lost && (s.die d).park.any (s.parkOver d) then .next (s.replay d) else notNow "RPLY"

/-! ### Operations that can happen -/

/-- The row of an opcode (R25). -/
def opRow (op : Byte) (P : TileId) (e : Eng) : State → Res :=
  match op.toNat with
  | 0x01 => execCbNop P e
  | 0x02 => execCbMode P e
  | 0x03 => execPatch P e
  | 0x04 => execCrys P e
  | 0x10 => execLdCopy P
  | 0x11 => execLdCvt P
  | 0x12 => execLdAlign P
  | 0x13 => execLdGather P
  | 0x14 => execLdConv P
  | 0x15 => execLdFill P
  | 0x20 => execStCopy P
  | 0x21 => execStCvt P
  | 0x22 => execStScat P
  | 0x23 => execStRed P
  | 0x24 => execStMigr P
  | 0x30 => execMxWload P
  | 0x31 => execMxMma P
  | 0x32 => execMxMmb P
  | 0x33 => execMxSacc P
  | 0x34 => execMxAclr P
  | 0x35 => execMxAdrn P
  | 0x40 => execGrCfg P
  | 0x41 => execGrRun P
  | 0x42 => execGrSwap P
  | 0x50 => execRtRoute P
  | 0x51 => execRtApport P
  | 0x52 => execRtLists P
  | _ => fun _ => notNow "BODY"

/-- The operations that an engine of a tile may be ready for. -/
def State.engActs (s : State) (P : TileId) (e : Eng) : List (State → Res) :=
  let x := s.engine P e
  (match x.stage, x.cur with
   | .timed, _ => [execTimedStart P e]
   | .body, some f => [opRow f.cb.op P e]
   | .patch, _ => [execPatchList P e]
   | .signal, _ => [execHeaderSignal P e]
   | _, _ => []) ++
  (if x.queue.isEmpty then [] else [execCbFetch P e]) ++
  (if x.refetch.isEmpty then [] else [execRefetchRequest P e]) ++
  (if x.block = .refetch then [execRollbackTimeout P e] else [])

/-- The operations that the core of a tile may be ready for. -/
def State.coreActs (s : State) (P : TileId) : List (State → Res) :=
  match (s.tile P).core.run with
  | .waiting _ .flight _ =>
    [execMemoryReply P, execOwnerRequest P] ++
    (match (s.tile P).task, (s.core P).flight with
     | some t, some f => if s.recMode P = 2 then [execReplayDivergence t f.req.ea] else []
     | _, _ => [])
  | .waiting _ .memChange _ => [execWaitTimeout P, execWaitForChange P]
  | .waiting _ .time _ => [execWaittTarget P]
  | .waiting _ .idle _ => [execIdleWake P, execIdleTimeout P]
  | .waiting _ .sem _ => [execWaitTimeout P]
  | .waiting _ .bar _ => [execWaitTimeout P]
  | .waiting _ .log _ => [execLogAppend (s.who P 0 0).ctx]
  | _ => []

/-- The operations that a tile may be ready for. -/
def State.tileActs (s : State) (P : TileId) : List (State → Res) :=
  let t := s.tile P
  if s.heldDie (dieOf P) then []
  else s.coreActs P ++ [Eng.ld, .st, .gr, .mx, .rt].flatMap (s.engActs P) ++
  (if t.grid.run.isSome then [execGrRun P] else []) ++
  (if (s.engine P .mx).queue.isEmpty then [] else [execLeaseRequest P]) ++
  t.waiters.map (fun w => execSemWaitGrant P w.sem) ++
  (t.events.filter fun v => !v.recorded).map (fun v => execEventRecord P v.src) ++
  (if s.isPair P then [execPairCompareTimeout P] else []) ++
  (match s.taskOf P with
   | some k => if k.state = .saving then [execPreemptArrival P, execTileStopped P] else []
   | none => [])

/-- The operations that a task may be ready for. -/
def taskActs (t : Nat) (k : Task) : List (State → Res) :=
  if k.ending.isSome then [execTaskTeardown t]
  else match k.state with
    | .loading => [execLoadingComplete t]
    | .saving => [execSaveComplete t]
    | .running =>
      [execRetire t, execQuantumExpiry t, execSlipHoldTimeout t, execTwinEventTimeout t] ++
      k.bars.map fun b => execBarrierRelease b.1
    | _ => []

/-- The operations that a queue may be ready for. -/
def queueActs (q : Nat) (x : Queue) : List (State → Res) :=
  let n : BitVec 11 := BitVec.ofNat 11 q
  [execQueueEntry n, execTailUpdate n, execDrainComplete n] ++
  x.entries.flatMap fun e => [execPredecessorComplete n e.seq, execCancelComplete n e.seq]

/-- An operation on a ring whose index software has moved. -/
def ifMoved (r : Ring) (va : Word) (last : BitVec 32) (f : State → Res) (s : State) : Res :=
  if (s.readIndex r.ctx va last).2 = last then notNow "INDEX" else f s

/-- The operations that die 4 may be ready for. -/
def State.ioActs (s : State) : List (State → Res) :=
  [execQcmdComplete, execPlaceTask 0, execPlaceTask 1, execPlaceTask 2, execPlaceTask 3] ++
  (if s.io.stage < 7 then [execResetStage true] else []) ++
  s.io.queues.flatMap (fun p => queueActs p.1 p.2) ++
  s.io.rxRings.map (fun p => ifMoved p.2 p.2.civa p.2.ci (execCivaStore (BitVec.ofNat 8 p.1))) ++
  s.io.txRings.flatMap (fun p =>
    [ifMoved p.2 p.2.piva p.2.pi (execPivaStore (BitVec.ofNat 8 p.1)), execFrameTransmit (BitVec.ofNat 8 p.1)]) ++
  s.resync.map fun u => execResyncComplete u true

/-- The entries of an owner's completed-request table that may be freed: those of tiles (R395). -/
def State.freedActs (s : State) (o : Nat) : List (State → Res) :=
  (s.doneTable o).filterMap fun r =>
    match r.src with
    | .tile _ _ _ => some (execReplyAcknowledgement (BitVec.ofNat 3 o) r.src r.tag)
    | .peer _ _ => none

/-- The messages, parked requests and table entries of a die that may go on. -/
def State.dieActs (s : State) (d : Nat) : List (State → Res) :=
  let x := s.die d
  (List.range x.inbox.length).map (fun k => execRlcUpdate (BitVec.ofNat 2 d) k) ++
  (if x.park.isEmpty then [] else [fun s => s.dieLead d]) ++
  (if x.reports.isEmpty then [] else [execEventRecord (BitVec.ofNat 10 (256 * d)) 7]) ++
  s.freedActs d

/-- The operations that the device may be ready for. -/
def State.acts (s : State) : List (State → Res) :=
  s.tiles.flatMap (fun p => s.tileActs (BitVec.ofNat 10 p.1)) ++
  s.quads.flatMap (fun p => quadActs p.1) ++
  (List.range s.transit.length).flatMap (fun k => [execRemoteWriteArrival k, execRemoteWriteAck k]) ++
  s.clusters.map (fun p => fun s => s.prapisen p.1) ++
  s.tasks.flatMap (fun p => taskActs p.1 p.2) ++
  [0, 1, 2, 3].flatMap s.dieActs ++ s.freedActs 4 ++ s.ioActs

/-- A list turned by n places. -/
def turnList {α : Type} (l : List α) (n : Nat) : List α :=
  l.drop (n % (l.length + 1)) ++ l.take (n % (l.length + 1))

/-- The running core after the present one, in rising order of tiles and round again. -/
def State.nextCore (s : State) : TileId :=
  let runs := (s.tiles.map fun p => (BitVec.ofNat 10 p.1 : TileId)).filter fun P => s.coreRuns P
  match runs.find? fun P => s.cur.toNat < P.toNat with
  | some P => P
  | none => runs.headD s.cur

/-- Another agent acts, or a tick passes when none can and no core runs. -/
def State.others (s : State) : State :=
  match firstOf s (turnList s.acts (s.turn / 2)) with
  | some t => { t with cur := t.nextCore }
  | none => let P := s.nextCore; if s.coreRuns P then { s with cur := P } else s.elapse 1

/-- The next thing that happens with an empty agenda. (DESIGN CHOICE, log entry 1: the order with an empty agenda.) -/
def State.proceed (s : State) : Res :=
  if s.dark then .fault .poweredDown
  else if s.turn % 2 = 0 ∧ s.coreRuns s.cur then (issueCore s).turned (s.turn + 1)
  else .next { s.others with turn := s.turn + 1 }

end Sys2Proof.Machine
end

