-- ==== Sys2Proof/Machine/Load.lean ====
section
/-! DEFINITION. How a program word is loaded from outside the machine for the next step to fetch: page tables, a page, and a
task that runs on the current tile. -/
namespace Sys2Proof.Machine

/-- A kernel image of one virtual tile (R19). -/
def KernelImage.one : KernelImage :=
  { kmode := false, entry := 0, vgrid := 1, sizemax := [BitVec.allOnes 64], safetab := 0, nsafe := 0, shapetab := 0,
    nshape := 0, argb := 0, sizeva := 0 }

/-- A task of one tile in RUNNING. -/
def Task.one (P : TileId) (now : Nat) : Task :=
  { queue := 0, seq := 0, index := 0, compl := 0, tacc := 0, rcb := 0, save := 0, ctx := 0, cls := .bulk, prio := 0,
    fdom := .task, fnode := 0, redun := .none, static := false, debug := false, path := [], tilecap := 1024,
    quantum := 1300000, deadline := 0, image := KernelImage.one, size := 0, home := BitVec.ofNat 2 (dieOf P),
    state := .running, ranOnce := true, order := 0, readyAt := now, placedAt := now,
    tileMap := [(0, (1 : BitVec 6) <<< 5 ++ P)], tileMap1 := [], regions := [],
    phases := [{ phase := 0, cls := 0, ovr := false }], runBase := 0, runSince := now, quantSince := now,
    quantDone := false, rccBase := 0, rccSince := now, rccPrev := 0, slipHold := [], slipSince := none, slipFrom := 0, slips := 0, bars := [],
    ctr := { instr := 0, cbdone := Vector.replicate 5 0, sbytes := 0, leasew := 0, latecnt := 0, latesum := 0,
             preempt := 0, diverg := 0, parity := 0 },
    saved := [], semAdds := [], spentAt := none, tags := [], allocs := [], shadows := [], clock := Clock.zero, compare := [], mismatch := none, recMode := 0, ending := none, endTick := 0 }

/-- The physical address of table `lvl` of the loader's page tables. -/
def loadTable (lvl : Nat) : Nat := 0x100000 + 0x1000 * lvl
/-- The physical address of the loader's page. -/
def loadPage : Nat := 0x110000

/-- The page of a virtual address is mapped by a resident 64 KiB leaf with R and W on die d for a context. -/
def State.mapPage (s : State) (d : Nat) (ctx : BitVec 12) (va : Word) : State :=
  let entry (lvl next : Nat) : State → State := fun s =>
    s.putBytes (gDie d (loadTable lvl + 8 * walkIndex va lvl)) (leBytes 8 next)
  let s := s.modDie d fun x => { x with crt := kset x.crt ctx.toNat (BitVec.ofNat 64 (loadTable 0 + 1)), tlb := [] }
  let s := entry 0 (loadTable 1 / 4096 * 2 ^ 22 + 3 * 2 ^ 20 + 1) s
  let s := entry 1 (loadTable 2 / 4096 * 2 ^ 22 + 3 * 2 ^ 20 + 1) s
  let s := entry 2 (loadTable 3 / 4096 * 2 ^ 22 + 3 * 2 ^ 20 + 1) s
  entry 3 (loadPage / 4096 * 2 ^ 22 + 31) s

/-- The current core runs for a task, with nothing in its instruction cache. -/
def State.runCur (s : State) : State :=
  let P := s.cur
  let pc := s.pc
  let ok := tagOf pc == 0 && decide (ownerOf pc < 4) && pc.extractLsb' 48 5 == 0 && pc.extractLsb' 0 2 == 0
  let s := match s.taskOf P with
    | some _ => s
    | none =>
      ({ s with nextTask := s.nextTask + 1 }.setTask s.nextTask (Task.one P s.tick)).modTile P fun t =>
        { t with task := some s.nextTask }
  s.modTile P fun t =>
    { t with stopped := false,
             core := { t.core with run := .running, flight := none, icache := [], busy := 0, ready := [], pc := if ok then pc else 0 } }

/-- The word stands at PC of the current core, in memory and in the line that the instruction cache holds, and the core
runs and is next to issue. (DESIGN CHOICE, log entry 2: the task and the page that are loaded.) -/
def State.place (s : State) (w : InstrWord) : State :=
  let s := s.runCur
  let d := ownerOf s.pc
  let s := s.mapPage d (s.who s.cur 0 0).ctx s.pc
  let s := s.putBytes (gDie d (loadPage + s.pc.toNat % 65536)) (leBytes 4 w.toNat)
  let s := s.modDie d fun x => { x with powered := true }
  let line := s.bytes (gDie d (loadPage + s.pc.toNat % 65536 / 64 * 64)) 64
  let s := s.modCore s.cur fun c => { c with icache := [(c.pc.toNat / 64, line)] }
  { s with agenda := [], turn := 0 }

end Sys2Proof.Machine
end

