-- ==== Sys2Proof/Machine/Step.lean ====
section
/-! DEFINITION. One step of the device, and how a program word comes to stand where the next step fetches. -/
namespace Sys2Proof.Machine

/-- One step: what the agenda names first, or what happens next of itself. -/
def step (s : State) : Host.Outcome State Fault Refusal :=
  match s.agenda with
  | a :: rest => perform a { s with agenda := rest }
  | [] => s.proceed

/-- The state with an instruction's word where the next step fetches: the current core runs for a task, and its page at
PC is mapped and holds the word. -/
def State.withFetchWord (s : State) (_nbits w : Nat) : State := s.place (BitVec.ofNat 32 w)

end Sys2Proof.Machine
end

