-- ==== Sys2Proof/Safety.lean ====
section
/-! DEFINITION. The terms in which statements about the machine are made: what a step leaves alone, what it means that an
instruction completes, and which steps are safe. -/
namespace Sys2Proof.Machine

/-! ### What stays as it was -/

/-- Every byte of every memory of the device reads as before, and every poison mark is as before. -/
def SameMemory (s t : State) : Prop := (∀ a, memGet t.mem a = memGet s.mem a) ∧ t.poison = s.poison

/-- Every byte outside the `n` bytes from global address `g` on reads as before. -/
def SameBytesOutside (g n : Nat) (s t : State) : Prop := ∀ a, (a < g ∨ g + n ≤ a) → memGet t.mem a = memGet s.mem a

/-- Every tile but P is as before. -/
def SameOtherTiles (P : TileId) (s t : State) : Prop := ∀ Q, Q ≠ P → t.tile Q = s.tile Q

/-- Nothing differs but the tiles: memories, poison marks, dies, quads, clusters, tasks, die 4 and time are as before. -/
def SameDevice (s t : State) : Prop := SameMemory s t ∧ { t with tiles := s.tiles } = s

/-- Nothing differs but the core of tile P. -/
def OnlyCore (P : TileId) (s t : State) : Prop :=
  SameDevice s t ∧ SameOtherTiles P s t ∧ t.tile P = { s.tile P with core := t.core P }

/-- Nothing differs but tile P. -/
def OnlyTile (P : TileId) (s t : State) : Prop := SameDevice s t ∧ SameOtherTiles P s t

/-! ### How an instruction of a core ends -/

/-- Of core P nothing differs but its general registers, PC, its progress (run state, pending BARAW, completed
instructions) and the ticks at which it may issue and its results are ready: no system register of R95, no tag, no request
in flight, no cached line. It goes on at `next`. -/
def GoesOn (P : TileId) (next : Word) (s t : State) : Prop :=
  t.core P = { s.core P with
    regs := (t.core P).regs, pc := next, run := .running, barw := false, instrs := (s.core P).instrs + 1,
    busy := (t.core P).busy, ready := (t.core P).ready }

/-- As `GoesOn`, for an instruction whose request to memory has completed: the core has no request in flight and keeps no
tag. -/
def LandsAt (P : TileId) (next : Word) (s t : State) : Prop :=
  t.core P = { s.core P with
    regs := (t.core P).regs, pc := next, run := .running, barw := false, instrs := (s.core P).instrs + 1,
    busy := (t.core P).busy, ready := (t.core P).ready, flight := none, atomTag := none }

/-- The general registers of core P are as before but for `rd`, which holds `v`. s0 reads as zero whatever is written to it
(R94). -/
def RegsAre (P : TileId) (rd : BitVec 5) (v : Word) (s t : State) : Prop :=
  ∀ r, (t.core P).rd r = if r = 0 then 0 else if r = rd then v else (s.core P).rd r

/-- The general registers of core P are as before. -/
def SameRegs (P : TileId) (s t : State) : Prop := ∀ r, (t.core P).rd r = (s.core P).rd r

/-- The whole effect of an instruction that writes one general register: `rd` holds `v`, the core goes on at PC + 4, and
nothing else differs. -/
def WritesOnly (rd : BitVec 5) (v : Word) (s t : State) : Prop :=
  OnlyCore s.cur s t ∧ GoesOn s.cur (s.pc + 4) s t ∧ RegsAre s.cur rd v s t

/-- The whole effect of an instruction that only transfers control: the core goes on at `next`. -/
def JumpsOnly (next : Word) (s t : State) : Prop :=
  OnlyCore s.cur s t ∧ GoesOn s.cur next s t ∧ SameRegs s.cur s t

/-- The event that core P raises for the supervisor (R409): its cause, its value, and the PC as its place. -/
def coreEvent (s : State) (P : TileId) (c : Cause) (val : Word) : Event :=
  { src := 0, cause := c, val, loc := (s.core P).pc, since := s.tick, recorded := false, ptile := P, seqno := 0,
    action := 0, reply := none }

/-- Core P has raised a cause for the supervisor and issues nothing further; the instruction has no other effect: no
register of the core, no byte of memory and no other tile differs (R100, R150, R409). -/
def RaisesOnly (P : TileId) (c : Cause) (val : Word) (s t : State) : Prop :=
  OnlyTile P s t ∧
  t.tile P = { s.tile P with
    events := (s.tile P).events ++ [coreEvent s P c val],
    core := { s.core P with run := .event, flight := none, busy := (t.core P).busy } }

/-- The wait of core P ends: it writes `v` to `rd` and goes on at PC + 4, and nothing else differs. -/
def EndsWait (P : TileId) (rd : BitVec 5) (v : Word) (s t : State) : Prop :=
  OnlyCore P s t ∧ GoesOn P ((s.core P).pc + 4) s t ∧ RegsAre P rd v s t

/-- As `EndsWait`, for an instruction whose request to memory has completed. -/
def EndsRequest (P : TileId) (rd : BitVec 5) (v : Word) (s t : State) : Prop :=
  OnlyCore P s t ∧ LandsAt P ((s.core P).pc + 4) s t ∧ RegsAre P rd v s t

/-- Core P is in the state `r`, and nothing else of it or of the device differs but what it is busy with. -/
def OnlyRun (P : TileId) (r : CoreRun) (s t : State) : Prop :=
  OnlyCore P s t ∧ t.core P = { s.core P with run := r, flight := (t.core P).flight, busy := (t.core P).busy }

/-- Task n, which has not ended before, is to end with a status and a detail (R66, R415). -/
def EndsTask (n : Nat) (status : BitVec 16) (detail : BitVec 32) (t : State) : Prop :=
  ∃ k, t.task? n = some k ∧ k.ending = some (status, detail)

/-- Task n is live: it has neither completed nor been told to end. -/
def State.live (s : State) (n : Nat) : Prop := ∃ k, s.task? n = some k ∧ k.ending = none ∧ k.state ≠ .done

/-! ### Accesses of a core -/

/-- The requester that the current core is. -/
def State.me (s : State) : Who := s.who s.cur 0 (s.core s.cur).pkr

/-- The global address that a generic address names in the tile memory or accumulator quarter that the current core reaches
without translation (R101): tags 0xF0, 0xF2, and 0xF1 through the tile map. -/
def State.localAt (s : State) (ea : Word) : Option Nat :=
  if tagOf ea = 0xF0 then some (gTile s.cur.toNat (offOf ea))
  else if tagOf ea = 0xF2 then some (gAcc s.cur.toNat (ea.extractLsb' 0 16).toNat)
  else if tagOf ea = 0xF1 then (s.mapTile s.cur (vtOf ea)).map fun Q => gTile Q.toNat (offOf ea)
  else none

/-- A request to `ea` leaves the current core at once: the fabric holds nothing back, and no compare buffer of a PAIR task
stands in its way (R434). -/
def State.sends (s : State) (ea : Word) : Prop :=
  s.holds = false ∧ (s.outbound s.cur ea = true → s.isPair s.cur = false)

/-- No bound byte-mode region of the tile that `ea` names has a byte among the `n` bytes there (R38). -/
def State.outsideByteRegions (s : State) (ea : Word) (n : Nat) : Prop :=
  ∀ Q, s.tileAt s.cur ea = some Q → ∀ (r : Fin 32) (g : Region), (s.tile Q).regions[r] = some g → g.desc.byteMode = true →
    offOf ea + n ≤ g.desc.base.toNat ∨ g.desc.base.toNat + g.desc.slotb.toNat * g.desc.nslot.toNat ≤ offOf ea

/-- The loads of R169 with their sizes and whether they extend the sign. -/
def loadForms (rd ra : BitVec 5) (imm : BitVec 16) : List (Instr × Nat × Bool) :=
  [(.ldb rd ra imm, 1, true), (.ldbu rd ra imm, 1, false), (.ldh rd ra imm, 2, true), (.ldhu rd ra imm, 2, false),
   (.ldw rd ra imm, 4, true), (.ldwu rd ra imm, 4, false), (.ldd rd ra imm, 8, false)]

/-- The stores of R169 with their sizes. -/
def storeForms (rd ra : BitVec 5) (imm : BitVec 16) : List (Instr × Nat) :=
  [(.stb rd ra imm, 1), (.sth rd ra imm, 2), (.stw rd ra imm, 4), (.std rd ra imm, 8)]

/-- The waits of R186 with their conditions on the value read and the operand. -/
def waitForms (rd ra rb : BitVec 5) (obs : BitVec 6) : List (Instr × (Word → Word → Prop)) :=
  [(.waitNe rd ra rb obs, fun v b => v ≠ b), (.waitEq rd ra rb obs, fun v b => v = b),
   (.waitGe rd ra rb obs, fun v b => 0 ≤ (v - b).toInt)]

/-- The integer atomics of R187 with the value that each stores, from the value at the owner, s[rb] and s[rd] before. -/
def amoForms (rd ra rb : BitVec 5) (obs : BitVec 6) : List (Instr × (Word → Word → Word → Word)) :=
  [(.amoAdd rd ra rb obs, fun x b _ => x + b), (.amoAnd rd ra rb obs, fun x b _ => x &&& b),
   (.amoOr rd ra rb obs, fun x b _ => x ||| b), (.amoXor rd ra rb obs, fun x b _ => x ^^^ b),
   (.amoMin rd ra rb obs, fun x b _ => if x.toInt ≤ b.toInt then x else b),
   (.amoMax rd ra rb obs, fun x b _ => if b.toInt ≤ x.toInt then x else b),
   (.amoMinu rd ra rb obs, fun x b _ => if x.toNat ≤ b.toNat then x else b),
   (.amoMaxu rd ra rb obs, fun x b _ => if b.toNat ≤ x.toNat then x else b),
   (.amoSwap rd ra rb obs, fun _ b _ => b), (.amoCas rd ra rb obs, fun x b d => if x = d then b else x)]

/-- The floating-point reductions of R190 with their operations. -/
def fredForms (ctl ra rb : BitVec 5) (obs : BitVec 6) : List (Instr × BitVec 2) :=
  [(.fredAdd ctl ra rb obs, 0), (.fredMin ctl ra rb obs, 1), (.fredMax ctl ra rb obs, 2)]

/-- The operations of the MEMO group that access memory, with the bytes of each (R180). -/
def memoForms (rd ra rb : BitVec 5) (obs : BitVec 6) : List (Instr × Nat) :=
  [(.ldAcq rd ra obs, 8), (.stRel rd ra obs, 8)] ++ (waitForms rd ra rb obs).map (fun f => (f.1, 8)) ++
  (amoForms rd ra rb obs).map (fun f => (f.1, 8)) ++ (fredForms rd ra rb obs).map fun f => (f.1, fredBytes rd)

/-- The current core has no tag to use again and its source no entry in the owner's table, and not 4,096 writes on their way to it, so that
a request of it is applied (R188, R394, R395). -/
def State.freshSource (s : State) (ea : Word) : Prop :=
  (s.core s.cur).atomTag = none ∧ (∀ r ∈ s.doneTable (s.ownerIx s.cur ea), r.src ≠ s.srcOf s.cur) ∧ s.tagsFull s.cur ea = false

/-- The state in which a request of the current core to `ea` leaves it: one that is applied once, an atomic or a FRED, or that crosses a
die-to-die link has taken a tag (R188, R394). -/
def State.tagged (s : State) (ea : Word) (once : Bool) : State :=
  if once = true ∨ (s.crosses s.cur ea = true ∧ (s.tile s.cur).trailing = false) then (s.takeTag s.cur).1 else s

/-- An access of the current core reaches `n` bytes from global address `g` on with no encryption, wherever their owner is; `u` is what
the translation leaves, which sets bits of a page-table entry and fills the TLB, and differs in nothing else. -/
def State.finds (s : State) (ea : Word) (kind : AccKind) (zf : Bool) (n g : Nat) (u : State) : Prop :=
  g % n = 0 ∧ ((∃ k, s.locate s.me ea kind zf = (u, .plain g, k)) ∨
    ∃ k d pa leaf, s.locate s.me ea kind zf = (u, .die d pa leaf, k) ∧ g = gDie d pa ∧ pteKey leaf = 0 ∧
      (u.die d).quarantined pa = false)

/-- No tile but P differs, unless that a write to `ea` has woken the tile that it reached (R217). -/
def MayWake (P : TileId) (ea : Word) (s t : State) : Prop :=
  ∀ Q, Q ≠ P → t.tile Q = s.tile Q ∨
    (tagOf ea = 0xF1 ∧ s.mapTile P (vtOf ea) = some Q ∧ t.tile Q = { s.tile Q with wake := true })

/-- An access of the current core has been applied in the state `u`, and its instruction goes on at PC + 4 with `v` in `rd`: no byte of
memory, no poison mark, no other register and no other tile differs beyond that. -/
def Applied (ea : Word) (rd : BitVec 5) (v : Word) (u t : State) : Prop :=
  SameMemory u t ∧ LandsAt u.cur (u.pc + 4) u t ∧ RegsAre u.cur rd v u t ∧ MayWake u.cur ea u t

/-- An access has stored the low `n` bytes of `v` from `g` on: every other byte and every poison mark is as in `u`. -/
def Stored (g n v : Nat) (u t : State) : Prop :=
  t.num g n = v % 2 ^ (8 * n) ∧ SameBytesOutside g n u t ∧ t.poison = u.poison

/-- After an acquire of the current core from a mask that has read the location at global address `g` (R379): its later loads must see
what the releases that it synchronises with carry. An empty mask orders nothing. -/
def State.acquired (s : State) (obs : BitVec 6) (g : Nat) : State := if obs = 0 then s else s.acquireAt (.core s.cur) obs g

/-- The effect of a store of a core: the `n` bytes at `g` hold `v`, every other byte of memory and every poison mark is as
before, and the core goes on at PC + 4 with its general registers as before but for `rd`, which holds `x`. -/
def StoresAt (g n v : Nat) (rd : BitVec 5) (x : Word) (s t : State) : Prop :=
  t.num g n = v ∧ SameBytesOutside g n s t ∧ t.poison = s.poison ∧
  LandsAt s.cur (s.pc + 4) s t ∧ RegsAre s.cur rd x s t ∧ SameOtherTiles s.cur s t

/-- The whole effect of a load of `v`: `rd` and PC of the core, and nothing else. -/
def LoadsOnly (rd : BitVec 5) (v : Word) (s t : State) : Prop :=
  OnlyCore s.cur s t ∧ LandsAt s.cur (s.pc + 4) s t ∧ RegsAre s.cur rd v s t

/-- The current core waits at its instruction `i`, which has not completed: no register has changed (R175). -/
def WaitsAt (i : Instr) (k : WaitKind) (s t : State) : Prop :=
  ∃ since, t.core s.cur = { s.core s.cur with
    run := .waiting i k since, flight := (t.core s.cur).flight, busy := (t.core s.cur).busy }

/-! ### Engines -/

/-- The bytes of a window of a job at its iteration, `extra` bytes on, lie from global address `g` on in the own tile memory or
accumulator quarter. -/
def Job.reaches (j : Job) (s : State) (w : Window) (extra : Int) (n g : Nat) : Prop :=
  ∃ a, j.winAddr s w extra n = .ok a ∧
    ((tagOf a = 0xF0 ∧ g = gTile j.P.toNat (offOf a)) ∨ (tagOf a = 0xF2 ∧ g = gAcc j.P.toNat (a.extractLsb' 0 16).toNat))

/-- Engine e of tile P is in the loop nest of a CB of opcode `op`, `j`, with no ring slot to ask for or to check and nothing that
waits for a port; its task is not a PAIR. -/
def State.loops (s : State) (P : TileId) (e : Eng) (op : Nat) (j : Job) : Prop :=
  s.inBody P e op = some j ∧ j.mute = false ∧ j.gather = false ∧ s.isPair P = false ∧ (s.engine P e).tail = false ∧
  (s.engine P e).slotOver = false ∧
  (e = .ld → (s.engine P e).partIn.length < 32) ∧
  ((j.cb.rwin = 0xFF ∧ (s.engine P e).ring = none) ∨
    ∃ r, (s.engine P e).ring = some r ∧ j.ringFull s = false ∧ (j.cb.consumes = false ∨ r.checked = true))

/-- Engine e of tile P carries out the last iteration of such a CB, which has no ring, no hazard check and no crystal. No part of a row is
under way, no line is shared with an earlier iteration, and the engine's remote writes are acknowledged. -/
def State.lastStep (s : State) (P : TileId) (e : Eng) (op : Nat) (j : Job) : Prop :=
  s.loops P e op j ∧ j.cb.rwin = 0xFF ∧ j.cb.kat = false ∧ j.cb.hz = false ∧ (s.engine P e).partIn = [] ∧
  (s.engine P e).redo = 0 ∧ (s.engine P e).rowDone = 0 ∧ (s.engine P e).rowIdx = none ∧ (s.engine P e).sending = false ∧
  (s.engine P e).lines = [] ∧ s.unacked P e = false ∧ nextTuple j.cb.bounds j.idx = none

/-- Beyond memory, an engine's work differs only in its own tile, and no general register and no PC differs. -/
def EngineOnly (P : TileId) (s t : State) : Prop :=
  SameOtherTiles P s t ∧ SameRegs P s t ∧ (t.core P).pc = (s.core P).pc

/-- The CB has ended its loop nest with the result word `r` (R44). -/
def EndsBody (P : TileId) (e : Eng) (j : Job) (r : Word) (s t : State) : Prop :=
  (t.engine P e).result = r ∧ (t.engine P e).stage = (if j.cb.pt then .patch else .signal) ∧
  (t.engine P e).cur = (s.engine P e).cur

/-- The last iteration of a CB stores `out` from global address `g` on and ends the loop nest with the result word `r`. -/
def EngineStores (j : Job) (e : Eng) (g : Nat) (out : List Byte) (r : Word) (s t : State) : Prop :=
  t.bytes g out.length = out ∧ SameBytesOutside g out.length s t ∧ EngineOnly j.P s t ∧ EndsBody j.P e j r s t

/-- What an engine finds when it starts an iteration: nothing holds it any more, and no line is shared yet. -/
def Job.fresh (j : Job) (s : State) : State := j.mod s fun x => { x with block := .none, lines := [] }

/-- An engine raises a cause at its CB and is held; nothing else differs. -/
def EngineRaises (j : Job) (c : Cause) (v : Word) (s t : State) : Prop :=
  OnlyTile j.P s t ∧ (t.tile j.P).core = (s.tile j.P).core ∧ (t.engine j.P j.e).block = .event ∧
  (t.tile j.P).events = (s.tile j.P).events ++
    [{ src := engSrc j.e, cause := c, val := v, loc := j.addr, since := s.tick, recorded := false, ptile := j.P, seqno := 0,
       action := 0, reply := none }]

/-- Memory after pieces have been written, one after another. -/
def putAll (m : List Host.Cell) (l : List (Nat × List Byte)) : List Host.Cell := l.foldl (fun m x => memWrite m x.1 x.2) m

/-- The last iteration of a CB writes pieces one after another and ends the loop nest with the result word `r`. -/
def EnginePuts (j : Job) (e : Eng) (l : List (Nat × List Byte)) (r : Word) (s t : State) : Prop :=
  (∀ a, memGet t.mem a = memGet (putAll s.mem l) a) ∧ EngineOnly j.P s t ∧ EndsBody j.P e j r s t

/-- Every read gives what memory holds: no line holds a mark, and no line fails its check on the way. -/
def State.clean (s : State) : Prop := s.failing = [] ∧ s.poison = []

/-- The job at the iteration that comes `n` after its present one, if there is one (R276). -/
def Job.after (j : Job) : Nat → Option Job
  | 0 => some j
  | n + 1 => (Job.after j n).bind fun k => (nextTuple k.cb.bounds k.idx).map fun i => { k with idx := i }

/-- The windows that a stream CB between memories reads or writes (R296 to R300). -/
def CB.reached (c : CB) : List Window :=
  match c.op.toNat with
  | 0x12 => [c.w0, c.w1, c.w2]
  | 0x13 => [c.w0, c.w1, c.w2]
  | 0x22 => [c.w0, c.w1, c.w2]
  | 0x15 => [c.w1]
  | _ => [c.w0, c.w1]

/-- Every unit that a CB forms has the bytes that its windows give a unit. -/
def CB.wholeUnits (c : CB) : Prop :=
  match c.op.toNat with
  | 0x11 => ∀ m g l, l.length = c.cvtIn → (convertBytes c.w0.fmt c.w1.fmt m g l).1.length = c.cvtOut
  | 0x21 => ∀ m g l, l.length = c.cvtIn → (convertBytes c.w0.fmt c.w1.fmt m g l).1.length = c.cvtOut
  | 0x12 => ∀ l, (alignValues c.w0.fmt l).length = 48
  | 0x13 => (List.replicate (c.parm.extractLsb' 0 16).toNat c.w0.padUnit).flatten.length = c.rowBytes c.w0.fmt
  | 0x14 => c.w0.padUnit.length = unitOf c.w0.fmt
  | 0x15 => c.fillUnit.length = unitOf c.w1.fmt
  | _ => True

/-- An iteration of a stream CB stores pieces, each at a global address, and adds `n` to the count of the result word, where its windows lie
in the own tile memory or accumulator quarter, which hold what they do in `s` (R282, R296 to R300). -/
def Job.moves (j : Job) (s : State) (l : List (Nat × List Byte)) (n : Nat) : Prop :=
  let unit := unitOf j.cb.w0.fmt
  let row := j.cb.rowBytes j.cb.w0.fmt
  let index (w : Window) (c : Nat) : Int := intOf (8 * unitOf w.fmt) true (s.num c (unitOf w.fmt))
  let copies : Prop := ∃ a b, j.reaches s j.cb.w0 0 unit a ∧ j.reaches s j.cb.w1 0 unit b ∧ l = [(b, s.bytes a unit)] ∧ n = 1
  let converts : Prop := ∃ a b, j.reaches s j.cb.w0 0 j.cb.cvtIn a ∧ j.reaches s j.cb.w1 0 j.cb.cvtOut b ∧
    l = [(b, (convertBytes j.cb.w0.fmt j.cb.w1.fmt j.mode (j.gen s) (s.bytes a j.cb.cvtIn)).1)] ∧ n = 1
  match j.cb.op.toNat with
  | 0x10 => copies
  | 0x20 => copies
  | 0x11 => converts
  | 0x21 => converts
  | 0x12 => ∃ a b c, j.reaches s j.cb.w0 0 (48 * unit) a ∧ j.reaches s j.cb.w1 0 96 b ∧ j.reaches s j.cb.w2 0 1 c ∧
    (let vs := alignValues j.cb.w0.fmt (s.bytes a (48 * unit))
     l = [(b, vs.flatMap fun v => leBytes 2 (alignElem (alignScale vs) v)), (c, [BitVec.ofNat 8 (alignScale vs)])]) ∧ n = 1
  | 0x13 => ∃ b c, j.reaches s j.cb.w2 0 (unitOf j.cb.w2.fmt) c ∧ j.reaches s j.cb.w1 0 row b ∧
    ((j.cb.inRows (index j.cb.w2 c) = true ∧
        ∃ a, j.reaches s j.cb.w0 (j.cb.rowOff (index j.cb.w2 c)) row a ∧ l = [(b, s.bytes a row)] ∧ n = 0) ∨
      (j.cb.inRows (index j.cb.w2 c) = false ∧ j.cb.opa.getLsbD 3 = true ∧
        l = [(b, (List.replicate (j.cb.parm.extractLsb' 0 16).toNat j.cb.w0.padUnit).flatten)] ∧ n = 1))
  | 0x14 => ∃ b, j.reaches s j.cb.w1 0 unit b ∧
    ((j.convPads = true ∧ l = [(b, j.cb.w0.padUnit)] ∧ n = 1) ∨
      (j.convPads = false ∧
        ∃ a, j.reaches s j.cb.w0 ((List.range 4).foldl (fun (t : Int) (k : Nat) => t + j.convCoord k * j.cb.axisStride k) 0) unit a ∧
          l = [(b, s.bytes a unit)] ∧ n = 0))
  | 0x15 => ∃ b, j.reaches s j.cb.w1 0 (unitOf j.cb.w1.fmt) b ∧ l = [(b, j.cb.fillUnit)] ∧ n = 1
  | 0x22 => 0 < row ∧ ∃ a c, j.reaches s j.cb.w1 0 (unitOf j.cb.w1.fmt) c ∧ j.reaches s j.cb.w0 0 row a ∧
    ((j.cb.inRows (index j.cb.w1 c) = true ∧
        ∃ b, j.reaches s j.cb.w2 (j.cb.rowOff (index j.cb.w1 c)) row b ∧ l = [(b, s.bytes a row)] ∧ n = 0) ∨
      (j.cb.inRows (index j.cb.w1 c) = false ∧ j.cb.opa.getLsbD 3 = true ∧ l = [] ∧ n = 1))
  | _ => False

/-- The lines that an engine's iterations in flight share hold what the own memory holds (R279). -/
def State.linesTrue (s : State) (P : TileId) (e : Eng) : Prop :=
  ∀ l ∈ (s.engine P e).lines, ∀ d, l.got = some d → ∃ g,
    ((tagOf l.line = 0xF0 ∧ g = gTile P.toNat (offOf l.line)) ∨
      (tagOf l.line = 0xF2 ∧ g = gAcc P.toNat (l.line.extractLsb' 0 16).toNat)) ∧
    d = ((s.bytes g 64).map fun b => (b, false), false)

/-- Engine e of tile P carries out some iteration of such a CB between memories, in a ring slot or without one. -/
def State.someStep (s : State) (P : TileId) (e : Eng) (op : Nat) (j : Job) : Prop :=
  s.loops P e op j ∧ j.cb.port = 0 ∧ j.cb.kat = false ∧ j.cb.hz = false ∧ (s.engine P e).partIn = [] ∧
  (s.engine P e).redo = 0 ∧ (s.engine P e).rowDone = 0 ∧ (s.engine P e).rowIdx = none ∧ s.unacked P e = false ∧
  s.linesTrue P e ∧ j.cb.wholeUnits ∧ (op = 0x11 ∨ op = 0x21 → j.mode.rnd ≠ .sr) ∧
  ∀ w ∈ j.cb.reached, tagOf w.base = 0xF0 ∨ tagOf w.base = 0xF2

/-- The step serves the job's iteration and those after it that share its line accesses (R276, R279): memory holds what they store, one after
another, each from what it held before the step; the engine goes on at the next iteration, and after the last of all its loop nest ends. -/
def EngineServes (j : Job) (e : Eng) (s t : State) : Prop :=
  ∃ l : List (List (Nat × List Byte) × Nat), l ≠ [] ∧
    (∀ k x, l[k]? = some x → ∃ i, j.after k = some i ∧ i.moves s x.1 x.2) ∧
    (∀ a, memGet t.mem a = memGet (putAll s.mem (l.flatMap fun x => x.1)) a) ∧
    SameRegs j.P s t ∧ (t.core j.P).pc = (s.core j.P).pc ∧ (j.cb.rwin = 0xFF → SameOtherTiles j.P s t) ∧
    let count := (s.engine j.P e).count + (l.map Prod.snd).sum
    match j.after l.length with
    | some i => (t.engine j.P e).idx = idxVec i.idx ∧ (t.engine j.P e).stage = .body ∧ (t.engine j.P e).count = count ∧
        (t.engine j.P e).cur = (s.engine j.P e).cur
    | none => EndsBody j.P e j (BitVec.ofNat 64 count) s t

/-- `n` bytes from an address on lie in the memory of the tile itself. -/
def ownSpan (a : Word) (n : Nat) : Prop := tagOf a = 0xF0 ∧ spansZero a = true ∧ offOf a + n ≤ 2 ^ 19

/-- Where records at offsets from an address in the memory of tile P lie. -/
def recordsAt (P : TileId) (a : Word) (l : List (Int × List Byte)) : List (Nat × List Byte) :=
  l.map fun x => (gTile P.toNat (offOf a + x.1.toNat), x.2)

/-- Row r of a scale window of a job has its `n` bytes from global address `g` on, in the own tile memory (R315). -/
def Job.scaled (j : Job) (w : ScaleWindow) (r n g : Nat) : Prop :=
  let o : Int := offOf w.base + (if w.kstr = 0 then 0 else w.rowstr.toInt * r)
  ownSpan w.base 0 ∧ 0 ≤ o ∧ o < 2 ^ 19 ∧ o + (if w.kstr = 0 then 1 else n : Nat) ≤ 2 ^ 19 ∧ g = gTile j.P.toNat o.toNat

/-- The scale bytes of a row that lies at `g`: one for the whole tensor, or one for each block (R315). -/
def State.scaleBytes (s : State) (w : ScaleWindow) (n g : Nat) : List Nat :=
  if w.kstr = 0 then List.replicate n (memGet s.mem g).toNat else (s.bytes g n).map BitVec.toNat

/-! ### The grid -/

/-- A slot of family `fam` with opcode `op` issues: GR.CFG accepts it, its iteration of the tile's run has started, and `c` is what
it reads (R326, R330). -/
def State.slotIssues (s : State) (f : FeAt) (o : SlotArgs) (fam : Nat) (op : Byte) (c : FeCtx) : Prop :=
  slotOk fam op o = true ∧ s.feCtx f o = some c

/-- The whole effect of a slot that reads `c`: the run of its tile becomes `r`, the generators of its element `g`. -/
def SlotLeaves (f : FeAt) (c : FeCtx) (r : GridRun) (g : Vector Word 8) (s t : State) : Prop :=
  OnlyTile f.tile s t ∧ t.tile f.tile = { s.tile f.tile with
    grid := { (s.tile f.tile).grid with
      run := some r, fes := (s.tile f.tile).grid.fes.set f.fe.toNat { c.fe with gen := g } f.fe.isLt } }

/-- The run after a slot whose result `v` lands `lat` cycles later in the selected lanes of `d` (R334). -/
def FeCtx.landed (c : FeCtx) (f : FeAt) (fam lat : Nat) (d : Dest) (v : BitVec 256) : GridRun :=
  let x : Landing :=
    { cycle := c.run.cycle + lat - 1, fe := f.fe, dest := d, lanes := c.sel, value := v, rank := 3 * c.run.cycle + fam }
  { c.run with landings := insertLanding x c.run.landings }

/-- A generator after `n` draws (R267). -/
def drawn : Nat → Word → Word
  | 0, g => g
  | n + 1, g => genStep (drawn n g)

/-- In the selected lanes the `n` elements of `w` bits of `v` are those that `h` gives from the lane, the element and the random
word, and under `sr` each element has drawn once from the lane's generator; the other lanes' generators are as before. -/
def FeCtx.formed (c : FeCtx) (sr : Bool) (w n : Nat) (h : Nat → Nat → Nat → Nat) (v : BitVec 256) (g : Vector Word 8) : Prop :=
  ∀ k : Fin 8,
    (c.sel.getLsbD k.val = true → g[k] = (if sr then drawn n c.fe.gen[k] else c.fe.gen[k]) ∧ ∀ i, i < n →
      elemAt w (laneAt v k.val) i =
        h k.val i (genWord (if sr then drawn (i + 1) c.fe.gen[k] else c.fe.gen[k])) % 2 ^ w) ∧
    (c.sel.getLsbD k.val = false → g[k] = c.fe.gen[k])

/-! ### Outcomes of an operation -/

/-- The operation answers a next state of which `p` holds. -/
def Answers (i : Instr) (s : State) (p : State → Prop) : Prop := ∃ t, exec i s = .next t ∧ p t

/-- The instruction writes to `rd` a value of which `p` holds, goes on at PC + 4, and changes nothing else. -/
def Writes (i : Instr) (s : State) (rd : BitVec 5) (p : Word → Prop) : Prop :=
  ∃ v, p v ∧ Answers i s (WritesOnly rd v s)

/-- The instruction changes nothing but the place at which the core goes on. -/
def Jumps (i : Instr) (s : State) (next : Word) : Prop := Answers i s (JumpsOnly next s)

/-- The instruction raises a cause at its core and changes nothing else. -/
def Raises (i : Instr) (s : State) (c : Cause) (val : Word) : Prop := Answers i s (RaisesOnly s.cur c val s)

/-- The word is no instruction, and a core that comes to it raises ILLOP with the word and changes nothing else (R121). -/
def TrapsIllop (w : InstrWord) : Prop :=
  (∃ r, decode w = .error r) ∧ ∀ s, Raises (.illegalEncoding w) s .illop (w.zeroExtend 64)

/-- The operation ends in no fault and no refusal. -/
def Completes (i : Instr) (s : State) : Prop := ∃ t, exec i s = .next t

/-- A step is safe when it ends in no fault and no refusal. -/
def SafeStep (s : State) : Prop := ∃ t, step s = .next t

end Sys2Proof.Machine
end

