-- ==== Sys2Proof/Certificates/Slice0/Obligations.lean ====
section
/-! DEFINITION. The statements that this row sets for the provers. -/
open Sys2Proof Sys2Proof.Machine

/-! ### Encodings, steps, reset and memory -/

/-- Words that the manual writes out (R121, R158, R161 to R163, R166), and words of the other formats written field by field from
the tables of R113 to R120, decode to the instructions that they stand for; three that the manual names trap ILLOP. -/
def Obligations.WordsOfTheTables : Prop :=
  decode 0x04853000 = .ok (.add 4 5 6) ∧ decode 0x08000000 = .ok (.addi 0 0 0) ∧ decode 0x08C0FFFE = .ok (.addi 6 0 0xFFFE) ∧
  decode 0x8085FFFD = .ok (.beq 4 5 0xFFFD) ∧ decode 0x9BE00040 = .ok (.jal 31 64) ∧
  decode 0x70E40200 = .ok (.ldAcq 7 4 0b010000) ∧ decode 0xC0A00110 = .ok (.mfs 5 0x011) ∧
  decode 0x34853007 = .ok (.madd 4 5 6 7) ∧ decode 0x20850003 = .ok (.slli 4 5 3) ∧ decode 0x208500BF = .ok (.srai 4 5 63) ∧
  decode 0x2CC712C8 = .ok (.xts 6 7 11 8) ∧ decode 0x30853003 = .ok (.lea 4 5 6 3) ∧ decode 0x9C1F0000 = .ok (.jalr 0 31 0) ∧
  decode (0b011011#6 ++ 0b00011#5 ++ 0b00100#5 ++ 0b0000000000001000#16) = .ok (.std 3 4 8) ∧
  decode (0b011100#6 ++ 0b00011#5 ++ 0b00100#5 ++ 0b00101#5 ++ 0b111111#6 ++ 0b01111#5) = .ok (.amoCas 3 4 5 0x3F) ∧
  decode (0b101000#6 ++ 0b00011#5 ++ 0b00100#5 ++ 0b00000#5 ++ 0b0111111#7 ++ 0b0001#4) = .ok (.semp 3 4 63) ∧
  decode (0b101001#6 ++ 0b00011#5 ++ 0b00000#5 ++ 0b00000#5 ++ 0b0001111#7 ++ 0b0011#4) = .ok (.baraw 3 15) ∧
  decode (0b101010#6 ++ 0b00011#5 ++ 0b00100#5 ++ 0b00000#5 ++ 0b0000100#7 ++ 0b0000#4) = .ok (.chain 3 4 .rt) ∧
  decode (0b101011#6 ++ 0b00000#5 ++ 0b00100#5 ++ 0b00101#5 ++ 0b0000001#7 ++ 0b0101#4) = .ok (.tlbinv 4 5 1) ∧
  decode (0b101100#6 ++ 0b00011#5 ++ 0b00100#5 ++ 0b00000#5 ++ 0b0000001#7 ++ 0b0010#4) = .ok (.waitt 3 4 1) ∧
  TrapsIllop 0x048507FF ∧ TrapsIllop 0x20000100 ∧ TrapsIllop 0x208501BF

/-- Decoding and encoding agree: for every well-formed instruction that has a word, with every operand at every value, its word
decodes to it; every word that decodes is the word of what it decodes to, which is well-formed; and the 42 bits of a grid slot
are its opcode and its fields (R113 to R120, R124). -/
def Obligations.DecodeAndEncodeAgree : Prop :=
  (∀ (i : Instr) (w : InstrWord), i.wf = true → encode i = some w → decode w = .ok i ∧ decodeTableWord 32 w.toNat = some i) ∧
  (∀ (w : InstrWord) (i : Instr), decode w = .ok i → i.wf = true ∧ encode i = some w) ∧
  (∀ (op : Byte) (o : SlotArgs), slotOf (slotBits op o) = (op, o)) ∧
  (∀ w : BitVec 42, slotBits (slotOf w).1 (slotOf w).2 = w)

/-- A step runs what stands at PC: with nothing on the agenda, at the turn of a core that runs, the four bytes that its instruction
cache holds for PC, little-endian, are decoded; the instruction runs once the registers that it reads are ready, and the core
waits for them otherwise; a word that is no instruction is run as one that traps ILLOP; and a line that the cache does not
hold is fetched (R112, R121, R151, R167). The turn then passes on. An operation at the head of the agenda runs in its place, unless its
die is held in this tick (R467), or dies 0 to 3 have lost power and it is none of those outside them (R468).
The agenda and the turn are the model's own (log entry 1). -/
def Obligations.StepsRunWhatTheyDecode : Prop :=
  (∀ (s : State) (i : Instr) (rest : List Act), s.agenda = .op i :: rest → s.heldOp i = false → (s.dark = false ∨ offDie i = true) →
    step s = exec i { s with agenda := rest }) ∧
  (∀ (s : State), s.agenda = [] → s.dark = false → s.turn % 2 = 0 → s.coreRuns s.cur = true →
    let turned (r : Res) : Res := match r with
      | .next t => .next { t with turn := s.turn + 1 }
      | r => r
    (∀ (l : List Byte) (b0 b1 b2 b3 : Byte), s.pc.extractLsb' 0 2 = 0 →
      kfind (s.core s.cur).icache (s.pc.toNat / 64) = some l → (l.drop (s.pc.toNat % 64)).take 4 = [b0, b1, b2, b3] →
        let w : InstrWord := b3 ++ b2 ++ b1 ++ b0
        (∀ i, decode w = .ok i → s.readyFor i ≤ s.tick → step s = turned (exec i s)) ∧
        (∀ i, decode w = .ok i → s.tick < s.readyFor i → step s = turned (.next (s.modCore s.cur fun c =>
          { c with busy := s.readyFor i }))) ∧
        (∀ r, decode w = .error r → step s = turned (exec (.illegalEncoding w) s))) ∧
    ((s.core s.cur).cached s.pc = none → step s = turned (exec .instructionFetch s)))

/-- The device after reset, where the manual gives a value (R49 to R51, R386, R410, R439, R470): no byte and no mark is left, no
context has a root, no key, no counter, no clock has counted, every queue is DISABLED, DEVSTAT, QTBASE and QCMD read 0, and no
cluster has recorded an event or is suspect. Its memory has the canonical form, and so has every memory that has it after a store,
which reads back.
That host memory holds no byte, and that the TLBs are empty and every core is off, are the model's choices (log entries 12 and 16):
R470 names neither the TLBs nor the cores. -/
def Obligations.ResetState : Prop :=
  let s := State.reset
  Memory.wf s.mem = true ∧ (∀ a, memGet s.mem a = 0) ∧ s.poison = [] ∧
  (∀ d, (s.die d).crt = [] ∧ (s.die d).tlb = [] ∧ (s.die d).keys = [] ∧ (s.die d).ctrs = [] ∧ (s.die d).quarantine = [] ∧
    (∀ j, j < 4 → at4 (s.die d).k j = 0 ∧ at4 (s.die d).a j = 0)) ∧
  (∀ q, (s.queue q).state = .disabled) ∧ s.devstat = 0 ∧ s.io.qtbase = 0 ∧ s.io.qcmd.word = 0 ∧
  (∀ c, (s.cluster c).seqno = 0 ∧ (s.cluster c).queue = [] ∧ (s.cluster c).suspect = false) ∧
  (∀ P, (s.tile P).task = none ∧ (s.core P).run = .off) ∧ s.tasks = [] ∧ s.io.stage = 0 ∧
  ∀ (m : List Host.Cell) (a b : Nat) (v : Byte), Memory.wf m = true →
    Memory.wf (memSet m a v) = true ∧ memGet (memSet m a v) b = if b = a then v else memGet m b

/-- Every step keeps the canonical form of memory: addresses strictly rising, and no listed byte equal to what an unlisted address
reads as, so that equal memories are equal data. The form is the model's own (log entry 12). -/
def Obligations.StepsKeepMemoryCanonical : Prop :=
  ∀ s t : State, Memory.wf s.mem = true → step s = .next t → Memory.wf t.mem = true

/-- s0 reads as zero whatever an instruction writes to it, in every state and for every core (R94), and no instruction whose word names
s0 in its first register field, the field of the destination, changes a general register of the core that runs it. -/
def Obligations.ZeroRegister : Prop :=
  (∀ (s : State) (P : TileId), (s.core P).rd 0 = 0) ∧
  (∀ (s : State) (ra rb : BitVec 5) (imm : BitVec 16),
    Jumps (.add 0 ra rb) s (s.pc + 4) ∧ Jumps (.addi 0 ra imm) s (s.pc + 4) ∧ Jumps (.mul 0 ra rb) s (s.pc + 4) ∧
    Jumps (.lih 0 ra imm) s (s.pc + 4) ∧ Jumps (.pkrr 0) s (s.pc + 4) ∧ Jumps (.semrd 0 0) s (s.pc + 4)) ∧
  (∀ (s t : State) (i : Instr) (w : InstrWord), encode i = some w → w.extractLsb' 21 5 = 0 → (s.core s.cur).run = .running →
    exec i s = .next t → SameRegs s.cur s t)

/-- PKR is changed only by PKRW (R95): every other instruction of a core leaves the PKR of every core as it is, and MTS to PKR
raises ILLOP in every task. -/
def Obligations.OnlyPkrwChangesPkr : Prop :=
  (∀ (s t : State) (i : Instr) (w : InstrWord) (P : TileId), encode i = some w → (∀ rd ra, i ≠ .pkrw rd ra) →
    exec i s = .next t → (t.core P).pkr = (s.core P).pkr) ∧
  (∀ (s : State) (k : Task) (ra : BitVec 5), s.taskOf s.cur = some k → ∀ w, encode (.mts ra 0x020) = some w →
    Raises (.mts ra 0x020) s .illop (w.zeroExtend 64))

/-! ### Scalar instructions of the control core -/

/-- The ALU group and MADD (R154, R155, R163): what each writes to rd, read as the table of R154 reads it; each goes on at PC + 4
and changes nothing else. The four divides compute in every case without a trap: the quotient rounds towards zero, a divisor of
0 gives a quotient of all ones and the dividend as the remainder, and the one signed overflow gives its quotient truncated to 64
bits. Every function code above 30 traps ILLOP, and so does a MADD with a bit set above rc; CMOVNZ and CMOVZ read s[rd] as well. -/
def Obligations.AluOperations : Prop :=
  (∀ (s : State) (rd ra rb : BitVec 5),
    let a := s.reg ra
    let b := s.reg rb
    Writes (.add rd ra rb) s rd (fun v => v.toNat = (a.toNat + b.toNat) % 2 ^ 64) ∧
    Writes (.sub rd ra rb) s rd (fun v => (v.toNat + b.toNat) % 2 ^ 64 = a.toNat) ∧
    Writes (.and rd ra rb) s rd (fun v => ∀ k, v.getLsbD k = (a.getLsbD k && b.getLsbD k)) ∧
    Writes (.or rd ra rb) s rd (fun v => ∀ k, v.getLsbD k = (a.getLsbD k || b.getLsbD k)) ∧
    Writes (.xor rd ra rb) s rd (fun v => ∀ k, v.getLsbD k = (a.getLsbD k != b.getLsbD k)) ∧
    Writes (.andn rd ra rb) s rd (fun v => ∀ k, v.getLsbD k = (a.getLsbD k && !b.getLsbD k)) ∧
    Writes (.sll rd ra rb) s rd (fun v => v.toNat = a.toNat * 2 ^ (b.toNat % 64) % 2 ^ 64) ∧
    Writes (.srl rd ra rb) s rd (fun v => v.toNat = a.toNat / 2 ^ (b.toNat % 64)) ∧
    Writes (.sra rd ra rb) s rd (fun v => v.toInt = a.toInt / 2 ^ (b.toNat % 64)) ∧
    Writes (.slt rd ra rb) s rd (fun v => v = if a.toInt < b.toInt then 1 else 0) ∧
    Writes (.sltu rd ra rb) s rd (fun v => v = if a.toNat < b.toNat then 1 else 0) ∧
    Writes (.min rd ra rb) s rd (fun v => (v = a ∨ v = b) ∧ v.toInt = min a.toInt b.toInt) ∧
    Writes (.max rd ra rb) s rd (fun v => (v = a ∨ v = b) ∧ v.toInt = max a.toInt b.toInt) ∧
    Writes (.minu rd ra rb) s rd (fun v => (v = a ∨ v = b) ∧ v.toNat = min a.toNat b.toNat) ∧
    Writes (.maxu rd ra rb) s rd (fun v => (v = a ∨ v = b) ∧ v.toNat = max a.toNat b.toNat) ∧
    Writes (.mul rd ra rb) s rd (fun v => v.toNat = a.toNat * b.toNat % 2 ^ 64) ∧
    Writes (.mulh rd ra rb) s rd (fun v => v.toInt = a.toInt * b.toInt / 2 ^ 64) ∧
    Writes (.mulhu rd ra rb) s rd (fun v => v.toNat = a.toNat * b.toNat / 2 ^ 64) ∧
    Writes (.div rd ra rb) s rd (fun v =>
      (b = 0 → v = BitVec.allOnes 64) ∧ (b ≠ 0 → v = BitVec.ofInt 64 (a.toInt.tdiv b.toInt))) ∧
    Writes (.rem rd ra rb) s rd (fun v =>
      (b = 0 → v = a) ∧ (b ≠ 0 → v.toInt = a.toInt - a.toInt.tdiv b.toInt * b.toInt)) ∧
    Writes (.divu rd ra rb) s rd (fun v =>
      (b = 0 → v.toNat = 2 ^ 64 - 1) ∧ (b ≠ 0 → v.toNat = a.toNat / b.toNat)) ∧
    Writes (.remu rd ra rb) s rd (fun v =>
      (b = 0 → v = a) ∧ (b ≠ 0 → v.toNat = a.toNat - a.toNat / b.toNat * b.toNat)) ∧
    Writes (.clz rd ra) s rd (fun v => v.toNat ≤ 64 ∧ a.toNat < 2 ^ (64 - v.toNat) ∧
      (v.toNat < 64 → 2 ^ (63 - v.toNat) ≤ a.toNat)) ∧
    Writes (.ctz rd ra) s rd (fun v => (a = 0 → v.toNat = 64) ∧
      (a ≠ 0 → v.toNat < 64 ∧ a.getLsbD v.toNat = true ∧ ∀ k, k < v.toNat → a.getLsbD k = false)) ∧
    Writes (.popc rd ra) s rd (fun v => v.toNat = ((List.range 64).filter fun k => a.getLsbD k).length) ∧
    Writes (.bswap rd ra) s rd (fun v => ∀ k, k < 8 → v.extractLsb' (8 * k) 8 = a.extractLsb' (8 * (7 - k)) 8) ∧
    Writes (.addw rd ra rb) s rd (fun v => v.toInt = Int.bmod (a.toNat + b.toNat) (2 ^ 32)) ∧
    Writes (.subw rd ra rb) s rd (fun v => v.toInt = Int.bmod ((a.toNat : Int) - b.toNat) (2 ^ 32)) ∧
    Writes (.mulw rd ra rb) s rd (fun v => v.toInt = Int.bmod (a.toNat * b.toNat) (2 ^ 32)) ∧
    Writes (.cmovnz rd ra rb) s rd (fun v => (b ≠ 0 → v = a) ∧ (b = 0 → v = s.reg rd)) ∧
    Writes (.cmovz rd ra rb) s rd (fun v => (b = 0 → v = a) ∧ (b ≠ 0 → v = s.reg rd)) ∧
    ∀ rc : BitVec 5,
      Writes (.madd rd ra rb rc) s rd (fun v => v.toNat = (a.toNat * b.toNat + (s.reg rc).toNat) % 2 ^ 64)) ∧
  (∀ (rd ra rb rc : BitVec 5),
    (∀ f ∈ [(0, Instr.add rd ra rb), (1, .sub rd ra rb), (2, .and rd ra rb), (3, .or rd ra rb), (4, .xor rd ra rb),
        (5, .andn rd ra rb), (6, .sll rd ra rb), (7, .srl rd ra rb), (8, .sra rd ra rb), (9, .slt rd ra rb),
        (10, .sltu rd ra rb), (11, .min rd ra rb), (12, .max rd ra rb), (13, .minu rd ra rb), (14, .maxu rd ra rb),
        (15, .mul rd ra rb), (16, .mulh rd ra rb), (17, .mulhu rd ra rb), (18, .div rd ra rb), (19, .divu rd ra rb),
        (20, .rem rd ra rb), (21, .remu rd ra rb), (26, .addw rd ra rb), (27, .subw rd ra rb), (28, .mulw rd ra rb),
        (29, .cmovnz rd ra rb), (30, .cmovz rd ra rb)],
      decode (packRR 0x01 rd ra rb (BitVec.ofNat 11 f.1)) = .ok f.2) ∧
    (∀ f ∈ [(22, Instr.clz rd ra), (23, .ctz rd ra), (24, .popc rd ra), (25, .bswap rd ra)],
      decode (packRR 0x01 rd ra 0 (BitVec.ofNat 11 f.1)) = .ok f.2 ∧
      (rb ≠ 0 → TrapsIllop (packRR 0x01 rd ra rb (BitVec.ofNat 11 f.1)))) ∧
    (∀ fn : BitVec 11, 31 ≤ fn.toNat → TrapsIllop (packRR 0x01 rd ra rb fn)) ∧
    decode (packRR 0x0D rd ra rb (rc.zeroExtend 11)) = .ok (.madd rd ra rb rc) ∧
    (∀ fn : BitVec 11, 32 ≤ fn.toNat → TrapsIllop (packRR 0x0D rd ra rb fn)) ∧
    (∀ x ∈ [rd, ra, rb], x ∈ readsOf (.cmovnz rd ra rb) ∧ x ∈ readsOf (.cmovz rd ra rb)) ∧
    (∀ x ∈ [ra, rb, rc], x ∈ readsOf (.madd rd ra rb rc)))

/-- The instructions with an immediate, LIH, ADPC, bit fields and LEA (R157 to R162): the effect of each on s[rd], the words that
encode them, and the encodings of theirs that trap ILLOP. INS reads s[rd] as well. -/
def Obligations.ImmediatesBitsAndFields : Prop :=
  (∀ (s : State) (rd ra : BitVec 5) (imm : BitVec 16),
    let a := s.reg ra
    Writes (.addi rd ra imm) s rd (fun v => (v.toNat : Int) = (a.toNat + imm.toInt) % 2 ^ 64) ∧
    Writes (.andi rd ra imm) s rd (fun v => ∀ k, v.getLsbD k = (a.getLsbD k && imm.getLsbD k)) ∧
    Writes (.ori rd ra imm) s rd (fun v => ∀ k, v.getLsbD k = (a.getLsbD k || imm.getLsbD k)) ∧
    Writes (.xori rd ra imm) s rd (fun v => ∀ k, v.getLsbD k = (a.getLsbD k != imm.getLsbD k)) ∧
    Writes (.slti rd ra imm) s rd (fun v => v = if a.toInt < imm.toInt then 1 else 0) ∧
    Writes (.sltiu rd ra imm) s rd (fun v => v = if (a.toNat : Int) < imm.toInt % 2 ^ 64 then 1 else 0) ∧
    Writes (.lih rd ra imm) s rd (fun v => v.toNat = (a.toNat * 2 ^ 16 + imm.toNat) % 2 ^ 64) ∧
    Writes (.adpc rd imm) s rd (fun v => v.toNat = ((s.pc.toNat : Int) + 65536 * imm.toInt) % 2 ^ 64)) ∧
  (∀ (s : State) (rd ra : BitVec 5) (n : BitVec 6),
    let a := s.reg ra
    Writes (.slli rd ra n) s rd (fun v => v.toNat = a.toNat * 2 ^ n.toNat % 2 ^ 64) ∧
    Writes (.srli rd ra n) s rd (fun v => v.toNat = a.toNat / 2 ^ n.toNat) ∧
    Writes (.srai rd ra n) s rd (fun v => v.toInt = a.toInt / 2 ^ n.toNat) ∧
    Writes (.rori rd ra n) s rd (fun v => ∀ k, k < 64 → v.getLsbD k = a.getLsbD ((k + n.toNat) % 64))) ∧
  (∀ (s : State) (rd ra : BitVec 5) (w p : BitVec 6), bfxFits w p = true →
    let a := s.reg ra
    Writes (.xtz rd ra w p) s rd (fun v => v.toNat = a.toNat / 2 ^ p.toNat % 2 ^ (w.toNat + 1)) ∧
    Writes (.xts rd ra w p) s rd (fun v => v.toInt = Int.bmod (a.toNat / 2 ^ p.toNat) (2 ^ (w.toNat + 1))) ∧
    Writes (.ins rd ra w p) s rd (fun v => ∀ k, k < 64 → v.getLsbD k =
      if p.toNat ≤ k ∧ k ≤ p.toNat + w.toNat then a.getLsbD (k - p.toNat) else (s.reg rd).getLsbD k)) ∧
  (∀ (s : State) (rd ra rb : BitVec 5) (x : BitVec 3),
    Writes (.lea rd ra rb x) s rd (fun v => v.toNat = ((s.reg ra).toNat + (s.reg rb).toNat * 2 ^ x.toNat) % 2 ^ 64)) ∧
  (∀ (rd ra rb : BitVec 5) (imm : BitVec 16),
    let n := imm.extractLsb' 0 6
    let w := imm.extractLsb' 6 6
    let shi := [Instr.slli rd ra n, .srli rd ra n, .srai rd ra n, .rori rd ra n]
    let bfx := [Instr.xtz rd ra w n, .xts rd ra w n, .ins rd ra w n]
    decode (packRI 0x02 rd ra imm) = .ok (.addi rd ra imm) ∧ decode (packRI 0x03 rd ra imm) = .ok (.andi rd ra imm) ∧
    decode (packRI 0x04 rd ra imm) = .ok (.ori rd ra imm) ∧ decode (packRI 0x05 rd ra imm) = .ok (.xori rd ra imm) ∧
    decode (packRI 0x06 rd ra imm) = .ok (.slti rd ra imm) ∧ decode (packRI 0x07 rd ra imm) = .ok (.sltiu rd ra imm) ∧
    (∀ i, imm.extractLsb' 8 8 = 0 → shi[(imm.extractLsb' 6 2).toNat]? = some i → decode (packRI 0x08 rd ra imm) = .ok i) ∧
    (imm.extractLsb' 8 8 ≠ 0 → TrapsIllop (packRI 0x08 rd ra imm)) ∧
    decode (packRI 0x09 rd ra imm) = .ok (.lih rd ra imm) ∧
    decode (packRI 0x0A rd 0 imm) = .ok (.adpc rd imm) ∧ (ra ≠ 0 → TrapsIllop (packRI 0x0A rd ra imm)) ∧
    (∀ i, imm.extractLsb' 14 2 = 0 → n.toNat + (w.toNat + 1) ≤ 64 → bfx[(imm.extractLsb' 12 2).toNat]? = some i →
      decode (packRI 0x0B rd ra imm) = .ok i) ∧
    ((imm.extractLsb' 14 2 ≠ 0 ∨ imm.extractLsb' 12 2 = 3 ∨ 64 < n.toNat + (w.toNat + 1)) →
      TrapsIllop (packRI 0x0B rd ra imm)) ∧
    (rd ∈ readsOf (.ins rd ra w n) ∧ ra ∈ readsOf (.ins rd ra w n)) ∧
    (∀ x : BitVec 3, decode (packRR 0x0C rd ra rb (x.zeroExtend 11)) = .ok (.lea rd ra rb x)) ∧
    ∀ fn : BitVec 11, 8 ≤ fn.toNat → TrapsIllop (packRR 0x0C rd ra rb fn))

/-- The conditional branches, JAL and JALR (R164 to R166): where each goes on, that a target with another tag than 0x00 raises
BADADDR only when control goes there, that JALR checks bits [1:0] after the tag, and that a jump that traps writes no
link. The words that encode them. -/
def Obligations.BranchesAndJumps : Prop :=
  (∀ (s : State) (ra rb : BitVec 5) (off : BitVec 16),
    let a := s.reg ra
    let b := s.reg rb
    let t := BitVec.ofInt 64 (s.pc.toNat + 4 * off.toInt)
    let goes (i : Instr) (c : Prop) : Prop :=
      (¬ c → Jumps i s (s.pc + 4)) ∧ (c → tagOf t = 0 → Jumps i s t) ∧ (c → tagOf t ≠ 0 → Raises i s .badaddr t)
    goes (.beq ra rb off) (a = b) ∧ goes (.bne ra rb off) (a ≠ b) ∧
    goes (.blt ra rb off) (a.toInt < b.toInt) ∧ goes (.bge ra rb off) (b.toInt ≤ a.toInt) ∧
    goes (.bltu ra rb off) (a.toNat < b.toNat) ∧ goes (.bgeu ra rb off) (b.toNat ≤ a.toNat)) ∧
  (∀ (s : State) (rd : BitVec 5) (off : BitVec 21),
    let t := BitVec.ofInt 64 (s.pc.toNat + 4 * off.toInt)
    (tagOf t ≠ 0 → Raises (.jal rd off) s .badaddr t) ∧
    (tagOf t = 0 → Answers (.jal rd off) s fun u =>
      OnlyCore s.cur s u ∧ GoesOn s.cur t s u ∧ RegsAre s.cur rd (s.pc + 4) s u)) ∧
  (∀ (s : State) (rd ra : BitVec 5) (imm : BitVec 16),
    let t := BitVec.ofInt 64 ((s.reg ra).toNat + imm.toInt)
    (tagOf t ≠ 0 → Raises (.jalr rd ra imm) s .badaddr t) ∧
    (tagOf t = 0 → t.extractLsb' 0 2 ≠ 0 → Raises (.jalr rd ra imm) s .align t) ∧
    (tagOf t = 0 → t.extractLsb' 0 2 = 0 → Answers (.jalr rd ra imm) s fun u =>
      OnlyCore s.cur s u ∧ GoesOn s.cur t s u ∧ RegsAre s.cur rd (s.pc + 4) s u)) ∧
  (∀ (ra rb : BitVec 5) (off : BitVec 16),
    decode (packRI 0x20 ra rb off) = .ok (.beq ra rb off) ∧ decode (packRI 0x21 ra rb off) = .ok (.bne ra rb off) ∧
    decode (packRI 0x22 ra rb off) = .ok (.blt ra rb off) ∧ decode (packRI 0x23 ra rb off) = .ok (.bge ra rb off) ∧
    decode (packRI 0x24 ra rb off) = .ok (.bltu ra rb off) ∧ decode (packRI 0x25 ra rb off) = .ok (.bgeu ra rb off) ∧
    decode (packRI 0x27 ra rb off) = .ok (.jalr ra rb off)) ∧
  (∀ (rd : BitVec 5) (off : BitVec 21), decode (packJL 0x26 rd off) = .ok (.jal rd off))

/-! ### Loads and stores -/

/-- A load of the own tile memory, of the accumulator quarter or, through the tile map, of another tile's memory (R101, R169,
R171): `rd` takes the bytes at the address that the tag names, little-endian and extended, and within the die nothing else changes;
from another die's tile no byte, no other tile and nothing else of the core changes. A poisoned line raises POISON instead. The line's
transfer has not failed its check.
That the load completes in its own step is the model's choice (log entry 4). -/
def Obligations.LoadsWithoutTranslation : Prop :=
  ∀ (s : State) (rd ra : BitVec 5) (imm : BitVec 16) (g : Nat),
    let P := s.cur
    let ea := s.reg ra + imm.signExtend 64
    ∀ f ∈ loadForms rd ra imm,
      s.localCheck P ea f.2.1 = none → s.localAt ea = some g → s.sends ea → lineOf g ∉ s.failing →
        (s.poisonIn g f.2.1 = false → ∃ v,
          (f.2.2 = false → v.toNat = s.num g f.2.1) ∧
          (f.2.2 = true → v.toInt = Int.bmod (s.num g f.2.1) (2 ^ (8 * f.2.1))) ∧
          (s.crosses P ea = false → Answers f.1 s (LoadsOnly rd v s)) ∧
          Answers f.1 s fun t => SameMemory s t ∧ SameOtherTiles P s t ∧ t.tile P = { s.tile P with core := t.core P } ∧
            LandsAt P (s.pc + 4) s t ∧ RegsAre P rd v s t) ∧
        (s.poisonIn g f.2.1 = true → s.crosses P ea = false → Raises f.1 s .poison ea)

/-- An access of the core by the outcome of its target, wherever that lies, in virtual memory of any owner or in a tile memory (R171,
R174, R181, R183 to R190, R239): the instruction completes with what the target answers, or raises its cause, or waits with no register
changed, and `u` is what the access at the target itself leaves. A load of a zero-fill page takes 0 and sets RESF.CORE, a store to it
changes nothing and sets RESF.CORE (R235). Where the target lies at bytes with no encryption, a read gives those bytes, and a store, an
ST.REL, an atomic or a FRED stores there and nowhere else.
That the access completes in its own step, that a wait that times out acquires, and how requests are tagged and releases kept by clocks
are the model's choices (log entries 4, 6, 45 and 74). -/
def Obligations.AccessesByOutcome : Prop :=
  (∀ (s u : State) (rd ra : BitVec 5) (imm : BitVec 16) (k : Nat),
    let ea := s.reg ra + imm.signExtend 64
    ∀ f ∈ loadForms rd ra imm,
      s.localCheck s.cur ea f.2.1 = none → s.sends ea →
        (∀ l, s.readVa s.me ea f.2.1 .read true true = (u, .bytes l, k) →
          Answers f.1 s (LoadsOnly rd (loadValue f.2.1 f.2.2 (BitVec.ofNat 64 (leNat l))) u)) ∧
        (s.readVa s.me ea f.2.1 .read true true = (u, .zero, k) → Answers f.1 s fun t =>
          LoadsOnly rd 0 (u.modCore s.cur fun c => { c with resf := c.resf ||| 1 }) t) ∧
        (∀ c, s.readVa s.me ea f.2.1 .read true true = (u, .trap c, k) →
          Answers f.1 s (RaisesOnly s.cur c ea u)) ∧
        (∀ b, s.readVa s.me ea f.2.1 .read true true = (u, .poison b, k) →
          Answers f.1 s (RaisesOnly s.cur .poison ea u)) ∧
        (∀ d, s.readVa s.me ea f.2.1 .read true true = (u, .park d, k) →
          Answers f.1 s fun t => WaitsAt f.1 .parked u t ∧ SameMemory u t) ∧
        (s.readVa s.me ea f.2.1 .read true true = (u, .busy, k) →
          Answers f.1 s fun t => WaitsAt f.1 .flight u t ∧ SameMemory u t)) ∧
  (∀ (s u : State) (rd ra : BitVec 5) (imm : BitVec 16) (k : Nat),
    let ea := s.reg ra + imm.signExtend 64
    let x := s.tagged ea false
    ∀ f ∈ storeForms rd ra imm,
      let out := fun p => x.writeVa x.me ea (leBytes f.2 ((s.reg rd).toNat % 2 ^ (8 * f.2))) true = (u, p, k)
      tagOf ea = 0x00 → s.localCheck s.cur ea f.2 = none → s.sends ea → s.freshSource ea →
      (s.tile s.cur).pending.toNat + f.2 ≤ 2 ^ 20 →
        (out .done → Answers f.1 s (Applied ea 0 0 u)) ∧
        (out .zero → Answers f.1 s (Applied ea 0 0 (u.modCore s.cur fun c => { c with resf := c.resf ||| 1 }))) ∧
        (∀ c, out (.trap c) → Answers f.1 s (RaisesOnly s.cur c ea u)) ∧
        (∀ d, out (.park d) → Answers f.1 s fun t => WaitsAt f.1 .parked u t ∧ SameMemory u t) ∧
        (out .busy → Answers f.1 s fun t => WaitsAt f.1 .flight u t ∧ SameMemory u t) ∧
        (∀ g y, x.finds ea .write true f.2 g y → Memory.wf y.mem = true → lineOf g ∉ y.failing →
          Answers f.1 s fun t => Stored g f.2 (s.reg rd).toNat y t ∧ LandsAt s.cur (s.pc + 4) s t ∧ SameRegs s.cur s t ∧
            SameOtherTiles s.cur s t)) ∧
  (∀ (s u : State) (rd ra rb : BitVec 5) (obs : BitVec 6) (k : Nat),
    let ea := s.reg ra
    let out := fun got => s.readVa s.me ea 8 .read true false = (u, got, k)
    let resf (y : State) := y.modCore s.cur fun c => { c with resf := c.resf ||| 1 }
    tagOf ea ≠ 0xF2 → s.localCheck s.cur ea 8 = none → s.sends ea →
      (∀ l, out (.bytes l) →
        Answers (.ldAcq rd ra obs) s (LoadsOnly rd (BitVec.ofNat 64 (leNat l)) (u.acquireVa (.core s.cur) s.me obs ea))) ∧
      (out .zero → Answers (.ldAcq rd ra obs) s (LoadsOnly rd 0 (resf u))) ∧
      (∀ f ∈ waitForms rd ra rb obs,
        let expired := (s.core s.cur).wtoTicks ≠ 0 ∧ (s.core s.cur).wtoTicks ≤ s.tick - s.waitSince s.cur
        let got (v : Word) (y z : State) :=
          (f.2 v (s.reg rb) → Answers f.1 s (LoadsOnly rd v z)) ∧
          (¬ f.2 v (s.reg rb) →
            (¬ expired → Answers f.1 s fun t => WaitsAt f.1 .memChange y t ∧ SameMemory y t) ∧
            (expired → (s.core s.cur).wtoTraps = true → Answers f.1 s (RaisesOnly s.cur .waitto ea y)) ∧
            (expired → (s.core s.cur).wtoTraps = false → Answers f.1 s (LoadsOnly rd v z)))
        (∀ l, out (.bytes l) → got (BitVec.ofNat 64 (leNat l)) u (u.acquireVa (.core s.cur) s.me obs ea)) ∧
        (out .zero → got 0 (resf u) (resf u))) ∧
      (∀ i ∈ Instr.ldAcq rd ra obs :: (waitForms rd ra rb obs).map (·.1),
        (∀ c, out (.trap c) → Answers i s (RaisesOnly s.cur c ea u)) ∧
        (∀ b, out (.poison b) → Answers i s (RaisesOnly s.cur .poison ea u)) ∧
        (∀ d, out (.park d) → Answers i s fun t => WaitsAt i .parked u t ∧ SameMemory u t) ∧
        (out .busy → Answers i s fun t => WaitsAt i .flight u t ∧ SameMemory u t)) ∧
      (∀ g y, (s.tagged ea false).finds ea .read true 8 g y → lineOf g ∉ y.failing → y.poisonIn g 8 = false →
        ∃ z n, s.readVa s.me ea 8 .read true false = (z, .bytes (y.bytes g 8), n) ∧ SameMemory y z)) ∧
  (∀ (s u : State) (rd ra : BitVec 5) (obs : BitVec 6) (k : Nat),
    let i := Instr.stRel rd ra obs
    let ea := s.reg ra
    let x := s.tagged ea false
    let c := x.carried (.core s.cur) obs
    let out := fun p => x.writeVa x.me ea (leBytes 8 (s.reg rd).toNat) false = (u, p, k)
    tagOf ea ≠ 0xF2 → s.localCheck s.cur ea 8 = none → s.sends ea → s.freshSource ea →
    (s.tile s.cur).pending.toNat + 8 ≤ 2 ^ 20 → s.outsideByteRegions ea 8 →
      (out .done → Answers i s fun t => Applied ea 0 0 u t ∧
        (obs ≠ 0 → ∀ g, u.globalOf s.me ea .write = some g →
          t.relsAt g = if c = Clock.zero then [] else [{ agent := .core s.cur, mask := obs, clock := c }])) ∧
      (∀ e, out (.trap e) → Answers i s (RaisesOnly s.cur e ea u)) ∧
      (∀ d, out (.park d) → Answers i s fun t => WaitsAt i .parked u t ∧ SameMemory u t) ∧
      (out .busy → Answers i s fun t => WaitsAt i .flight u t ∧ SameMemory u t) ∧
      (∀ g y, x.finds ea .write false 8 g y → Memory.wf y.mem = true → lineOf g ∉ y.failing →
        Answers i s fun t => Stored g 8 (s.reg rd).toNat y t ∧ LandsAt s.cur (s.pc + 4) s t ∧ SameRegs s.cur s t ∧
          MayWake s.cur ea s t)) ∧
  (∀ (s u : State) (rd ra rb : BitVec 5) (obs : BitVec 6) (k : Nat),
    let ea := s.reg ra
    let x := s.tagged ea true
    let b := s.reg rb
    let cas := Instr.amoCas rd ra rb obs
    tagOf ea ≠ 0xF2 → s.sends ea → s.freshSource ea → (s.tile s.cur).pending.toNat + 8 ≤ 2 ^ 20 → s.recMode s.cur = 0 →
      (∀ f ∈ amoForms rd ra rb obs,
        let new (old : Word) : Option Word := if f.1 = cas ∧ old ≠ s.reg rd then none else some (f.2 old b (s.reg rd))
        let net : Option RoceOp :=
          if f.1 = .amoAdd rd ra rb obs then some (.fetchAdd b) else if f.1 = cas then some (.cmpSwap (s.reg rd) b) else none
        let out := fun got => x.rmwVa x.me ea 8 (fun v => (new (BitVec.ofNat 64 v)).map BitVec.toNat) net = (u, got, k)
        s.localCheck s.cur ea 8 = none → (tagOf ea = 0x00 → ownerOf ea = 5 → net ≠ none) →
          (∀ l, out (.bytes l) → Answers f.1 s (Applied ea rd (BitVec.ofNat 64 (leNat l)) u)) ∧
          (∀ c, out (.trap c) → Answers f.1 s (RaisesOnly s.cur c ea u)) ∧
          (∀ p, out (.poison p) → Answers f.1 s (RaisesOnly s.cur .poison ea u)) ∧
          (∀ d, out (.park d) → Answers f.1 s fun t => WaitsAt f.1 .parked u t ∧ SameMemory u t) ∧
          (out .busy → Answers f.1 s fun t => WaitsAt f.1 .flight u t ∧ SameMemory u t) ∧
          (∀ g y, x.finds ea .rmw false 8 g y → Memory.wf y.mem = true → lineOf g ∉ y.failing → y.poisonIn g 8 = false →
            let old := BitVec.ofNat 64 (y.num g 8)
            Answers f.1 s fun t => Stored g 8 (f.2 old b (s.reg rd)).toNat y t ∧ LandsAt s.cur (s.pc + 4) s t ∧
              RegsAre s.cur rd old s t ∧ MayWake s.cur ea s t)) ∧
      (∀ f ∈ fredForms rd ra rb obs,
        let n := fredBytes rd
        let out := fun got => x.rmwVa x.me ea n (fun v => some (fredNew f.2 rd b v)) none = (u, got, k)
        s.localCheck s.cur ea n = none → (tagOf ea = 0x00 → ownerOf ea ≠ 5) →
          (∀ l, out (.bytes l) → Answers f.1 s (Applied ea 0 0 u)) ∧
          (∀ c, out (.trap c) → Answers f.1 s (RaisesOnly s.cur c ea u)) ∧
          (∀ p, out (.poison p) → Answers f.1 s (RaisesOnly s.cur .poison ea u)) ∧
          (∀ d, out (.park d) → Answers f.1 s fun t => WaitsAt f.1 .parked u t ∧ SameMemory u t) ∧
          (∀ g y, x.finds ea .rmw false n g y → Memory.wf y.mem = true → lineOf g ∉ y.failing → y.poisonIn g n = false →
            Answers f.1 s fun t => Stored g n (fredNew f.2 rd b (y.num g n)) y t ∧ LandsAt s.cur (s.pc + 4) s t ∧
              SameRegs s.cur s t ∧ MayWake s.cur ea s t)))

/-- Loads and stores that fail a check of R170 raise its cause, in the order of R170, and send nothing.
No operation of the MEMO group reaches an accumulator quarter, and each checks its address as R180 says before anything is
sent: a tag 0xF2 address raises BADADDR, then the tag, then the alignment to the operation's width, are checked, and at owner 5
an operation that RoCEv2 does not offer raises BADADDR. -/
def Obligations.AddressChecks : Prop :=
  (∀ (s : State) (rd ra : BitVec 5) (imm : BitVec 16),
    let ea := s.reg ra + imm.signExtend 64
    ∀ f ∈ (loadForms rd ra imm).map (fun f => (f.1, f.2.1)) ++ storeForms rd ra imm,
      ((tagOf ea ≠ 0x00 ∧ tagOf ea ≠ 0xF0 ∧ tagOf ea ≠ 0xF1 ∧ tagOf ea ≠ 0xF2) → Raises f.1 s .badaddr ea) ∧
      (tagOf ea = 0xF0 → ea.extractLsb' 19 37 ≠ 0 → Raises f.1 s .badaddr ea) ∧
      (tagOf ea = 0xF2 → ea.extractLsb' 16 40 ≠ 0 → Raises f.1 s .badaddr ea) ∧
      (tagOf ea = 0xF1 → (ea.extractLsb' 50 6 ≠ 0 ∨ ea.extractLsb' 19 21 ≠ 0) → Raises f.1 s .badaddr ea) ∧
      (tagKnown ea = true → spansZero ea = true → ea.toNat % f.2 ≠ 0 → Raises f.1 s .align ea) ∧
      (tagOf ea = 0xF1 → spansZero ea = true → ea.toNat % f.2 = 0 → s.mapTile s.cur (vtOf ea) = none →
        Raises f.1 s .badaddr ea) ∧
      (tagOf ea = 0x00 → ea.toNat % f.2 = 0 → 6 ≤ ownerOf ea → Raises f.1 s .badaddr ea)) ∧
  (∀ (s : State) (rd ra rb : BitVec 5) (obs : BitVec 6),
    let ea := s.reg ra
    (∀ f ∈ memoForms rd ra rb obs,
      (tagOf ea = 0xF2 → Raises f.1 s .badaddr ea) ∧
      (tagKnown ea = false → Raises f.1 s .badaddr ea) ∧
      (tagOf ea ≠ 0xF2 → tagKnown ea = true → spansZero ea = true → ea.toNat % f.2 ≠ 0 → Raises f.1 s .align ea)) ∧
    (tagOf ea = 0x00 → ownerOf ea = 5 → ea.toNat % 8 = 0 →
      Raises (.amoAnd rd ra rb obs) s .badaddr ea ∧ Raises (.amoOr rd ra rb obs) s .badaddr ea ∧
      Raises (.amoXor rd ra rb obs) s .badaddr ea ∧ Raises (.amoMin rd ra rb obs) s .badaddr ea ∧
      Raises (.amoMax rd ra rb obs) s .badaddr ea ∧ Raises (.amoMinu rd ra rb obs) s .badaddr ea ∧
      Raises (.amoMaxu rd ra rb obs) s .badaddr ea ∧ Raises (.amoSwap rd ra rb obs) s .badaddr ea ∧
      ∀ f ∈ fredForms rd ra rb obs, Raises f.1 s .badaddr ea))

/-- A store to the own tile memory, to the accumulator quarter or, through the tile map, to the memory of a tile of the die (R101,
R169): the bytes at the address that the tag names take the low bytes of s[rd], little-endian; every other byte of memory reads as
before, no poison mark changes (R174), and no register and no other part of the device differs but that another tile stored to is
woken from IDLE (R217). The line's transfer has not failed its check, the bytes lie in no byte-mode region, and the tile's
unacknowledged remote bytes stay within 1 MiB (R198).
That the store completes in its own step is the model's choice (log entry 4). -/
def Obligations.StoresWithoutTranslation : Prop :=
  ∀ (s : State) (rd ra : BitVec 5) (imm : BitVec 16) (g : Nat),
    let P := s.cur
    let ea := s.reg ra + imm.signExtend 64
    ∀ f ∈ storeForms rd ra imm,
      Memory.wf s.mem = true → s.localCheck P ea f.2 = none → s.localAt ea = some g → s.crosses P ea = false → s.sends ea →
      lineOf g ∉ s.failing → s.outsideByteRegions ea f.2 → (s.tile P).pending.toNat + f.2 ≤ 2 ^ 20 → Answers f.1 s fun t =>
        t.num g f.2 = (s.reg rd).toNat % 2 ^ (8 * f.2) ∧ SameBytesOutside g f.2 s t ∧ t.poison = s.poison ∧
        LandsAt P (s.pc + 4) s t ∧ SameRegs P s t ∧
        (∀ Q, Q ≠ P → t.tile Q =
          if tagOf ea = 0xF1 ∧ s.mapTile P (vtOf ea) = some Q then { s.tile Q with wake := true } else s.tile Q) ∧
        t.tile P = { s.tile P with core := t.core P } ∧ { t with tiles := s.tiles, mem := s.mem, rels := t.rels } =
          { s with rels := t.rels }

/-! ### The MEMO group -/

/-- LD.ACQ and ST.REL of the own tile memory and FENCE (R183 to R185): LD.ACQ loads the doubleword and acquires the releases that its
value carries; ST.REL stores s[rd], and with a mask its value carries the release; FENCE changes no memory, no register and no other
tile, and a FENCE to the package leaves no die with an update that the core's earlier accesses come after. An empty mask orders
nothing.
That the access completes in its own step, and how the order is kept by clocks, are the model's choices (log entries 4 and 6). -/
def Obligations.AcquireReleaseAndFence : Prop :=
  ∀ (s : State) (rd ra : BitVec 5) (obs : BitVec 6),
    let P := s.cur
    let ea := s.reg ra
    let g := gTile P.toNat (offOf ea)
    let c := s.carried (.core P) obs
    (tagOf ea = 0xF0 → s.localCheck P ea 8 = none → s.sends ea → lineOf g ∉ s.failing →
      (s.poisonIn g 8 = false →
        Answers (.ldAcq rd ra obs) s (LoadsOnly rd (BitVec.ofNat 64 (s.num g 8)) (s.acquired obs g))) ∧
      (s.poisonIn g 8 = true → Raises (.ldAcq rd ra obs) s .poison ea) ∧
      (Memory.wf s.mem = true → s.outsideByteRegions ea 8 →
        Answers (.stRel rd ra obs) s fun t => StoresAt g 8 (s.reg rd).toNat 0 0 s t ∧
          t.relsAt g = if obs = 0 ∨ c = Clock.zero then [] else [{ agent := .core P, mask := obs, clock := c }])) ∧
    (obs = 0 → Jumps (.fence obs) s (s.pc + 4)) ∧
    (obs ≠ 0 → Answers (.fence obs) s fun t => OnlyCore P { s with dies := t.dies, io := t.io } t ∧
      GoesOn P (s.pc + 4) s t ∧ SameRegs P s t ∧
      (obs.getLsbD 3 = true → ∀ d, d < 4 → ∀ m ∈ (t.die d).inbox, at4 c m.owner.toNat < at4 m.stamp m.owner.toNat))

/-- WAIT.NE, WAIT.EQ and WAIT.GE on the own tile memory (R186): with the condition met by the value read, `rd` takes it; with the
condition not met, the wait goes on until WTO.TICKS have passed, and then raises WAITTO or, with TRAPW clear, ends with the
value read. The read that ends the wait acquires the releases that its value carries (R380).
That the read completes in its own step, and that a wait that times out and ends acquires, are the model's choices (log entries 4
and 45). -/
def Obligations.WaitsOnMemory : Prop :=
  ∀ (s : State) (rd ra rb : BitVec 5) (obs : BitVec 6),
    let ea := s.reg ra
    let g := gTile s.cur.toNat (offOf ea)
    let v := BitVec.ofNat 64 (s.num g 8)
    let u := s.acquired obs g
    ∀ f ∈ waitForms rd ra rb obs,
      tagOf ea = 0xF0 → s.localCheck s.cur ea 8 = none → s.sends ea → lineOf g ∉ s.failing → s.poisonIn g 8 = false →
        (f.2 v (s.reg rb) → Answers f.1 s (LoadsOnly rd v u)) ∧
        (¬ f.2 v (s.reg rb) →
          let expired := (s.core s.cur).wtoTicks ≠ 0 ∧ (s.core s.cur).wtoTicks ≤ s.tick - s.waitSince s.cur
          (¬ expired → Answers f.1 s fun t => WaitsAt f.1 .memChange s t ∧ OnlyCore s.cur s t) ∧
          (expired → (s.core s.cur).wtoTraps = true → Raises f.1 s .waitto ea) ∧
          (expired → (s.core s.cur).wtoTraps = false → Answers f.1 s (LoadsOnly rd v u)))

/-- The integer atomics on the own tile memory (R187): `rd` takes the doubleword that was there, the doubleword takes the new
value, and no other byte of memory, no other register and no other tile differs. The line's transfer has not failed its check.
That the access completes in its own step is the model's choice (log entry 4). -/
def Obligations.Atomics : Prop :=
  ∀ (s : State) (rd ra rb : BitVec 5) (obs : BitVec 6),
    let ea := s.reg ra
    let g := gTile s.cur.toNat (offOf ea)
    let old := BitVec.ofNat 64 (s.num g 8)
    ∀ f ∈ amoForms rd ra rb obs,
      Memory.wf s.mem = true → tagOf ea = 0xF0 → s.localCheck s.cur ea 8 = none → s.sends ea → s.freshSource ea → lineOf g ∉ s.failing →
      s.recMode s.cur = 0 →
        (s.poisonIn g 8 = false →
          Answers f.1 s (StoresAt g 8 (f.2 old (s.reg rb) (s.reg rd)).toNat rd old s)) ∧
        (s.poisonIn g 8 = true → Answers f.1 s fun t => SameMemory s t ∧ SameOtherTiles s.cur s t ∧
          t.tile s.cur = { s.tile s.cur with
            events := (s.tile s.cur).events ++ [coreEvent s s.cur .poison ea],
            core := { s.core s.cur with run := .event, flight := none, busy := (t.core s.cur).busy } })

/-- FRED.ADD, FRED.MIN and FRED.MAX on the own tile memory (R190), in the format that ctl[4:3] names: the number there becomes the
exact sum rounded once to nearest even, the smaller or the larger of it and s[rb], with subnormals flushed under FTZ (ctl[0]) and the
overflow of SAT (ctl[2]); when one of the two is a NaN it becomes the canonical NaN under CAN (ctl[1]) and otherwise the first NaN,
quieted. No register and no other byte of memory differs. A poisoned line raises POISON instead. The line's transfer has not failed its
check.
That the access completes in its own step is the model's choice (log entry 4). -/
def Obligations.FloatReductions : Prop :=
  ∀ (s : State) (ctl ra rb : BitVec 5) (obs : BitVec 6),
    let P := s.cur
    let ea := s.reg ra
    let g := gTile P.toNat (offOf ea)
    let form : BitVec 2 := ctl.extractLsb' 3 2
    let f : FloatFmt := if form = 0 then fp32 else if form = 1 then fp16 else if form = 2 then bf16 else fp64
    let canonical : Nat :=
      if form = 0 then 0x7FC00000 else if form = 1 then 0x7E00 else if form = 2 then 0x7FC0 else 0x7FF8000000000000
    let n := if form = 0 then 4 else if form = 3 then 8 else 2
    let mode : Mode := { rnd := .rne, ftz := ctl.getLsbD 0, sat := ctl.getLsbD 2, can := ctl.getLsbD 1 }
    let x := s.num g n
    let y := (s.reg rb).toNat % 2 ^ (8 * n)
    let a := f.read mode.ftz x
    let b := f.read mode.ftz y
    let stores (i : Instr) (r : Nat) : Prop := Answers i s (StoresAt g n (r % 2 ^ (8 * n)) 0 0 s)
    tagOf ea = 0xF0 → s.localCheck P ea n = none → s.sends ea → s.freshSource ea → s.recMode P = 0 → lineOf g ∉ s.failing →
      (Memory.wf s.mem = true → s.poisonIn g n = false →
        ((a.isNaN = true ∨ b.isNaN = true) →
          let r := if mode.can then canonical else (if a.isNaN then x else y) ||| 2 ^ (f.mb - 1)
          stores (.fredAdd ctl ra rb obs) r ∧ stores (.fredMin ctl ra rb obs) r ∧ stores (.fredMax ctl ra rb obs) r) ∧
        (a.isNaN = false → b.isNaN = false →
          stores (.fredAdd ctl ra rb obs) (f.round (a.add b) mode 0) ∧
          stores (.fredMin ctl ra rb obs) (f.round (if b.below a then b else a) mode 0) ∧
          stores (.fredMax ctl ra rb obs) (f.round (if a.below b then b else a) mode 0))) ∧
      (s.poisonIn g n = true → ∀ i ∈ [Instr.fredAdd ctl ra rb obs, .fredMin ctl ra rb obs, .fredMax ctl ra rb obs],
        Answers i s fun t => SameMemory s t ∧ SameOtherTiles P s t ∧ SameRegs P s t ∧
          (t.tile P).events = (s.tile P).events ++ [coreEvent s P .poison ea] ∧ (t.core P).run = .event)

/-! ### Semaphores, regions and barriers -/

/-- The semaphore instructions (R194 to R196): SEMP and SEMTRY take their count when nobody queues before them and the value
suffices, and acquire; otherwise SEMP joins the tail of the queue and SEMTRY writes 0; SEMV releases, adds and saturates with its
SEMOV bit; SEMRD reads; SEMSET sets the value and not SEMOV. What the tile's engines and other agents add in the same tick comes after
the core (R103): SEMRD does not see it, and it is added to what SEMSET sets.
SEMDEF with its descriptor in the own tile memory (R34, R193): the checks of the address, first its tag and then its alignment, of the descriptor and of the slots
that CBs hold; the binding, whose fill and drain numbers start at GEN and whose tags are one below it; and the semaphores that
INIT sets. -/
def Obligations.SemaphoresAndRegions : Prop :=
  (∀ (s : State) (rd ra rb : BitVec 5) (n : BitVec 6),
    let P := s.cur
    let v := s.sem P n
    let c := (s.reg ra).extractLsb' 0 32
    let o := (s.reg rb).extractLsb' 0 6
    let granted := (∀ w ∈ (s.tile P).waiters, w.sem ≠ n) ∧ c.toNat ≤ v.toNat
    let taken := (s.setSem P n (v - c)).acquireSem (.core P) P n
    (granted → Answers (.semp rd ra n) s (WritesOnly rd 1 taken) ∧ Answers (.semtry rd ra n) s (WritesOnly rd 1 taken)) ∧
    (¬ granted → Answers (.semtry rd ra n) s (WritesOnly rd 0 s) ∧ Answers (.semp rd ra n) s fun t => OnlyTile P s t ∧
      t.tile P = { s.tile P with
        waiters := (s.tile P).waiters ++ [{ sem := n, who := .core, count := c }],
        core := { s.core P with run := .waiting (.semp rd ra n) .sem s.tick } }) ∧
    (v.toNat + c.toNat < 2 ^ 32 →
      Answers (.semv ra rb n) s (JumpsOnly (s.pc + 4) (((s.release (.core P) o).leaveClock (.core P) o P n).setSem P n (v + c)))) ∧
    (2 ^ 32 ≤ v.toNat + c.toNat → Answers (.semv ra rb n) s
      (JumpsOnly (s.pc + 4) (((s.release (.core P) o).setSem P n (BitVec.allOnes 32)).modCore P fun k =>
        { k with semov := k.semov ||| 1#64 <<< n.toNat }))) ∧
    (s.semRecent P n = none → Answers (.semrd rd n) s (WritesOnly rd (v.zeroExtend 64) s) ∧
      Answers (.semset ra n) s (JumpsOnly (s.pc + 4) (s.setSem P n c))) ∧
    (∀ e, s.semRecent P n = some e → Answers (.semrd rd n) s (WritesOnly rd (e.base.zeroExtend 64) s) ∧
      Answers (.semset ra n) s fun t => JumpsOnly (s.pc + 4) (s.semStore P n c) t ∧
        (t.sem P n).toNat = min (e.adds.foldl (fun x y => x + y.toNat) c.toNat) (2 ^ 32 - 1) ∧
        ∀ m, m ≠ n → t.sem P m = s.sem P m)) ∧
  (∀ (s : State) (ra n : BitVec 5),
    let P := s.cur
    let d := s.reg ra
    let g := gTile P.toNat (offOf d)
    ((tagOf d ≠ 0x00 ∧ tagOf d ≠ 0xF0) → Raises (.semdef ra n) s .badaddr d) ∧
    ((tagOf d = 0x00 ∨ tagOf d = 0xF0) → d.toNat % 32 ≠ 0 → Raises (.semdef ra n) s .align d) ∧
    ((tagOf d = 0x00 ∨ tagOf d = 0xF0) → d.toNat % 32 = 0 → spansZero d = false → Raises (.semdef ra n) s .badaddr d) ∧
    (tagOf d = 0xF0 → spansZero d = true → d.toNat % 32 = 0 → lineOf g ∉ s.failing →
      (s.poisonIn g 32 = true → Raises (.semdef ra n) s .poison (BitVec.ofNat 64 (d.toNat / 64 * 64))) ∧
      (s.poisonIn g 32 = false →
        (regionOf (s.bytes g 32) = none → Raises (.semdef ra n) s .cbformat d) ∧
        (∀ r x, regionOf (s.bytes g 32) = some r → s.region P n = some x → x.holds ≠ [] →
          Raises (.semdef ra n) s .cbformat d) ∧
        (∀ r, regionOf (s.bytes g 32) = some r → (∀ x, s.region P n = some x → x.holds = []) →
          r.base.toNat = s.num g 4 ∧ r.slotb.toNat = s.num (g + 4) 4 ∧ r.nslot.toNat = s.num (g + 8) 1 ∧
          r.full.toNat = s.num (g + 9) 1 ∧ r.free.toNat = s.num (g + 10) 1 ∧ r.obs.toNat = s.num (g + 11) 1 ∧
          r.gen.toNat = s.num (g + 12) 4 ∧
          Answers (.semdef ra n) s fun t =>
            JumpsOnly (s.pc + 4) (s.bindRegion P n r) t ∧
            t.region P n = some { desc := r, f := r.gen, c := r.gen, pending := 0, holds := [],
                                  tags := Vector.replicate 16 (BitVec.ofNat 8 ((r.gen.toNat + 255) % 256)) } ∧
            (r.init = true → (∀ m, s.semRecent P m = none) → (t.sem P r.free).toNat = r.nslot.toNat ∧ t.sem P r.full = 0) ∧
            (∀ m, (r.init = false ∨ (m ≠ r.free ∧ m ≠ r.full)) → t.sem P m = s.sem P m)))))

/-- BARDEF (R197): a word that is not well formed, or that gives a unit with arrivals another COUNT, raises CBFORMAT; otherwise the
unit takes COUNT and the handle records it without an arrival.
BARA, BARW and BARAW outside PAIR (R198, R199): an unbound handle raises ILLOP with the word, a die-scope unit reached from
another die than the task's home die raises BADADDR with the handle's number; BARA arrives once in an epoch and returns it, and its unit keeps what the arrival releases (R391); BARW
ends at once when no arrival stands and waits otherwise; BARAW arrives and waits, and after a pre-emption of its wait it is
BARW. An arrival over a link waits at its source while the unit's die holds 4,096 requests of it (R395).
The die of a unit of package scope is the model's reading (log entry 93). -/
def Obligations.Barriers : Prop :=
  (∀ (s : State) (k : Task) (ra : BitVec 5) (n : BitVec 4),
    let P := s.cur
    let w := s.reg ra
    let count := w.extractLsb' 16 11
    let u := s.barKeyOf P w
    let b := k.barUnit u
    let scope := w.toNat % 4
    let good := w.toNat / 2 ^ 27 = 0 ∧ w.toNat / 2 ^ 12 % 16 = 0 ∧ w.toNat / 4 % 64 = 0 ∧ scope ≠ 3 ∧
      1 ≤ count.toNat ∧ count.toNat ≤ (if scope = 0 then 16 else 1024)
    (¬ good → Raises (.bardef ra n) s .cbformat w) ∧
    (s.taskOf P = some k → b.arrivals ≠ 0 → b.count ≠ count → Raises (.bardef ra n) s .cbformat w) ∧
    (s.taskOf P = some k → good → (b.arrivals = 0 ∨ b.count = count) → Answers (.bardef ra n) s fun t =>
      t.handle P n = some { unit := u, count, arrived := false, epoch := 0 } ∧ t.barUnit P u = { b with count } ∧
      GoesOn P (s.pc + 4) s t ∧ SameRegs P s t ∧ SameMemory s t ∧ SameOtherTiles P s t)) ∧
  (∀ (s : State) (rd : BitVec 5) (n : BitVec 4),
    let P := s.cur
    (s.handle P n = none → ∀ i ∈ [Instr.bara rd n, .barw rd n, .baraw rd n], ∀ w, encode i = some w →
      Raises i s .illop (w.zeroExtend 64)) ∧
    ∀ (h : BarHandle) (k : Task), s.handle P n = some h → s.taskOf P = some k →
      let b := k.barUnit h.unit
      let late := b.arrivals = b.count.toNat
      let e := if late then b.epoch + 1 else b.epoch
      let stands := h.arrived = true ∧ 0 ≤ (h.epoch - b.epoch).toInt
      let away := (∃ x u, h.unit = .die x u) ∧ dieOf P ≠ k.home.toNat
      (away → ∀ i ∈ [Instr.bara rd n, .barw rd n, .baraw rd n], Raises i s .badaddr (n.zeroExtend 64)) ∧
      (¬ away →
        (stands → Answers (.barw rd n) s fun t => OnlyCore P s t ∧
          t.core P = { s.core P with run := .waiting (.barw rd n) .bar s.tick, barw := true }) ∧
        (¬ stands → Answers (.barw rd n) s (WritesOnly rd 1 (s.acquireBar P h.unit))) ∧
        ((s.core P).barw = true → ¬ stands → Answers (.baraw rd n) s (WritesOnly rd 1 (s.acquireBar P h.unit)))) ∧
      (¬ away → k.redun ≠ .pair →
        (stands → Answers (.bara rd n) s (WritesOnly rd (h.epoch.zeroExtend 64) s)) ∧
        (¬ stands → s.crossFull P (s.unitDie P h.unit) = true → (s.core P).barw = false →
          (Answers (.bara rd n) s fun t => WaitsAt (.bara rd n) .flight s t ∧ OnlyCore P s t) ∧
          Answers (.baraw rd n) s fun t => WaitsAt (.baraw rd n) .flight s t ∧ OnlyCore P s t) ∧
        (¬ stands → s.crossFull P (s.unitDie P h.unit) = false →
          let c := clockMax b.clock ((s.release (.core P) (barMask h.unit)).carried (.core P) (barMask h.unit))
          let arrived (t : State) : Prop :=
            t.handle P n = some { h with arrived := true, epoch := e } ∧
            (late → t.barUnit P h.unit =
              { b with next := b.next + 1, pending := b.pending + (s.tile P).pending, clock := c }) ∧
            (¬ late → t.barUnit P h.unit =
              { b with arrivals := b.arrivals + 1, pending := b.pending + (s.tile P).pending, clock := c }) ∧
            SameMemory s t ∧ SameOtherTiles P s t
          Answers (.bara rd n) s (fun t => arrived t ∧ GoesOn P (s.pc + 4) s t ∧ RegsAre P rd (e.zeroExtend 64) s t) ∧
          ((s.core P).barw = false → Answers (.baraw rd n) s fun t =>
            arrived t ∧ t.core P = { s.core P with run := .waiting (.baraw rd n) .bar s.tick, barw := true }))))

/-! ### Chains, leases and the schedule selector -/

/-- CHAIN and GCFG (R200, R204): the checks of the address, of which those of the tag and the alignment are GCFG's, the number that the chain takes and the place that it takes at the end
of its engine's queue with the mode and PKR of the core, and the wait while sixteen chains are queued.
CHWAIT, CHSTAT and CHKILL (R201 to R203).
BLOCK between two CBs, and that CHKILL ends its chains at once, are the model's readings (log entries 41 and 46). -/
def Obligations.Chains : Prop :=
  (∀ (s : State) (rd ra : BitVec 5) (e : Eng) (slot : BitVec 1),
    let P := s.cur
    let h := s.reg ra
    let issues (i : Instr) (e : Eng) (image : Option (BitVec 1)) (align : Nat) (spans : Bool) : Prop :=
      let x := s.engine P e
      let tagged := tagOf h = 0x00 ∨ tagOf h = 0xF0
      (¬ tagged → Raises i s .badaddr h) ∧
      (tagged → spans = true → spansZero h = false → Raises i s .badaddr h) ∧
      (tagged → (spans = true → spansZero h = true) → h.toNat % align ≠ 0 → Raises i s .align h) ∧
      (tagged → (spans = true → spansZero h = true) → h.toNat % align = 0 →
        (x.queue.length < 16 → Answers i s (WritesOnly rd (x.issued.zeroExtend 64) (s.modEngine P e fun x =>
          { x with
            issued := x.issued + 1,
            queue := x.queue ++ [{ num := x.issued, head := h, next := h, last := false, patch := 0,
                                   mode := (s.core P).fmode, pkr := (s.core P).pkr, gen := 0, image, modes := 0,
                                   need := (s.tile P).needK }] }))) ∧
        (16 ≤ x.queue.length → Answers i s fun t => OnlyCore P s t ∧
          t.core P = { s.core P with run := .waiting i .queue s.tick }))
    issues (.chain rd ra e) e none 256 true ∧ issues (.gcfg rd ra slot) .gr (some slot) 64 false) ∧
  (∀ (s : State) (rd ra : BitVec 5) (e : Eng),
    let P := s.cur
    let x := s.engine P e
    let n := (s.reg ra).extractLsb' 0 32
    let oldest := match x.queue with
      | c :: _ => c.num
      | [] => x.issued
    let issued := (n - x.issued).toInt < 0
    let ended := (n - oldest).toInt < 0
    let first := if ended then oldest else n
    (¬ issued → Answers (.chwait rd ra e) s (WritesOnly rd 2 s) ∧ Answers (.chkill rd ra e) s (WritesOnly rd 0 s)) ∧
    (issued → ¬ ended → Answers (.chwait rd ra e) s fun t => OnlyCore P s t ∧
      t.core P = { s.core P with run := .waiting (.chwait rd ra e) .chain s.tick }) ∧
    (issued → ended → n ∈ x.killed → Answers (.chwait rd ra e) s (WritesOnly rd 1 s)) ∧
    (issued → ended → n ∉ x.killed → Answers (.chwait rd ra e) s (WritesOnly rd 0 (s.follows (.core P) (agentOf P e)))) ∧
    (∃ w : Word, w.extractLsb' 32 32 = oldest ∧ w.extractLsb' 24 8 = 0 ∧ w.extractLsb' 16 8 = s.blockCode P e ∧
      w.extractLsb' 5 11 = 0 ∧ (w.extractLsb' 0 5).toNat = x.queue.length % 32 ∧
      Answers (.chstat rd e) s (WritesOnly rd w s)) ∧
    (issued →
      Answers (.chkill rd ra e) s fun t =>
        WritesOnly rd (BitVec.ofNat 64 (if (first - x.issued).toInt < 0 then
          (x.queue.filter fun c => decide (0 ≤ (c.num - first).toInt)).length else 0)) (s.killFrom P e first) t ∧
        (t.engine P e).queue = x.queue.filter fun c => decide ((c.num - first).toInt < 0)))

/-- MXLEASE (R90, R205): the old LEASEQ goes to rd; setq stores the new one, 16 where bits [6:0] lie outside 1 to 64; yield marks
the lease if the tile holds it; without setq a source register other than s0 is malformed.
Leases of a quad array (R90, R91): a ready CB is granted an idle array from the next tick on and otherwise asks; a lease ends when LEASEQ CBs
are done, on a yield, when the holder runs none and has none ready, or 65,536 unheld ticks after its grant (R467); it passes to the next position that asks,
which is granted eight ticks later, and a holder that still asks alone keeps it. -/
def Obligations.Leases : Prop :=
  (∀ (s : State) (rd ra : BitVec 5) (yield setq : BitVec 1),
    let P := s.cur
    let q := (s.reg ra).toNat % 128
    let u := if setq = 1 then s.modCore P fun c =>
        { c with leaseq := BitVec.ofNat 7 (if 1 ≤ q ∧ q ≤ 64 then q else 16) } else s
    (setq = 0 → ra ≠ 0 → ∀ w, encode (.mxlease rd ra yield setq) = some w →
      Raises (.mxlease rd ra yield setq) s .illop (w.zeroExtend 64)) ∧
    ((setq = 1 ∨ ra = 0) →
      (yield = 0 ∨ s.hasLease P = false →
        Answers (.mxlease rd ra yield setq) s (WritesOnly rd ((s.core P).leaseq.zeroExtend 64) u)) ∧
      (yield = 1 → s.hasLease P = true →
        Answers (.mxlease rd ra yield setq) s (WritesOnly rd ((s.core P).leaseq.zeroExtend 64)
          (u.modQuad (quadOf P) fun g => { g with yield := true }))))) ∧
  ((∀ (s : State) (P : TileId), s.leaseReady P = true → s.hasLease P = false →
    (s.quad (quadOf P)).wantsBy (posOf P) = false →
      ((s.quad (quadOf P)).lease = .idle → Answers (.leaseRequest P) s fun t => SameMemory s t ∧ t.tiles = s.tiles ∧
        t.quad (quadOf P) = (s.quad (quadOf P)).grant (posOf P) (s.tick + 1) ∧ t.hasLease P = true) ∧
      ((s.quad (quadOf P)).lease ≠ .idle → Answers (.leaseRequest P) s fun t => OnlyTile P { s with quads := t.quads } t ∧
        (t.quad (quadOf P)).wantsBy (posOf P) = true ∧ (t.quad (quadOf P)).lease = (s.quad (quadOf P)).lease)) ∧
  (∀ (s : State) (g : BitVec 8) (h : BitVec 2) (since n : Nat),
    let q := s.quad g.toNat
    let P := tileIn g.toNat h
    let passes (ready : Bool) (t : State) : Prop :=
      (∀ m, q.nextWant h = some m → (t.quad g.toNat).lease = .switch m s.tick ∧ (t.quad g.toNat).wantsBy h = ready) ∧
      (q.nextWant h = none → (t.quad g.toNat).lease = if ready then .held h s.tick 0 else .idle)
    q.lease = .held h since n →
      (s.mxRuns P true = false →
        ((s.core P).leaseq.toNat ≤ n ∨ q.yield = true ∨ (s.mxReady P = false ∧ s.mxRuns P false = false)) →
          Answers (.leaseEnd g) s fun t => SameMemory s t ∧ SameOtherTiles P s t ∧ passes (s.leaseReady P) t) ∧
      (s.passed (g.toNat / 64) since 65536 = true → Answers (.leaseTimeout g) s fun t => SameMemory s t ∧ SameOtherTiles P s t ∧
        passes (s.leaseReady P) t)) ∧
  (∀ (s : State) (g : BitVec 8) (m : BitVec 2) (since : Nat),
    let q := s.quad g.toNat
    q.lease = .switch m since → s.passed (g.toNat / 64) since 8 = true → Answers (.leaseHandover g) s fun t => SameMemory s t ∧
      SameOtherTiles (tileIn g.toNat m) s t ∧
      (t.quad g.toNat).lease = if q.wantsBy m then .held m s.tick 0
        else match q.nextWant m with
          | some k => .switch k s.tick
          | none => .idle))

/-- CHSEL (R86 to R88): PROBE selects the smallest class that covers the size, or the last with OVER; CUR reads the record of the
tile's phase; ADV takes the record of the next phase, forms it from the present class when SIZEVA is 0 and from the size read
otherwise, and waits while the tile that lags most is three phases behind, or while another tile's read of that size is not answered.
The moment at which a phase's size is read is the model's reading (log entry 67). -/
def Obligations.ScheduleSelector : Prop :=
  ∀ (s : State) (k : Task) (rd ra : BitVec 5),
    let P := s.cur
    let ph := (s.core P).phase
    let word (ph : BitVec 32) (above : Bool) (cls : Nat) : Word :=
      BitVec.ofNat 64 (ph.toNat * 2 ^ 32 + (if above then 256 else 0) + cls % 256)
    let size := (s.reg ra).toNat
    let advances (u t : State) (above : Bool) (cls : Nat) : Prop :=
      GoesOn P (s.pc + 4) (u.modCore P fun c => { c with phase := ph + 1 }) t ∧
      RegsAre P rd (word (ph + 1) above cls) s t ∧ SameMemory u t
    s.taskOf P = some k →
      (∀ c m, k.image.sizemax[c]? = some m → size ≤ m.toNat →
        (∀ j x, j < c → k.image.sizemax[j]? = some x → x.toNat < size) →
        Answers (.chselProbe rd ra) s (WritesOnly rd (word ph false c) s)) ∧
      ((∀ x ∈ k.image.sizemax, x.toNat < size) →
        Answers (.chselProbe rd ra) s (WritesOnly rd (word ph true (k.image.sizemax.length - 1)) s)) ∧
      (∀ r, k.phases.find? (fun r => r.phase == ph) = some r →
        Answers (.chselCur rd) s (WritesOnly rd (word ph r.ovr r.cls.toNat) s)) ∧
      (∀ r, k.phases.find? (fun r => r.phase == ph + 1) = some r →
        Answers (.chselAdv rd) s fun t => advances s t r.ovr r.cls.toNat) ∧
      (k.phases.find? (fun r => r.phase == ph + 1) = none →
        (3 ≤ s.phaseLag k ph → Answers (.chselAdv rd) s fun t => OnlyCore P s t ∧
          t.core P = { s.core P with run := .waiting (.chselAdv rd) .phase s.tick }) ∧
        (s.phaseLag k ph < 3 →
          (k.image.sizeva = 0 → ∀ r, k.phases.find? (fun r => r.phase == ph) = some r →
            Answers (.chselAdv rd) s fun t => advances s t r.ovr r.cls.toNat) ∧
          (k.image.sizeva ≠ 0 →
            (s.phaseAsked P k ph = true → Answers (.chselAdv rd) s fun t => OnlyCore P s t ∧
              t.core P = { s.core P with run := .waiting (.chselAdv rd) .phase s.tick }) ∧
            (s.phaseAsked P k ph = false → k.image.sizeva.toNat % 8 ≠ 0 → Raises (.chselAdv rd) s .align k.image.sizeva) ∧
            (s.phaseAsked P k ph = false → k.image.sizeva.toNat % 8 = 0 → s.localCheck P k.image.sizeva 8 = none → ∀ u l n,
              s.readVa s.me k.image.sizeva 8 .read true false = (u, .bytes l, n) →
                Answers (.chselAdv rd) s fun t =>
                  advances (u.acquireVa (.core P) u.me 0x18 k.image.sizeva) t (k.image.select (leNat l)).2 (k.image.select (leNat l)).1))))

/-! ### Pages, keys, time and system registers -/

/-- PGREQ, RESQ, PKRW, PKRR, RPLY and TLBINV (R206 to R210) outside PAIR: the checks of address, mode and fields; the answer 0 for a
resident page and the wait for the supervisor otherwise; the leaf that RESQ packs, from the owner's TLB or its page table, and 0 for an
address without one; the exchange of PKR; RPLY, which leaves no engine that had parked at the die parked and goes on; and the entries
of the owner's TLB and the copies of their pages on every die, none of which that the scope names remains, with nothing else changed.
What RESQ gives on a broken walk is the model's reading (log entry 40). -/
def Obligations.PagesAndKeys : Prop :=
  ∀ (s : State) (rd ra rb : BitVec 5) (scope : BitVec 2),
    let P := s.cur
    let a := s.reg ra
    let d := ownerOf a
    let ctx := (s.who P 0 0).ctx
    let inRange := a.extractLsb' 48 5 = 0
    let owned := tagOf a = 0x00 ∧ d < 4
    let packed (w p : Word) : Prop :=
      w.getLsbD 0 = p.getLsbD 0 ∧ w.getLsbD 1 = p.getLsbD 1 ∧ w.getLsbD 2 = p.getLsbD 2 ∧ w.getLsbD 3 = p.getLsbD 5 ∧
      w.extractLsb' 4 2 = p.extractLsb' 20 2 ∧ w.extractLsb' 6 5 = p.extractLsb' 7 5 ∧ w.extractLsb' 11 53 = 0
    (¬ owned → Raises (.pgreq rd ra) s .badaddr a ∧ Raises (.resq rd ra) s .badaddr a) ∧
    (owned → s.isPair P = false →
      (∀ p, inRange → (s.findPte d ctx a).1 = .leaf p → Answers (.pgreq rd ra) s (WritesOnly rd 0 s)) ∧
      ((¬ inRange ∨ ∀ p, (s.findPte d ctx a).1 ≠ .leaf p) →
        Answers (.pgreq rd ra) s fun t => OnlyCore P s t ∧
          t.core P = { s.core P with run := .waiting (.pgreq rd ra) .pgreq s.tick })) ∧
    (owned → inRange → ∀ e, (s.die d).tlbFind ctx a .read = some e →
      ∃ w : Word, packed w e.leaf ∧ Answers (.resq rd ra) s (WritesOnly rd w s)) ∧
    (owned → inRange → (s.die d).tlbFind ctx a .read = none →
      (∀ p, ((s.findPte d ctx a).1 = .leaf p ∨ (s.findPte d ctx a).1 = .nonres p) →
        ∃ w : Word, packed w p ∧ Answers (.resq rd ra) s (WritesOnly rd w s)) ∧
      (((s.findPte d ctx a).1 = .nomap ∨ (s.findPte d ctx a).1 = .malformed) → Answers (.resq rd ra) s (WritesOnly rd 0 s)) ∧
      ((s.findPte d ctx a).1 = .poisoned → Raises (.resq rd ra) s .poison (BitVec.ofNat 64 (a.toNat / 64 * 64)))) ∧
    (owned → ¬ inRange → Answers (.resq rd ra) s (WritesOnly rd 0 s)) ∧
    (Answers (.pkrw rd ra) s fun t => OnlyCore P s t ∧ RegsAre P rd (s.core P).pkr s t ∧
      GoesOn P (s.pc + 4) (s.modCore P fun c => { c with pkr := a }) t) ∧
    Answers (.pkrr rd) s (WritesOnly rd (s.core P).pkr s) ∧
    (s.kmode = false → ∀ i ∈ [Instr.rply, .tlbinv ra rb scope], ∀ w, encode i = some w →
      Raises i s .illop (w.zeroExtend 64)) ∧
    (s.kmode = true →
      ((s.die (dieOf P)).park = [] → Jumps .rply s (s.pc + 4)) ∧
      ((s.core P).run = .running → Answers .rply s fun t => (t.core P).pc = s.pc + 4 ∧ SameRegs P s t ∧
        ∀ p ∈ (s.die (dieOf P)).park, p.host = none → ∀ e, srcEng p.src = some e → (t.engine p.tile e).block ≠ .parked) ∧
      ((scope = 3 ∨ (scope = 2 ∧ rb ≠ 0)) → ∀ w, encode (.tlbinv ra rb scope) = some w →
        Raises (.tlbinv ra rb scope) s .illop (w.zeroExtend 64)) ∧
      (scope ≠ 3 → (scope = 2 → rb = 0) → ¬ owned → Raises (.tlbinv ra rb scope) s .badaddr a) ∧
      (scope ≠ 3 → (scope = 2 → rb = 0) → owned →
        let ctx := (s.reg rb).extractLsb' 0 12
        let named (e : TlbEntry) : Prop := (scope = 0 ∧ e.hits ctx a = true) ∨ (scope = 1 ∧ e.ctx = ctx) ∨ scope = 2
        Answers (.tlbinv ra rb scope) s fun t => OnlyCore P { s with dies := t.dies } t ∧ GoesOn P (s.pc + 4) s t ∧
          SameRegs P s t ∧
          (∀ e, e ∈ (t.die d).tlb ↔ e ∈ (s.die d).tlb ∧ ¬ named e) ∧
          (∀ h l, h < 4 → l ∈ (t.die h).rlc → l ∈ (s.die h).rlc ∧ (ownerOf l.line = d → l.ctx = ctx → scope = 0 →
            ∀ e ∈ (s.die d).tlb, e.hits ctx a = true → e.hits ctx l.line = false)) ∧
          (∀ h l, h < 4 → l ∈ (t.die h).rlc → ownerOf l.line = d → ¬ (scope = 1 ∧ l.ctx = ctx) ∧ scope ≠ 2)))

/-- RDTIME outside record and replay, RDRCC, RDTICK and WAITT (R211, R212). -/
def Obligations.Time : Prop :=
  ∀ (s : State) (rd ra : BitVec 5),
    let P := s.cur
    let a := s.reg ra
    (s.recMode P = 0 → Answers (.rdtime rd) s
      (WritesOnly rd s.timeNs (s.modCore P fun c => { c with timeReads := c.timeReads + 1 }))) ∧
    (s.isStatic P = false → Answers (.rdrcc rd) s (WritesOnly rd 0 s)) ∧
    (∀ k, s.taskOf P = some k → k.static = true → Answers (.rdrcc rd) s (WritesOnly rd (BitVec.ofNat 64 (s.rcc k)) s)) ∧
    Answers (.rdtick rd) s (WritesOnly rd (BitVec.ofNat 64 s.tick) s) ∧
    (a.toNat ≤ s.timeNs.toNat → Answers (.waitt rd ra 0) s (WritesOnly rd (s.timeNs - a) s)) ∧
    (s.timeNs.toNat < a.toNat → Answers (.waitt rd ra 0) s fun t => OnlyCore P s t ∧
      t.core P = { s.core P with run := .waiting (.waitt rd ra 0) .time s.tick }) ∧
    (s.isStatic P = false → ∀ w, encode (.waitt rd ra 1) = some w →
      Raises (.waitt rd ra 1) s .illop (w.zeroExtend 64)) ∧
    (∀ k, s.taskOf P = some k → k.static = true →
      (a.toNat ≤ s.rcc k → Answers (.waitt rd ra 1) s (WritesOnly rd (BitVec.ofNat 64 (s.rcc k - a.toNat)) s)) ∧
      (s.rcc k < a.toNat → Answers (.waitt rd ra 1) s fun t => OnlyCore P s t ∧
        t.core P = { s.core P with run := .waiting (.waitt rd ra 1) .time s.tick }))

/-- MFS and MTS over every index of R95: what each register reads as, what a write of each stores, and that an index which is not
listed, a write of a register that is read-only, and a write of 6 or 7 to RND raise ILLOP and leave the register. -/
def Obligations.SystemRegisters : Prop :=
  ∀ (s : State) (k : Task) (rd ra : BitVec 5) (x : BitVec 12),
    let P := s.cur
    let c := s.core P
    let v := s.reg ra
    let reads : List (BitVec 12 × Word) :=
      [(0x000, c.trapvec), (0x001, c.trappc), (0x002, c.trapcause.zeroExtend 64), (0x003, c.trapval),
       (0x010, c.fmode.zeroExtend 64), (0x011, c.wto), (0x012, c.resf.zeroExtend 64), (0x013, c.semov), (0x020, c.pkr),
       (0x021, k.ctx.zeroExtend 64), (0x022, (s.tile P).vt.zeroExtend 64), (0x023, if k.image.kmode then 1 else 0),
       (0x030, c.leaseq.zeroExtend 64), (0x031, c.phase.zeroExtend 64)]
    let writes : List (BitVec 12 × Core) :=
      [(0x000, { c with trapvec := v - BitVec.ofNat 64 (v.toNat % 4) }), (0x001, { c with trappc := v }),
       (0x011, { c with wto := BitVec.ofNat 64 (v.toNat / 2 ^ 63 * 2 ^ 63 + v.toNat % 2 ^ 32) }),
       (0x012, { c with resf := c.resf &&& ~~~ v.extractLsb' 0 2 }), (0x013, { c with semov := c.semov &&& ~~~ v }),
       (0x030, { c with leaseq := BitVec.ofNat 7 (if 1 ≤ v.toNat % 128 ∧ v.toNat % 128 ≤ 64 then v.toNat % 128 else 16) })]
    s.taskOf P = some k →
      (∀ p ∈ reads, Answers (.mfs rd p.1) s (WritesOnly rd p.2 s)) ∧
      ((∀ p ∈ reads, p.1 ≠ x) → ∀ w, encode (.mfs rd x) = some w → Raises (.mfs rd x) s .illop (w.zeroExtend 64)) ∧
      (∀ p ∈ writes, Answers (.mts ra p.1) s (JumpsOnly (s.pc + 4) (s.modCore P fun _ => p.2))) ∧
      (v.toNat % 8 < 6 → Answers (.mts ra 0x010) s (JumpsOnly (s.pc + 4) (s.modCore P fun c =>
        { c with fmode := BitVec.ofNat 6 (v.toNat % 64) }))) ∧
      (((∀ p ∈ writes, p.1 ≠ x) ∧ (x = 0x010 → 6 ≤ v.toNat % 8)) → ∀ w, encode (.mts ra x) = some w →
        Raises (.mts ra x) s .illop (w.zeroExtend 64))

/-- TRAP and BRK with TRAPVEC not 0 (R100, R214): TRAPPC takes PC, TRAPCAUSE the cause, TRAPVAL the immediate, and the core goes on
at TRAPVEC with no general register saved or changed. With TRAPVEC 0, and for SVC (R215), the cause goes to the supervisor and the
trap registers keep their values. TRET (R216) sets NextPC to TRAPPC and TRAPCAUSE and TRAPVAL to 0 in K mode, and raises ILLOP in U
mode.
That a target in TRAPVEC or TRAPPC is checked at its fetch is the model's reading (log entry 47). -/
def Obligations.TrapsAndReturn : Prop :=
  ∀ (s : State) (e : BitVec 12) (x : BitVec 7),
    let P := s.cur
    let c := s.core P
    let enters (i : Instr) (code : Byte) (val : Word) : Prop := Answers i s fun t => OnlyCore P s t ∧ t.core P =
      { c with trappc := s.pc, trapcause := code, trapval := val, pc := c.trapvec, run := .running, instrs := c.instrs + 1,
               busy := (t.core P).busy }
    (c.trapvec ≠ 0 → enters (.trap e) 0x10 (e.zeroExtend 64) ∧ enters (.brk x) 0x11 (x.zeroExtend 64)) ∧
    (c.trapvec = 0 → Raises (.trap e) s .trap (e.zeroExtend 64) ∧ Raises (.brk x) s .brk (x.zeroExtend 64)) ∧
    Raises (.svc x) s .svc (x.zeroExtend 64) ∧
    (s.kmode = true → Answers .tret s fun t => OnlyCore P s t ∧ t.core P =
      { c with pc := c.trappc, trapcause := 0, trapval := 0, run := .running, instrs := c.instrs + 1,
               busy := (t.core P).busy }) ∧
    (s.kmode = false → ∀ w, encode .tret = some w → Raises .tret s .illop (w.zeroExtend 64))

/-- IDLE, HALT outside PAIR, RDID and a word that no encoding assigns (R121, R217 to R219): the illegal word raises ILLOP with itself
as the value and changes no register. -/
def Obligations.StoppingAndIdentity : Prop :=
  ∀ (s : State) (rd : BitVec 5) (x : BitVec 7) (w : InstrWord),
    let P := s.cur
    (Answers .idle s fun t => OnlyTile P s t ∧ t.tile P = { s.tile P with
      wake := false, core := { s.core P with run := .waiting .idle .idle s.tick } }) ∧
    (s.isPair P = false → Answers .halt s fun t => OnlyCore P s t ∧
      t.core P = { s.core P with run := .halted, instrs := (s.core P).instrs + 1 }) ∧
    Answers (.rdid rd 0) s (WritesOnly rd (BitVec.ofNat 64 P.toNat) s) ∧
    Answers (.rdid rd 1) s (WritesOnly rd (BitVec.ofNat 64 (P.toNat / 256)) s) ∧
    Answers (.rdid rd 2) s (WritesOnly rd ((s.tile P).vt.zeroExtend 64) s) ∧
    Answers (.rdid rd 3) s (WritesOnly rd 0x4C59038400000001 s) ∧
    (4 ≤ x.toNat → ∀ v, encode (.rdid rd x) = some v → Raises (.rdid rd x) s .illop (v.zeroExtend 64)) ∧
    Raises (.illegalEncoding w) s .illop (w.zeroExtend 64)

/-! ### Control blocks -/

/-- An iteration of any control block that runs one iteration after another (R44, R276, R285): when its accesses complete, the
instruction answers the state with the iteration counted; when one parks or faults, the engine is held with nothing counted. The
matrix array's CBs need their lease, and a product also planes that no load fills.
The last iteration of CRYS in any engine passes its pattern through the engine's datapath, writes nothing to memory, and forms the hash of
every byte so far; with a crystal that differs, the CB raises CRYSTAL (R283, R295, R329, R369).
The Siphon's control blocks complete on windows in the own tile memory (R354 to R362): RT.ROUTE reads the scores of its tokens and writes
choice rows, experts and lists; RT.APPORT applies the rule of R93 to the counts of the experts; RT.LISTS writes one work record for each
pool cluster in each pass, or raises CBFORMAT at a bad record and BADADDR at a table that is too short.
That a bad record comes before the length of the table, and that the record of an expert with no tokens and no clusters is exempt, are the
model's reading (log entry 57). -/
def Obligations.EngineIterations : Prop :=
  ∀ (s : State) (P : TileId) (e : Eng) (j : Job),
    let runs (i : Instr) (e : Eng) (op : Nat) (iter : State → Job → Eio Done) : Prop :=
      s.loops P e op j →
        (∀ u d, iter (j.fresh s) j = .ok u d → Answers i s fun t => t = j.advance (j.keepLines u) d) ∧
        (∀ u, iter (j.fresh s) j = .held u → Answers i s fun t => t = j.unshare u)
    let x := s.engine P e
    let serves := (s.die (dieOf P)).siphon.serving = some P
    let siphons (op : Nat) (p : Shape → Prop) : Prop :=
      e = .rt → serves → s.clean → s.lastStep P .rt op j → (∀ a ∈ j.cb.siphonBases, foreignBase P a = false) →
        ∀ sh, x.cur.bind (fun c => shapeOf c.shape 1) = some sh → p sh
    let expert (k : Nat) := gTile P.toNat (offOf j.cb.w3.base + 16 * k)
    (runs (.stRed P) .st 0x23 iterStRed ∧ runs (.grCfg P) .gr 0x40 iterCfg ∧
      (s.unitReady P .mx = true → (s.engine P .mx).started = true →
        runs (.mxWload P) .mx 0x30 iterWload ∧ runs (.mxSacc P) .mx 0x33 iterSacc ∧ runs (.mxAclr P) .mx 0x34 iterAclr ∧
        runs (.mxAdrn P) .mx 0x35 iterAdrn ∧
        (s.planeBusy P j.cb = false →
          runs (.mxMma P) .mx 0x31 iterProduct ∧ runs (.mxMmb P) .mx 0x32 iterProduct))) ∧
    ((e = .rt → serves) → (e = .mx → s.unitReady P .mx = true) → s.loops P e 0x04 j → j.cb.rwin = 0xFF → x.redo = 0 →
      x.partIn = [] → s.unacked P e = false → nextTuple j.cb.bounds j.idx = none →
        let out := j.crysPasses (if e = .gr then 16 else 1) (j.gen s)
        let hash := if j.cb.kat then fnv x.hash out.1 else x.hash
        Answers (.crys P e) s fun t => SameMemory s t ∧ EngineOnly P s t ∧ EndsBody P e j hash s t ∧ j.gen t = out.2 ∧
          (t.engine P e).block = (if j.cb.kat = true ∧ hash ≠ j.cb.plist then Block.event else Block.none)) ∧
    siphons 0x50 (fun sh =>
      let tokens := j.cb.opb.toNat
      let n := unitOf j.cb.w0.fmt
      let at_ (t k : Nat) : Int := (offOf j.cb.w0.base : Int) + sh.srow * t + sh.sexp * k
      ownSpan j.cb.w0.base 0 → ownSpan j.cb.w1.base (sh.crow * tokens) → ownSpan j.cb.w2.base (4 * sh.topk * tokens) → ownSpan j.cb.w3.base (16 * sh.nexp) →
      16 * sh.topk ≤ sh.crow → 0 < n → (∀ t k, t < tokens → k < sh.nexp → 0 ≤ at_ t k ∧ at_ t k + n ≤ 2 ^ 19) →
        let r := sh.routing ((List.range tokens).map fun t => (List.range sh.nexp).map fun k =>
          scoreBits j.cb.w0.fmt (s.bytes (gTile P.toNat (at_ t k).toNat) n))
        Answers (.rtRoute P) s (EnginePuts j .rt
          (recordsAt P j.cb.w1.base (atSteps sh.crow r.recs) ++ recordsAt P j.cb.w3.base (atSteps 16 r.experts) ++
            recordsAt P j.cb.w2.base r.lists) r.result s)) ∧
    siphons 0x51 (fun sh =>
      ownSpan j.cb.w1.base (8 * sh.nexp) → ownSpan j.cb.w3.base (16 * sh.nexp) →
        let r := apportion ((List.range sh.nexp).map fun k => s.num (expert k) 4) j.cb.opb.toNat
        Answers (.rtApport P) s
          (EnginePuts j .rt (recordsAt P j.cb.w1.base (atSteps 8 (r.1.map Share.bytes))) (BitVec.ofNat 64 r.2) s)) ∧
    siphons 0x52 (fun sh =>
      let pool := j.cb.opb.toNat
      let share (k : Nat) := gTile P.toNat (offOf j.cb.w1.base + 8 * k)
      let as := (List.range sh.nexp).map fun k => Share.of (s.bytes (share k) 8)
      let es := (List.range sh.nexp).map fun k => (s.num (expert k) 4, s.num (expert k + 4) 4)
      let bad (k : Nat) : Prop := ∃ a c, as[k]? = some a ∧ es[k]? = some c ∧ badShare pool c.1 a = true
      ownSpan j.cb.w1.base (8 * sh.nexp) → ownSpan j.cb.w3.base (16 * sh.nexp) → ownSpan j.cb.w2.base (32 * workCount pool as) →
        (∀ k, bad k → (∀ i, i < k → ¬ bad i) → Answers (.rtLists P) s
          (EngineRaises j .cbformat (j.cb.w1.base + BitVec.ofNat 64 (8 * k)) s)) ∧
        ((∀ k, ¬ bad k) →
          (j.cb.opc.toNat < workCount pool as → Answers (.rtLists P) s
            (EngineRaises j .badaddr (j.cb.w2.base + BitVec.ofNat 64 (32 * j.cb.opc.toNat)) s)) ∧
          (workCount pool as ≤ j.cb.opc.toNat → Answers (.rtLists P) s
            (EnginePuts j .rt (recordsAt P j.cb.w2.base (atSteps 32 (workRecs j.cb.w0.base pool as es)))
              (BitVec.ofNat 64 (workCount pool as)) s))))

/-- The loop nest visits its iterations in flattened order, level 0 innermost, and ends after the last (R276). A step of LD.COPY, LD.CVT,
LD.ALIGN, LD.GATHER, LD.CONV, LD.FILL, ST.COPY, ST.CVT and ST.SCAT, whichever iteration it is at and with ring windows too, stores what
each iteration that it serves stores, and the nest goes on at the next (R36, R279, R296 to R300). A step of ST.MIGR before the last copies
its line (R303).
That several iterations share a step is the model's choice (log entry 51). -/
def Obligations.LoopNests : Prop :=
  (∀ (bounds idx : List Nat), bounds.length = idx.length → (∀ (k b i : Nat), bounds[k]? = some b → idx[k]? = some i → i < b) →
    (∀ i, nextTuple bounds idx = some i → flatOf bounds i = flatOf bounds idx + 1 ∧ i.length = idx.length ∧
      ∀ (k b x : Nat), bounds[k]? = some b → i[k]? = some x → x < b) ∧
    (nextTuple bounds idx = none → flatOf bounds idx + 1 = bounds.foldl (· * ·) 1) ∧
    tupleOf bounds (flatOf bounds idx) = idx) ∧
  (∀ (s : State) (P : TileId) (j : Job),
    Memory.wf s.mem = true → s.clean → (∃ l n, j.moves s l n) →
      ∀ x ∈ [(Instr.ldCopy P, Eng.ld, 0x10), (.ldCvt P, .ld, 0x11), (.ldAlign P, .ld, 0x12), (.ldGather P, .ld, 0x13),
             (.ldConv P, .ld, 0x14), (.ldFill P, .ld, 0x15), (.stCopy P, .st, 0x20), (.stCvt P, .st, 0x21), (.stScat P, .st, 0x22)],
        s.someStep P x.2.1 x.2.2 j → Answers x.1 s (EngineServes j x.2.1 s)) ∧
  ∀ (s : State) (P : TileId) (j : Job) (i : List Nat),
    let k := j.idx.getD 0 0
    let src := gDie j.cb.migrDie (j.cb.w0.base.toNat + 64 * k)
    let dst := gDie j.cb.migrDie (j.cb.w1.base.toNat + 64 * k)
    let barred (w : Window) : Prop := (s.die j.cb.migrDie).quarantined (w.base.toNat + 64 * k) = true
    Memory.wf s.mem = true → s.failing = [] → s.loops P .st 0x24 j → j.cb.rwin = 0xFF → j.cb.kat = false → (s.engine P .st).redo = 0 →
    nextTuple j.cb.bounds j.idx = some i → j.cb.opb.extractLsb' 0 16 = 0 →
    s.poisonIn src 64 = false → ¬ barred j.cb.w0 → ¬ barred j.cb.w1 → Answers (.stMigr P) s fun t =>
      t.bytes dst 64 = s.bytes src 64 ∧ SameBytesOutside dst 64 s t ∧ EngineOnly P s t ∧
      (t.engine P .st).idx = idxVec i ∧ (t.engine P .st).stage = .body ∧ (t.engine P .st).cur = (s.engine P .st).cur

/-- The last iteration of a load CB between windows in the own tile memory or accumulator quarter (R276, R282, R296 to R300): what
each stores where its destination window lies, that every other byte stays, and its result word. -/
def Obligations.StreamLoads : Prop :=
  ∀ (s : State) (P : TileId) (j : Job) (a b c : Nat),
    let count := (s.engine P .ld).count
    let one : Word := BitVec.ofNat 64 (count + 1)
    let row := j.cb.rowBytes j.cb.w0.fmt
    let unit := unitOf j.cb.w0.fmt
    let x := intOf (8 * unitOf j.cb.w2.fmt) true (s.num c (unitOf j.cb.w2.fmt))
    Memory.wf s.mem = true → s.failing = [] → j.cb.port = 0 →
      (s.lastStep P .ld 0x10 j → j.reaches s j.cb.w0 0 unit a → j.reaches s j.cb.w1 0 unit b → s.poisonIn a unit = false →
        Answers (.ldCopy P) s (EngineStores j .ld b (s.bytes a unit) one s)) ∧
      (s.lastStep P .ld 0x11 j → j.reaches s j.cb.w0 0 j.cb.cvtIn a → j.reaches s j.cb.w1 0 j.cb.cvtOut b →
        s.poisonIn a j.cb.cvtIn = false →
        let out := convertBytes j.cb.w0.fmt j.cb.w1.fmt j.mode (j.gen s) (s.bytes a j.cb.cvtIn)
        out.1.length = j.cb.cvtOut →
          Answers (.ldCvt P) s fun t => EngineStores j .ld b out.1 one s t ∧ j.gen t = out.2) ∧
      (s.lastStep P .ld 0x12 j → j.reaches s j.cb.w0 0 (48 * unit) a → j.reaches s j.cb.w1 0 96 b → j.reaches s j.cb.w2 0 1 c →
        (c < b ∨ b + 96 ≤ c) → s.poisonIn a (48 * unit) = false →
        let vs := alignValues j.cb.w0.fmt (s.bytes a (48 * unit))
        vs.length = 48 → Answers (.ldAlign P) s fun t =>
          t.bytes b 96 = vs.flatMap (fun v => leBytes 2 (alignElem (alignScale vs) v)) ∧
          t.bytes c 1 = [BitVec.ofNat 8 (alignScale vs)] ∧
          (∀ y, (y < b ∨ b + 96 ≤ y) → y ≠ c → memGet t.mem y = memGet s.mem y) ∧ EngineOnly P s t ∧
          EndsBody P .ld j one s t) ∧
      (s.lastStep P .ld 0x13 j → j.reaches s j.cb.w2 0 (unitOf j.cb.w2.fmt) c → s.poisonIn c (unitOf j.cb.w2.fmt) = false →
        j.reaches s j.cb.w1 0 row b →
        (j.cb.inRows x = true → j.reaches s j.cb.w0 (j.cb.rowOff x) row a → s.poisonIn a row = false →
          Answers (.ldGather P) s (EngineStores j .ld b (s.bytes a row) (BitVec.ofNat 64 count) s)) ∧
        (j.cb.inRows x = false → j.cb.opa.getLsbD 3 = true →
          let pad := (List.replicate (j.cb.parm.extractLsb' 0 16).toNat j.cb.w0.padUnit).flatten
          pad.length = row → Answers (.ldGather P) s (EngineStores j .ld b pad one s)) ∧
        (j.cb.inRows x = false → j.cb.opa.getLsbD 3 = false →
          Answers (.ldGather P) s (EngineRaises j .badaddr (BitVec.ofInt 64 x) s))) ∧
      (s.lastStep P .ld 0x14 j → j.reaches s j.cb.w1 0 unit b →
        (j.convPads = true → j.cb.w0.padUnit.length = unit →
          Answers (.ldConv P) s (EngineStores j .ld b j.cb.w0.padUnit one s)) ∧
        (j.convPads = false →
          j.reaches s j.cb.w0 ((List.range 4).foldl (fun (t : Int) (k : Nat) => t + j.convCoord k * j.cb.axisStride k) 0) unit a →
          s.poisonIn a unit = false →
          Answers (.ldConv P) s (EngineStores j .ld b (s.bytes a unit) (BitVec.ofNat 64 count) s))) ∧
      (s.lastStep P .ld 0x15 j → j.reaches s j.cb.w1 0 (unitOf j.cb.w1.fmt) b → j.cb.fillUnit.length = unitOf j.cb.w1.fmt →
        Answers (.ldFill P) s (EngineStores j .ld b j.cb.fillUnit one s))

/-- The last iteration of a load whose destination is an input port stores nothing: its bytes join those that the port of the run and the
engine hold for it, in order, and the CB waits for the grid to take them (R280, R337).
When a load that delivers to a port waits for a run, and when it ends, are the model's readings (log entry 55). -/
def Obligations.LoadsToPorts : Prop :=
  ∀ (s : State) (P : TileId) (j : Job) (a : Nat),
    let stream (s : State) : List Byte :=
      (match (s.tile P).grid.run with
        | some r => (r.inp[j.cb.inPort]).flatMap fun p => leBytes 32 p.data.toNat
        | none => []) ++ (s.engine P .ld).partIn.map fun x => x.1
    let unit := unitOf j.cb.w0.fmt
    let appends (i : Instr) (out : List Byte) : Prop :=
      Answers i s fun t => SameMemory s t ∧ EngineOnly P s t ∧ stream t = stream s ++ out ∧ (t.engine P .ld).tail = true ∧
        (t.engine P .ld).count = (s.engine P .ld).count + 1
    s.failing = [] → j.cb.port ≠ 0 → j.cb.rwin = 0xFF → j.cb.kat = false → j.cb.hz = false → (s.engine P .ld).skip = 0 →
      (s.engine P .ld).redo = 0 → (s.engine P .ld).lines = [] → nextTuple j.cb.bounds j.idx = none →
      (s.loops P .ld 0x10 j → j.reaches s j.cb.w0 0 unit a → s.poisonIn a unit = false →
        appends (.ldCopy P) (s.bytes a unit)) ∧
      (s.loops P .ld 0x11 j → j.reaches s j.cb.w0 0 j.cb.cvtIn a → s.poisonIn a j.cb.cvtIn = false →
        appends (.ldCvt P) (convertBytes j.cb.w0.fmt j.cb.w1.fmt j.mode (j.gen s) (s.bytes a j.cb.cvtIn)).1) ∧
      (s.loops P .ld 0x15 j → appends (.ldFill P) j.cb.fillUnit)

/-- The last iteration of a store CB between windows in the own tile memory or accumulator quarter, and of ST.MIGR between frames
of one die without a key, where a quarantined source ends the copy and a quarantined destination takes nothing (R249, R282, R296,
R298, R301, R303). A reduction stores each element combined with the one that was there.
What ST.RED stages and ST.MIGR reports is the model's reading (log entry 50). -/
def Obligations.StreamStores : Prop :=
  ∀ (s : State) (P : TileId) (j : Job) (a b c : Nat),
    let count := (s.engine P .st).count
    let one : Word := BitVec.ofNat 64 (count + 1)
    let row := j.cb.rowBytes j.cb.w0.fmt
    let unit := unitOf j.cb.w0.fmt
    let fresh := ∀ o, ∀ r ∈ s.doneTable o, r.src ≠ s.srcOf P
    Memory.wf s.mem = true → s.failing = [] →
      (j.cb.port = 0 → s.lastStep P .st 0x20 j → j.reaches s j.cb.w0 0 unit a → j.reaches s j.cb.w1 0 unit b →
        s.poisonIn a unit = false → Answers (.stCopy P) s (EngineStores j .st b (s.bytes a unit) one s)) ∧
      (j.cb.port = 0 → s.lastStep P .st 0x21 j → j.reaches s j.cb.w0 0 j.cb.cvtIn a → j.reaches s j.cb.w1 0 j.cb.cvtOut b →
        s.poisonIn a j.cb.cvtIn = false →
        let out := convertBytes j.cb.w0.fmt j.cb.w1.fmt j.mode (j.gen s) (s.bytes a j.cb.cvtIn)
        out.1.length = j.cb.cvtOut →
          Answers (.stCvt P) s fun t => EngineStores j .st b out.1 one s t ∧ j.gen t = out.2) ∧
      (j.cb.port = 0 → s.lastStep P .st 0x22 j → 0 < row → j.reaches s j.cb.w1 0 (unitOf j.cb.w1.fmt) c →
        s.poisonIn c (unitOf j.cb.w1.fmt) = false → j.reaches s j.cb.w0 0 row a → s.poisonIn a row = false →
        let x := intOf (8 * unitOf j.cb.w1.fmt) true (s.num c (unitOf j.cb.w1.fmt))
        (j.cb.inRows x = true → j.reaches s j.cb.w2 (j.cb.rowOff x) row b →
          Answers (.stScat P) s (EngineStores j .st b (s.bytes a row) (BitVec.ofNat 64 count) s)) ∧
        (j.cb.inRows x = false → j.cb.opa.getLsbD 3 = true →
          Answers (.stScat P) s (EngineStores j .st b [] one s)) ∧
        (j.cb.inRows x = false → j.cb.opa.getLsbD 3 = false →
          Answers (.stScat P) s (EngineRaises j .badaddr (BitVec.ofInt 64 x) s))) ∧
      (j.cb.port = 0 → s.lastStep P .st 0x23 j → s.recMode P = 0 → fresh → s.engTagsFull P (dieOf P) = false →
        (s.engine P .st).staging = [] →
        j.cb.opa.getLsbD 8 = false → j.reaches s j.cb.w0 0 unit a → j.reaches s j.cb.w1 0 unit b →
        s.poisonIn a unit = false → s.poisonIn b unit = false → b % 64 + unit ≤ 64 →
        ∀ f, scalarFmt j.cb.w1.fmt = some f → Answers (.stRed P) s fun t =>
          t.num b unit = redAll f (j.cb.opa.extractLsb' 3 2).toNat (j.cb.opa.extractLsb' 5 3) (8 * unit / f.width)
            (s.num b unit) (s.num a unit) % 2 ^ (8 * unit) ∧
          SameBytesOutside b unit s t ∧ EngineOnly P s t ∧ EndsBody P .st j (BitVec.ofNat 64 count) s t) ∧
      (s.lastStep P .st 0x24 j → j.cb.opb.extractLsb' 0 16 = 0 →
        let i := j.idx.getD 0 0
        let src := gDie j.cb.migrDie (j.cb.w0.base.toNat + 64 * i)
        let dst := gDie j.cb.migrDie (j.cb.w1.base.toNat + 64 * i)
        let barred (w : Window) : Prop := (s.die j.cb.migrDie).quarantined (w.base.toNat + 64 * i) = true
        let fails := s.poisonIn src 64 = true ∨ barred j.cb.w0
        (¬ fails → ¬ barred j.cb.w1 →
          Answers (.stMigr P) s (EngineStores j .st dst (s.bytes src 64) (j.cb.bnd[0].zeroExtend 64) s)) ∧
        (¬ fails → barred j.cb.w1 → Answers (.stMigr P) s fun t => SameMemory s t ∧ EngineOnly P s t ∧
          EndsBody P .st j (j.cb.bnd[0].zeroExtend 64) s t) ∧
        (fails → Answers (.stMigr P) s fun t => SameMemory s t ∧ EngineOnly P s t ∧
          EndsBody P .st j (BitVec.ofNat 64 (2 ^ 63 + i)) s t ∧
          (t.die j.cb.migrDie).reports = (s.die j.cb.migrDie).reports ++ [({
            seqno := 0, cause := 0, src := 7, ptile := BitVec.ofNat 10 (256 * j.cb.migrDie), ctx := (s.who P 0 0).ctx,
            val := BitVec.ofNat 64 (2 ^ 63 + 5 * 2 ^ 32 + i), loc := j.addr }, s.tick)]))

/-- CB_NOP, PATCH and MODE (R288, R289, R294): the result words, the mode that MODE gives its chain, and the seeds that it gives the
chain's generator or the lanes of the grid.
PATCH_LIST, once every write of the CB has been performed, with its list, sources and targets in the own tile memory (R290 to R293):
each stored field takes its source value, kept to MAX, times MULT plus ADD, little-endian; the target chain's patch counter goes up by 1,
saturating, or the engine waits for a target chain that has not been launched. The first value above MAX without CLAMP raises PATCHOOR at
its descriptor, and nothing is stored.
The address that a fault of a patch list carries is the model's reading (log entry 49). -/
def Obligations.CommonBlocksAndPatches : Prop :=
  (∀ (s : State) (P : TileId) (e : Eng) (j : Job) (c : Chain) (r : List Chain),
    let x := s.engine P e
    let seed := j.cb.opc ++ j.cb.opb
    j.cb.kat = false → x.queue = c :: r →
      (s.inBody P e 0x01 = some j → Answers (.cbNop P e) s fun t =>
        OnlyTile P s t ∧ SameRegs P s t ∧ EndsBody P e j (j.cb.opc.zeroExtend 64) s t) ∧
      (s.inBody P e 0x03 = some j → Answers (.patch P e) s fun t =>
        OnlyTile P s t ∧ SameRegs P s t ∧ EndsBody P e j 0 s t) ∧
      (s.inBody P e 0x02 = some j → (j.cb.opa.getLsbD 6 = false ∨ s.recMode P = 0) → Answers (.cbMode P e) s fun t =>
        OnlyTile P s t ∧ SameRegs P s t ∧ EndsBody P e j 0 s t ∧
        (t.engine P e).queue = { c with
          mode := j.cb.opa.extractLsb' 0 6, modes := c.modes + 1,
          gen := if j.cb.opa.getLsbD 6 = true ∧ e ≠ .gr then seed else c.gen } :: r ∧
        (j.cb.opa.getLsbD 6 = true → e = .gr → ∀ (f : Fin 16) (l : Fin 8), ((t.tile P).grid.fes[f]).gen[l] =
          seed ^^^ (0x9E3779B97F4A7C15 * BitVec.ofNat 64 (1 + 8 * f.val + l.val))))) ∧
  (∀ (s : State) (P : TileId) (e te : Eng) (j : Job) (thead : Word) (ps : List Patch) (c : Chain),
    let at_ (a : Word) := gTile P.toNat (offOf a)
    let q := (s.engine P te).queue
    let val (p : Patch) : Nat :=
      if p.skind = 0 then p.src.toNat else if p.skind = 2 then (s.engine P e).result.toNat else s.num (at_ p.src) 8
    let kept (p : Patch) : Nat := if p.clamp then min (val p) p.max else val p
    let target (p : Patch) : Word := (if thead = 0 then j.addr else thead) + BitVec.ofInt 64 (256 * p.toff + p.foff)
    let beyond (k : Nat) : Prop := ∃ p, ps[k]? = some p ∧ p.clamp = false ∧ p.max < val p
    let stored : List (Nat × List Byte) :=
      ps.map fun p => (at_ (target p), leBytes p.wid (((kept p * p.mult : Nat) + p.add) % (2 ^ (8 * p.wid) : Int)).toNat)
    let counts (t : State) : Prop := (t.engine P e).stage = .signal ∧
      ∀ k d, q[k]? = some d → ∃ d', (t.engine P te).queue[k]? = some d' ∧ d' = { d with patch := d'.patch, need := d'.need } ∧
        (d.num ≠ c.num → d' = d) ∧
        (d.num = c.num → (thead ≠ 0 ∨ k = 0) → d'.patch.toNat = min (d.patch.toNat + 1) (2 ^ 16 - 1))
    s.clean → s.job P e = some j → (s.engine P e).stage = .patch → (s.engine P e).block = .none → s.unacked P e = false →
    s.isPair P = false → ownSpan j.cb.plist (32 + 32 * ps.length) →
    patchHeader (s.bytes (at_ j.cb.plist) 32) e = some (thead, te, ps.length) →
    (∀ k p, ps[k]? = some p → patchOf (thead == 0) (s.bytes (at_ j.cb.plist + 32 + 32 * k) 32) = some p ∧
      (p.skind = 1 → ownSpan p.src 8)) →
      (∀ k, beyond k → (∀ i, i < k → ¬ beyond i) → Answers (.patchList P e) s
        (EngineRaises j .patchoor (j.cb.plist + BitVec.ofNat 64 (32 + 32 * k)) s)) ∧
      ((∀ k, ¬ beyond k) → (∀ p ∈ ps, ownSpan (target p) p.wid) →
        ((thead = 0 ∧ q.head? = some c) ∨ (thead ≠ 0 ∧ q.find? (fun d => d.head == thead) = some c) →
          Answers (.patchList P e) s fun t => counts t ∧ EngineOnly P s t ∧
            ∀ a, memGet t.mem a = memGet (putAll s.mem stored) a) ∧
        (thead ≠ 0 → (∀ d ∈ q, d.head ≠ thead) → Answers (.patchList P e) s fun t =>
          (t.engine P e).block = .patchTarget thead te ∧ EngineOnly P s t ∧
            ∀ a, memGet t.mem a = memGet (putAll s.mem stored) a)))

/-- The last pass of a product whose partials are integers (R272 to R274, R311 to R313): MX.MMA adds a column's partials one after
another to its entry, MX.MMB adds each to an entry of its own; every addition is clamped or wraps, and a clamp sets SAT. A fused product
scales a column's partials by their blocks' exponents and adds them to its FP32 entry, and MX.SACC does so with partials that lie in
the accumulator quarter (R273, R315, R316).
The other control blocks of the matrix array in their last iteration, under the lease (R309, R317, R318): MX.WLOAD puts each
element at its row and column of the home plane, which it has zeroed at its start, and gives the plane its record; MX.ACLR stores PARM and MX.ADRN the converted
entry, which it may clear.
The order of MX.ADRN's clearing is the model's reading (log entry 56). -/
def Obligations.MatrixArray : Prop :=
  (∀ (s : State) (P : TileId) (j : Job) (fa fb : MxFmt) (a b ga : Nat) (gb : Nat → Nat),
    let x := s.engine P .mx
    let g := quadOf P
    let planes := j.cb.planesOf (posOf P)
    let l := blockLen fa fb
    let an := j.cb.krows / (fmtElems j.cb.w0.fmt).2 * unitOf j.cb.w0.fmt
    let va := aVector j.cb.w0.fmt fa j.cb.krows (s.bytes a an)
    let ps := (List.range j.cb.nc).map fun k =>
      partials l (fa.shift + fb.shift) va (s.bColumn g j.cb (planes.headD 0) fb (j.cb.c0 + k))
    let word (sat : Bool) : Word :=
      BitVec.ofNat 64 ((if (s.tile P).sat || sat then 2 ^ 63 else 0) + (x.count + 1) % 2 ^ 32)
    let stores (i : Instr) (n : Nat) (r : List (BitVec 32 × Bool)) : Prop := r.length = n →
      Answers i s fun t => EngineStores j .mx b (r.flatMap fun x => leBytes 4 x.1.toNat) (word (r.any fun x => x.2)) s t ∧
        (t.tile P).sat = ((s.tile P).sat || r.any fun x => x.2)
    let nb := j.cb.krows / l
    let xa := s.scaleBytes j.cb.w3 nb ga
    let xs := (List.range j.cb.nc).map fun k => s.scaleBytes j.cb.w4 nb (gb k)
    Memory.wf s.mem = true → s.clean → mxFmt j.cb.w0.fmt = some fa → mxFmt j.cb.w2.fmt = some fb →
    s.unitReady P .mx = true → s.planeBusy P j.cb = false → (x.started = true ∨ j.planeFault s = none) →
    (∀ p ∈ planes, ∀ u ∈ (s.plane g p).upset, j.cb.krows ≤ u.1.toNat) → j.reaches s j.cb.w0 0 an a →
      (s.lastStep P .mx 0x31 j → j.cb.fuse = false → j.reaches s j.cb.w1 0 (4 * j.cb.nc) b →
        stores (.mxMma P) j.cb.nc
          (((words32 (s.bytes b (4 * j.cb.nc))).zip ps).map fun y => accSteps j.cb.satm y.1 y.2)) ∧
      (s.lastStep P .mx 0x32 j → j.cb.fuse = false → j.reaches s j.cb.w1 0 (4 * j.cb.nc * nb) b →
        stores (.mxMmb P) (j.cb.nc * nb)
          (((words32 (s.bytes b (4 * j.cb.nc * nb))).zip ps.flatten).map fun y => accStep j.cb.satm y.1 y.2)) ∧
      (∀ i op, (i, op) ∈ [((.mxMma P : Instr), 0x31), (.mxMmb P, 0x32)] → s.lastStep P .mx op j → j.cb.fuse = true →
        j.reaches s j.cb.w1 0 (4 * j.cb.nc) b → j.scaled j.cb.w3 (j.idx.getD 0 0) nb ga →
        (∀ k, k < j.cb.nc → j.scaled j.cb.w4 k nb (gb k)) →
        stores i j.cb.nc (((words32 (s.bytes b (4 * j.cb.nc))).zip (ps.zip xs)).map fun y =>
          (BitVec.ofNat 32 (scaleSum fa fb y.1.toNat (y.2.1.zip (xa.zip y.2.2))), false)))) ∧
  (∀ (s : State) (P : TileId) (j : Job) (fa fb : MxFmt) (u w ga : Nat) (gb : Nat → Nat),
    let nb := j.cb.saccBlocks
    let n := j.cb.nc
    let old := words32 (s.bytes w (4 * n))
    let sums := words32 (s.bytes u (4 * nb * n))
    let out := (List.range n).map fun k =>
      scaleSum fa fb (old.getD k 0).toNat ((((sums.drop (nb * k)).take nb).map BitVec.toInt).zip
        ((s.scaleBytes j.cb.w3 nb ga).zip (s.scaleBytes j.cb.w4 nb (gb k))))
    Memory.wf s.mem = true → s.clean → mxFmt j.cb.saccFmts.1 = some fa → mxFmt j.cb.saccFmts.2 = some fb →
    s.unitReady P .mx = true → s.lastStep P .mx 0x33 j → j.reaches s j.cb.w0 0 (4 * nb * n) u → j.reaches s j.cb.w1 0 (4 * n) w →
    j.scaled j.cb.w3 (j.idx.getD 0 0) nb ga → (∀ k, k < n → j.scaled j.cb.w4 k nb (gb k)) →
      (∃ l, l.length = 4 * n ∧
        Answers (.mxSacc P) s (EngineStores j .mx w l (BitVec.ofNat 64 ((s.engine P .mx).count + 1)) s)) ∧
      ((u + 4 * nb * n ≤ w ∨ w + 4 * n ≤ u) → Answers (.mxSacc P) s
        (EngineStores j .mx w (out.flatMap fun x => leBytes 4 x) (BitVec.ofNat 64 ((s.engine P .mx).count + 1)) s))) ∧
  (∀ (s : State) (P : TileId) (j : Job) (a b : Nat),
    let x := s.engine P .mx
    let one : Word := BitVec.ofNat 64 (x.count + 1)
    Memory.wf s.mem = true → s.clean → s.unitReady P .mx = true →
      (∀ m, (x.started = true ∨ s.planeRead P = false) → mxFmt j.cb.w0.fmt = some m → m.bits ≤ 8 / m.group → s.lastStep P .mx 0x30 j →
        let k := (fmtElems j.cb.w0.fmt).2
        let n := unitOf j.cb.w0.fmt
        j.reaches s j.cb.w0 0 n a → x.count + k ≤ j.cb.krows * (m.columns - j.cb.c0) →
          Answers (.mxWload P) s fun t => EngineOnly P s t ∧ EndsBody P .mx j (BitVec.ofNat 64 (x.count + k)) s t ∧
            (∀ i y, (elemsOf m.bits k (s.bytes a n))[i]? = some y → t.cell (quadOf P) (posOf P) m
              ((x.count + i) % j.cb.krows) (j.cb.c0 + (x.count + i) / j.cb.krows) = y % 2 ^ m.bits) ∧
            SameBytesOutside (gPlane (quadOf P) (posOf P).toNat 0) (2 ^ 18) s t ∧
            t.plane (quadOf P) (posOf P) = { s.plane (quadOf P) (posOf P) with
              record := some (j.addr, j.cb.w0.fmt, BitVec.ofNat 9 j.cb.krows), mark := none,
              loading := if x.started then (s.plane (quadOf P) (posOf P)).loading else true,
              upset := if x.started then (s.plane (quadOf P) (posOf P)).upset else [] }) ∧
      (s.lastStep P .mx 0x34 j → j.reaches s j.cb.w1 0 4 b → Answers (.mxAclr P) s fun t =>
        EngineStores j .mx b (leBytes 4 j.cb.parm.toNat) one s t ∧
        (t.tile P).sat = ((s.tile P).sat && (x.started || !j.cb.opa.getLsbD 0))) ∧
      (s.lastStep P .mx 0x35 j → j.reaches s j.cb.w0 0 j.cb.cvtIn a → j.reaches s j.cb.w1 0 j.cb.cvtOut b →
        let out := convertBytes j.cb.w0.fmt j.cb.w1.fmt j.mode (j.gen s) (s.bytes a j.cb.cvtIn)
        out.1.length = j.cb.cvtOut → (a + j.cb.cvtIn ≤ b ∨ b + j.cb.cvtOut ≤ a) →
          Answers (.mxAdrn P) s fun t => EngineOnly P s t ∧ t.bytes b j.cb.cvtOut = out.1 ∧ j.gen t = out.2 ∧
            t.num a j.cb.cvtIn = (if j.cb.opa.getLsbD 0 then 0 else s.num a j.cb.cvtIn) ∧
            (t.tile P).sat = ((s.tile P).sat && !j.cb.opa.getLsbD 1) ∧
            ∀ y, (y < a ∨ a + j.cb.cvtIn ≤ y) → (y < b ∨ b + j.cb.cvtOut ≤ y) → memGet t.mem y = memGet s.mem y))

/-- The grid's control blocks (R107, R324, R328, R330 to R334): GR.CFG fills its slot with an image that passes every check and
names the first failing byte of one that does not; GR.SWAP changes the active slot and clears the vectors it is told to; GR.RUN
starts a run at the iteration that the index stack names, advances it by one cycle whose issued slots complete, and ends it once
everything that started has landed.
Which byte of a bad image fails first is the model's reading (log entry 55). -/
def Obligations.GridControlBlocks : Prop :=
  ∀ (s : State) (P : TileId) (j : Job) (a : Nat),
    let x := s.engine P .gr
    let grid := (s.tile P).grid
    (s.failing = [] → s.lastStep P .gr 0x40 j → tagOf j.cb.w0.base = 0xF0 → offOf j.cb.w0.base + imageBytes ≤ 2 ^ 19 →
      j.cb.w0.base.toNat % 64 = 0 → a = gTile P.toNat (offOf j.cb.w0.base) → s.poisonIn a imageBytes = false →
        (∀ m, parseImage (s.bytes a imageBytes) = .ok m → Answers (.grCfg P) s fun t =>
          SameMemory s t ∧ EngineOnly P s t ∧ EndsBody P .gr j (m.femask.zeroExtend 64) s t ∧
          (t.tile P).grid = (if j.cb.opa.getLsbD 0 then { grid with slot1 := some m } else { grid with slot0 := some m })) ∧
        (∀ o, parseImage (s.bytes a imageBytes) = .error o →
          Answers (.grCfg P) s (EngineRaises j .cbformat (j.cb.w0.base + BitVec.ofNat 64 o) s))) ∧
    (s.lastStep P .gr 0x42 j → Answers (.grSwap P) s fun t =>
      let next : BitVec 1 := if j.cb.opa.getLsbD 1 then 1 - grid.active else j.cb.opa.extractLsb' 0 1
      SameMemory s t ∧ EngineOnly P s t ∧ EndsBody P .gr j (next.zeroExtend 64) s t ∧ (t.tile P).grid.active = next ∧
      (t.tile P).grid.slot0 = grid.slot0 ∧ (t.tile P).grid.slot1 = grid.slot1 ∧
      ∀ f : Fin 16, ((t.tile P).grid.fes[f]).gen = (grid.fes[f]).gen ∧
        (j.cb.opa.getLsbD 2 = true → (t.tile P).grid.fes[f] = { grid.fes[f] with
          v := Vector.replicate 16 0, q := Vector.replicate 4 0 }) ∧
        (j.cb.opa.getLsbD 2 = false → (t.tile P).grid.fes[f] = grid.fes[f])) ∧
    (s.inBody P .gr 0x41 = some j → grid.run = none →
      let slot : BitVec 1 := if j.cb.opa.getLsbD 1 then grid.active else j.cb.opa.extractLsb' 0 1
      (∀ m, grid.image slot = some m → m.runOk j.cb = true → Answers (.grRun P) s fun t => OnlyTile P s t ∧
        ∃ r, (t.tile P).grid.run = some r ∧ r.cb = j.cb ∧ r.slot = slot ∧ r.cycle = 0 ∧
          r.base = flatOf j.cb.bounds j.idx ∧ r.begun = r.base ∧ r.drain = false ∧ r.landings = [] ∧ r.result = x.result) ∧
      ((∀ m, grid.image slot = some m → m.runOk j.cb = false) →
        Answers (.grRun P) s (EngineRaises j .cbformat j.addr s))) ∧
    (∀ r m, grid.run = some r → grid.image r.slot = some m → s.engGo P .gr = true →
      (r.ovr m = true → s.unacked P .gr = false → Answers (.grRun P) s fun t => (t.tile P).grid.run = none ∧ SameMemory s t) ∧
      (r.ovr m = false → (r.starts = true → s.reservable P r m = true) →
        let q := if r.starts then r.reserve m else r
        ∀ u, inTurn (q.issues m P) (s.modTile P fun t => { t with grid := { t.grid with run := some q } }) = .next u →
          Answers (.grRun P) s fun t => t = u.modTile P fun t => { t with grid := t.grid.endCycle }))

/-! ### Operations of fabric elements -/

/-- The floating-point operations of the X slot (R341 to R344): each element of a selected lane is the operation's exact value rounded
once under the chain's mode, with one draw under SR where the operation rounds; the result lands after the operation's latency.
The integer operations of the X slot (R341, R344): each element is the exact result, clamped when SAT is set and its low bits
otherwise.
The NaN order of FDOT2, and that FEX2 and FLG2 round the exact value, are the model's (log entries 53 and 54). -/
def Obligations.Elements : Prop :=
  (∀ (s : State) (f : FeAt) (o : SlotArgs) (c : FeCtx),
    let t := o.flt
    let w := t.width
    let down := c.down
    let forms : List (Instr × Byte × Nat × Bool × (Val → Val → Val → Val)) :=
      [(.fadd f o, 1, 4, true, fun a b _ => a.addDir down b), (.fsub f o, 2, 4, true, fun a b _ => a.addDir down b.negate),
       (.fmul f o, 3, 4, true, fun a b _ => a.mul b), (.fma f o, 4, 4, true, fusedSum down false false),
       (.fms f o, 5, 4, true, fusedSum down false true), (.fnma f o, 6, 4, true, fusedSum down true false),
       (.fmax f o, 7, 2, false, fun a b _ => Val.pick true a b), (.fmin f o, 8, 2, false, fun a b _ => Val.pick false a b),
       (.fmaxa f o, 9, 2, false, fun a b _ => a.largerAbs b), (.frcp f o, 10, 8, true, fun a _ _ => recipOf a),
       (.frsq f o, 11, 8, true, fun a _ _ => rsqrtOf a), (.fex2 f o, 12, 8, true, fun a _ _ => exp2Of a),
       (.flg2 f o, 13, 8, true, fun a _ _ => logTwoOf a)]
    let part (r : BitVec 4) (w k i : Nat) : Nat := elemAt w (laneAt (c.reg r) k) i
    (∀ x ∈ forms, s.slotIssues f o 0 x.2.1 c → ∃ v g,
      c.formed (x.2.2.2.1 && c.sr) w (32 / w) (fun k i rnd =>
        let v (r : BitVec 4) : Val := t.read c.mode.ftz (part r w k i)
        t.round (x.2.2.2.2 (v o.a) (v o.b) (v o.c)) c.mode rnd) v g ∧
      Answers x.1 s (SlotLeaves f c (c.landed f 0 x.2.2.1 (.vec o.dst) v) g s)) ∧
    (s.slotIssues f o 0 23 c → ∃ v g,
      c.formed c.sr 32 1 (fun k _ rnd =>
        let x (r : BitVec 4) (i : Nat) : Val := t.read c.mode.ftz (part r 16 k i)
        let z := fp32.read c.mode.ftz (laneAt (c.reg o.c) k)
        fp32.round (match firstNaN [x o.a 0, x o.a 1, x o.b 0, x o.b 1, z] with
          | some n => n
          | none => Val.sum down [z, (x o.a 0).mul (x o.b 0), (x o.a 1).mul (x o.b 1)]) c.mode rnd) v g ∧
      Answers (.fdot2 f o) s (SlotLeaves f c (c.landed f 0 4 (.vec o.dst) v) g s))) ∧
  (∀ (s : State) (f : FeAt) (o : SlotArgs) (c : FeCtx),
    let w := o.intTy.1
    let sg := o.intTy.2
    let lo : Int := if sg then -(2 ^ (w - 1) : Int) else 0
    let hi : Int := if sg then 2 ^ (w - 1) - 1 else 2 ^ w - 1
    let keep (w : Nat) (lo hi i : Int) : Nat := ((if o.imm.getLsbD 0 then max lo (min hi i) else i) % (2 ^ w : Int)).toNat
    let part (r : BitVec 4) (w : Nat) (sg : Bool) (k i : Nat) : Int := intOf w sg (elemAt w (laneAt (c.reg r) k) i)
    let forms : List (Instr × Byte × Nat × (Int → Int → Int → Int)) :=
      [(.iadd f o, 14, 1, fun a b _ => a + b), (.isub f o, 15, 1, fun a b _ => a - b), (.imul f o, 16, 3, fun a b _ => a * b),
       (.imad f o, 17, 3, fun a b z => a * b + z), (.imulh f o, 18, 3, fun a b _ => a * b / 2 ^ w),
       (.imin f o, 19, 1, fun a b _ => min a b), (.imax f o, 20, 1, fun a b _ => max a b),
       (.iabs f o, 21, 1, fun a _ _ => if a < 0 then -a else a)]
    (∀ x ∈ forms, s.slotIssues f o 0 x.2.1 c → ∃ v,
      c.formed false w (32 / w) (fun k i _ =>
        keep w lo hi (x.2.2.2 (part o.a w sg k i) (part o.b w sg k i) (part o.c w sg k i))) v c.fe.gen ∧
      Answers x.1 s (SlotLeaves f c (c.landed f 0 x.2.2.1 (.vec o.dst) v) c.fe.gen s)) ∧
    (s.slotIssues f o 0 22 c → ∃ v,
      let sg := o.typ == 5
      c.formed false 32 1 (fun k _ _ =>
        keep 32 (if sg then -(2 ^ 31 : Int) else 0) (if sg then 2 ^ 31 - 1 else 2 ^ 32 - 1)
          (part o.c 32 sg k 0 + part o.a 8 sg k 0 * part o.b 8 sg k 0 + part o.a 8 sg k 1 * part o.b 8 sg k 1 +
           part o.a 8 sg k 2 * part o.b 8 sg k 2 + part o.a 8 sg k 3 * part o.b 8 sg k 3)) v c.fe.gen ∧
      Answers (.dot4 f o) s (SlotLeaves f c (c.landed f 0 3 (.vec o.dst) v) c.fe.gen s)))

/-- The Y slot's operations that write a vector register (R345 to R348): logic, shifts, selection and moves lane by lane, conversions
and scalings element by element, and the draw of RNG.
The Y slot's operations that write a predicate (R345, R348): FCMP, ICMP and CLASS combine the conditions of a lane's elements as
SEL says, PLOG looks two predicates up in its table, and LVL reports FIRST or LAST of a loop level.
The conversion of an E8M0 NaN is the model's reading (log entry 53). -/
def Obligations.LanesAndPredicates : Prop :=
  (∀ (s : State) (f : FeAt) (o : SlotArgs) (c : FeCtx),
    let lane (r : BitVec 4) (k : Nat) : Nat := laneAt (c.reg r) k
    let lands (i : Instr) (op : Byte) (lat : Nat) (sr : Bool) (w n : Nat) (h : Nat → Nat → Nat → Nat) : Prop :=
      s.slotIssues f o 1 op c → ∃ v g, c.formed sr w n h v g ∧
        Answers i s (SlotLeaves f c (c.landed f 1 lat (.vec o.dst) v) g s)
    let w := o.fmt.width
    let count (k i : Nat) : Nat :=
      if o.imm.getLsbD 5 then (o.imm.extractLsb' 0 5).toNat else elemAt w (lane o.b k) i
    let d := o.fmt.width
    let t := o.cvtSrc
    let source (k i : Nat) : Nat :=
      if t.width = d then elemAt d (lane o.a k) i
      else if t.width = 2 * d then
        (if i < 32 / d / 2 then elemAt t.width (lane o.a k) i else elemAt t.width (lane o.b k) (i - 32 / d / 2))
      else elemAt t.width (lane o.a k) (i + if o.imm.getLsbD 4 then 32 / d else 0)
    let x := o.flt
    lands (.feAnd f o) 1 1 false 32 1 (fun k _ _ => lane o.a k &&& lane o.b k) ∧
    lands (.feOr f o) 2 1 false 32 1 (fun k _ _ => lane o.a k ||| lane o.b k) ∧
    lands (.feXor f o) 3 1 false 32 1 (fun k _ _ => lane o.a k ^^^ lane o.b k) ∧
    lands (.shl f o) 4 1 false w (32 / w) (fun k i _ => if w ≤ count k i then 0 else elemAt w (lane o.a k) i * 2 ^ count k i) ∧
    lands (.shr f o) 5 1 false w (32 / w) (fun k i _ => elemAt w (lane o.a k) i / 2 ^ count k i) ∧
    lands (.sar f o) 6 1 false w (32 / w) (fun k i _ =>
      ((intOf w true (elemAt w (lane o.a k) i) / 2 ^ count k i) % (2 ^ w : Int)).toNat) ∧
    lands (.feSel f o) 9 1 false 32 1 (fun k _ _ => if (c.pred o.c).getLsbD k then lane o.a k else lane o.b k) ∧
    lands (.mov f o) 10 1 false 32 1 (fun k _ _ => lane o.a k) ∧
    lands (.movi f o) 11 1 false 32 1 (fun _ _ _ => (moviLane o).toNat) ∧
    lands (.lane f o) 19 1 false 32 1 (fun k _ _ =>
      ((if o.imm.getLsbD 11 then ((o.imm.extractLsb' 0 11).toNat : Int) else (o.imm.extractLsb' 0 11).toInt) + k) %
        (2 ^ 32 : Int) |>.toNat) ∧
    lands (.cvt f o) 12 2 c.sr d (32 / d) (fun k i rnd => convert t o.fmt (source k i) c.mode rnd) ∧
    lands (.cvtsr f o) 13 2 true d (32 / d) (fun k i rnd => convert t o.fmt (source k i) { c.mode with rnd := .sr } rnd) ∧
    lands (.qnt f o) 14 3 c.sr 32 1 (fun k _ rnd =>
      let n := 8 * (o.imm.extractLsb' 3 2).toNat
      let b := qntByte (o.imm.extractLsb' 0 3).toNat c.mode (lane o.a k) (intOf 32 true (lane o.b k)) rnd
      lane o.dst k - elemAt 8 (lane o.dst k) (o.imm.extractLsb' 3 2).toNat * 2 ^ n + b * 2 ^ n) ∧
    lands (.expo f o) 15 2 false x.width (32 / x.width) (fun k i _ =>
      let v := x.read c.mode.ftz (elemAt x.width (lane o.a k) i)
      if !v.isFin then 2 ^ (x.width - 1) - 1 else if v.isZero then 2 ^ (x.width - 1) else intBits x.width v.log2) ∧
    lands (.scalb f o) 16 2 c.sr x.width (32 / x.width) (fun k i rnd =>
      x.round ((x.read c.mode.ftz (elemAt x.width (lane o.a k) i)).scale
        (nearScale (intOf x.width true (elemAt x.width (lane o.b k) i)))) c.mode rnd) ∧
    (s.slotIssues f o 1 20 c → ∃ v g,
      (∀ k : Fin 8, g[k] = if c.sel.getLsbD k.val then genStep c.fe.gen[k] else c.fe.gen[k]) ∧
      (∀ k : Fin 8, c.sel.getLsbD k.val = true → laneAt v k.val = g[k].toNat / 2 ^ 32) ∧
      Answers (.rng f o) s (SlotLeaves f c (c.landed f 1 1 (.vec o.dst) v) g s))) ∧
  (∀ (s : State) (f : FeAt) (o : SlotArgs) (c : FeCtx),
    let part (r : BitVec 4) (w k i : Nat) : Nat := elemAt w (laneAt (c.reg r) k) i
    let lands (i : Instr) (op : Byte) (bit : Nat → Bool) : Prop :=
      s.slotIssues f o 1 op c → ∃ v : Byte, (∀ k, k < 8 → v.getLsbD k = bit k) ∧
        Answers i s (SlotLeaves f c (c.landed f 1 1 (.pred (o.dst.extractLsb' 0 2)) (v.zeroExtend 256)) c.fe.gen s)
    let joined (sel : BitVec 2) (n : Nat) (h : Nat → Bool) : Bool :=
      if sel = 0 then h 0 else if sel = 1 then h (n - 1) else if sel = 2 then (List.range n).all h else (List.range n).any h
    let t := o.flt
    let v (r : BitVec 4) (k i : Nat) : Val := t.read c.mode.ftz (part r t.width k i)
    let n (r : BitVec 4) (k i : Nat) : Int := intOf o.intTy.1 o.intTy.2 (part r o.intTy.1 k i)
    lands (.fcmp f o) 7 (fun k => joined (o.imm.extractLsb' 3 2) (32 / t.width) fun i =>
      let a := v o.a k i
      let b := v o.b k i
      let un := a.isNaN || b.isNaN
      match (o.imm.extractLsb' 0 3).toNat with
      | 0 => a.eqv b | 1 => !a.eqv b | 2 => !un && a.lt b | 3 => !un && !b.lt a | 4 => !un && b.lt a | 5 => !un && !a.lt b
      | 6 => un | _ => !un) ∧
    lands (.icmp f o) 8 (fun k => joined (o.imm.extractLsb' 3 2) (32 / o.intTy.1) fun i =>
      let a := n o.a k i
      let b := n o.b k i
      match (o.imm.extractLsb' 0 3).toNat with
      | 0 => decide (a = b) | 1 => decide (a ≠ b) | 2 => decide (a < b) | 3 => decide (a ≤ b) | 4 => decide (b < a)
      | _ => decide (b ≤ a)) ∧
    lands (.feClass f o) 17 (fun k => joined (o.imm.extractLsb' 10 2) (32 / t.width) fun i =>
      o.imm.getLsbD (classOf t (part o.a t.width k i))) ∧
    lands (.plog f o) 18 (fun k => o.imm.getLsbD
      ((if (c.pred o.a).getLsbD k then 2 else 0) + (if (c.pred o.b).getLsbD k then 1 else 0))) ∧
    lands (.lvl f o) 21 (fun _ =>
      let l := (o.imm.extractLsb' 0 3).toNat
      if o.imm.getLsbD 3 then (List.range (l + 1)).all fun k => c.idx.getD k 0 + 1 == c.run.cb.bounds.getD k 0
      else (c.idx.take (l + 1)).all fun i => i == 0))

/-- The links and ports of an element (R337 to R340, R349): SEND puts the selected lanes on the links that it names, RECV reads a link,
IN pops the first entry at its port that is reserved for its iteration, with its residency, OUT pushes the selected lanes, and ACCIN reads 32 bytes of the own
accumulator quarter or drains the run.
Exchanges between lanes and elements (R349, R350): SHUF, BCST, SCAN, RED, GET and PUT.
The entry that IN takes, and how SCAN and RED clamp, are the model's readings (log entries 53 and 55). -/
def Obligations.LinksPortsAndExchanges : Prop :=
  (∀ (s : State) (f : FeAt) (o : SlotArgs) (c : FeCtx) (m : Image),
    let grid := (s.tile f.tile).grid
    let issues (op : Byte) : Prop := s.slotIssues f o 2 op c
    grid.image c.run.slot = some m →
      (issues 1 →
        let out := (List.range 4).filterMap fun d =>
          if o.imm.getLsbD d then (neighbour m.edge f.fe.toNat d).map fun n => (4 * n + (d + 2) % 4, c.reg o.a, c.sel)
          else none
        Answers (.send f o) s (SlotLeaves f c { c.run with sends := c.run.sends ++ out } c.fe.gen s)) ∧
      (issues 2 → ∃ v, c.formed false 32 1 (fun k _ _ =>
          laneAt ((c.run.links[f.fe.toNat]'f.fe.isLt)[(o.imm.extractLsb' 0 2).toNat]'(o.imm.extractLsb' 0 2).isLt) k) v c.fe.gen ∧
        Answers (.recv f o) s (SlotLeaves f c (c.landed f 2 1 (.vec o.dst) v) c.fe.gen s)) ∧
      (∀ p x i, issues 3 → inputPort f.fe = some p → (c.run.inHeld[p])[i]? = some f.iter → f.iter ∉ (c.run.inHeld[p]).take i →
        (c.run.inp[p])[i]? = some x →
        Answers (.feIn f o) s fun t => OnlyTile f.tile s t ∧ ∃ r, t.tile f.tile = { s.tile f.tile with
            grid := { grid with run := some r } } ∧ r.inp = c.run.inp.set p ((c.run.inp[p]).eraseIdx i) ∧
          r.inHeld = c.run.inHeld.set p ((c.run.inHeld[p]).eraseIdx i) ∧ r.landings.length = c.run.landings.length + (if o.imm.getLsbD 2 then 2 else 1) ∧
          (∃ y ∈ r.landings, y.fe = f.fe ∧ y.dest = .vec o.dst ∧ y.value = x.data ∧ y.lanes = c.sel ∧ y.cycle = c.run.cycle + 1) ∧
          (o.imm.getLsbD 2 = true → ∃ y ∈ r.landings, y.fe = f.fe ∧ y.dest = .pred (o.imm.extractLsb' 0 2) ∧
            y.value = x.mask.zeroExtend 256 ∧ y.lanes = c.sel ∧ y.cycle = c.run.cycle + 1)) ∧
      (∀ p, issues 4 → outputPort f.fe = some p → Answers (.feOut f o) s fun t => OnlyTile f.tile s t ∧
        ∃ v, t.tile f.tile = { s.tile f.tile with grid := { grid with
            run := some { c.run with
              outp := c.run.outp.set p (c.run.outp[p] ++ [{ data := v, mask := 0 }]),
              outHeld := c.run.outHeld.set p (c.run.outHeld[p] - 1),
              hash := if c.run.cb.kat then fnv c.run.hash (leBytes 32 v.toNat) else c.run.hash } } } ∧
          ∀ k, k < 8 → laneAt v k = if c.sel.getLsbD k then laneAt (c.reg o.a) k else 0) ∧
      (issues 8 →
        let w := c.run.cb.w2
        let sum : Int := (w.base.toNat % 2 ^ 56 : Nat) + w.offset c.idx + (32 * o.imm.toNat : Nat)
        let g := gAcc f.tile.toNat sum.toNat
        (0 ≤ sum → sum + 32 ≤ 65536 → s.poisonIn g 32 = false → Answers (.accin f o) s
          (SlotLeaves f c (c.landed f 2 4 (.vec o.dst) (BitVec.ofNat 256 (s.num g 32))) c.fe.gen s)) ∧
        ((sum < 0 ∨ 65536 < sum + 32 ∨ s.poisonIn g 32 = true) → Answers (.accin f o) s fun t => OnlyTile f.tile s t ∧
          ∃ r, (t.tile f.tile).grid.run = some r ∧ r.drain = true ∧ r.fault ≠ none ∧ r.landings = c.run.landings))) ∧
  (∀ (s : State) (f : FeAt) (o : SlotArgs) (c : FeCtx) (m : Image),
    let grid := (s.tile f.tile).grid
    let lands (i : Instr) (op : Byte) (lat : Nat) (sr : Bool) (h : Nat → Nat → Nat → Nat) : Prop :=
      s.slotIssues f o 2 op c → ∃ v g, c.formed sr 32 1 h v g ∧
        Answers i s (SlotLeaves f c (c.landed f 2 lat (.vec o.dst) v) g s)
    let x := (o.imm.extractLsb' 0 5)
    let regs := s.redRegs f o c m
    let rank := 3 * c.run.cycle + 2
    grid.run = some c.run → grid.image c.run.slot = some m →
      lands (.shuf f o) 6 1 false (fun k _ _ => laneAt (c.reg o.a)
        (if o.imm.getLsbD 5 then laneAt (c.reg o.b) k % 8
         else ((m.shuftab[x.toNat]'x.isLt).extractLsb' (3 * k) 3).toNat)) ∧
      lands (.bcst f o) 7 1 false (fun _ _ _ => laneAt (c.reg o.a) (o.imm.extractLsb' 0 3).toNat) ∧
      lands (.scan f o) 9 3 (c.sr && o.typ == 0 && (o.imm.extractLsb' 0 2).toNat == 0) (fun k _ rnd =>
        combineLanes o.fmt (o.imm.extractLsb' 0 2).toNat (o.imm.getLsbD 2) c.mode rnd
          ((List.range (k + 1)).map (laneAt (c.reg o.a)))) ∧
      lands (.get f o) 10 1 false (fun _ _ _ =>
        let n := o.imm.toNat
        if n < 6 then c.idx.getD n 0 else if n = 6 then c.run.cb.parm.toNat else if n = 7 then c.run.cb.opc.toNat
        else if n = 8 then f.iter else if n = 9 then f.fe.toNat else min c.run.cb.trips (2 ^ 32 - 1)) ∧
      (s.slotIssues f o 2 5 c → ∀ low v rest, regs = (low, v) :: rest →
        let found := c.run.landings.find? fun x => x.fe == low && x.rank == rank
        let sum := redResult o c ((grid.fes[low.toNat]'low.isLt).gen) (regs.map fun x => x.2)
        (∀ y, found = some y → Answers (.red f o) s (SlotLeaves f c (c.landed f 2 6 (.vec o.dst) y.value) c.fe.gen s)) ∧
        (found = none → f.fe = low → Answers (.red f o) s (SlotLeaves f c (c.landed f 2 6 (.vec o.dst) sum.1) sum.2 s)) ∧
        (found = none → f.fe ≠ low →
          Answers (.red f o) s (SlotLeaves f c (c.landed f 2 6 (.vec o.dst) sum.1) c.fe.gen s))) ∧
      (s.slotIssues f o 2 11 c →
        let k := (o.imm.extractLsb' 0 3).toNat
        let y := laneAt (c.reg o.a) k
        let lo := c.run.result.toNat % 2 ^ 32
        let hi := c.run.result.toNat / 2 ^ 32
        let put (old : Nat) : Nat := if o.imm.getLsbD 4 then (old + y) % 2 ^ 32 else y
        let result := BitVec.ofNat 64 (if o.imm.getLsbD 3 then put hi * 2 ^ 32 + lo else hi * 2 ^ 32 + put lo)
        (c.sel.getLsbD k = true → Answers (.put f o) s (SlotLeaves f c { c.run with result } c.fe.gen s)) ∧
        (c.sel.getLsbD k = false → Answers (.put f o) s fun t => t = s)))

/-! ### What happens to a core between its instructions -/

/-- The ends of the waits of a core (R97, R186, R206, R212, R217, R464): WAITT at its target, IDLE at a wake event or after 65,536
ticks in which its die is not throttled (R467), PGREQ at the supervisor's answer, a SEMP, BARW or BARAW that has lasted longer than WTO.TICKS, a WAIT that reads the own tile memory
again, which acquires only by the read that ends it (R380), and an RDTIME whose log has room.
That a wait's read completes in one step is the model's choice (log entry 4). -/
def Obligations.CoreWaitsEnd : Prop :=
  ∀ (s : State) (P : TileId),
    let c := s.core P
    let late (since : Nat) : Prop := c.wtoTicks ≠ 0 ∧ c.wtoTicks ≤ s.tick - since
    let beyond (since : Nat) : Prop := c.wtoTicks ≠ 0 ∧ c.wtoTicks < s.tick - since
    (s.tile P).stopped = false →
      (∀ rd ra x since, c.run = .waiting (.waitt rd ra x) .time since → (c.rd ra).toNat ≤ s.sample P (x == 1) →
        Answers (.waittTarget P) s (EndsWait P rd (BitVec.ofNat 64 (s.sample P (x == 1) - (c.rd ra).toNat)) s)) ∧
      (∀ since, c.run = .waiting .idle .idle since →
        ((s.tile P).wake = true → Answers (.idleWake P) s (EndsWait P 0 0 s)) ∧
        (65536 ≤ s.between (dieOf P) since s.tick → Answers (.idleTimeout P) s (EndsWait P 0 0 s))) ∧
      (∀ rd ra since, c.run = .waiting (.pgreq rd ra) .pgreq since → s.follower P = none →
        let a := c.rd ra
        let ans : BitVec 2 :=
          if a.extractLsb' 48 5 ≠ 0 then 2
          else match (s.findPte (ownerOf a) (s.who P 0 0).ctx a).1 with
            | .leaf _ => 0
            | .nomap => 2
            | _ => 1
        Answers (.pgreqAnswer P ans) s (EndsWait P rd (ans.zeroExtend 64) s)) ∧
      (∀ rd ra n since, c.run = .waiting (.semp rd ra n) .sem since → beyond since →
          let u := s.modTile P fun t => { t with waiters := t.waiters.filter fun w => w.who != .core }
          (c.wtoTraps = true → Answers (.waitTimeout P) s (RaisesOnly P .waitto (n.zeroExtend 64) u)) ∧
          (c.wtoTraps = false → Answers (.waitTimeout P) s (EndsWait P rd 0 u))) ∧
      (∀ rd n since, (c.run = .waiting (.barw rd n) .bar since ∨ c.run = .waiting (.baraw rd n) .bar since) → beyond since →
        (c.wtoTraps = true → Answers (.waitTimeout P) s (RaisesOnly P .waitto (n.zeroExtend 64) s)) ∧
        (c.wtoTraps = false → Answers (.waitTimeout P) s (EndsWait P rd 0 s))) ∧
      (∀ i since r reply k b, c.run = .waiting i .memChange since → c.flight = some { req := r, reply } → c.busy ≤ s.tick →
        r.op = .wait k b → k ≠ 3 → tagOf r.ea = 0xF0 → s.holds = false → s.clean →
          let v := BitVec.ofNat 64 (s.num (gTile P.toNat (offOf r.ea)) 8)
          let met := if k = 0 then v ≠ b else if k = 1 then v = b else 0 ≤ (v - b).toInt
          let u := if r.obs = 0 then s else s.acquireAt (.core P) r.obs (gTile P.toNat (offOf r.ea))
          (met → Answers (.waitForChange P) s (EndsRequest P r.rd v u)) ∧
          (¬ met → ¬ late since → Answers (.waitForChange P) s (OnlyRun P (.waiting i .memChange since) s)) ∧
          (¬ met → late since → c.wtoTraps = true → Answers (.waitForChange P) s (RaisesOnly P .waitto r.ea s)) ∧
          (¬ met → late since → c.wtoTraps = false → Answers (.waitForChange P) s (EndsRequest P r.rd v u))) ∧
      (∀ ctx rd since u, s.tiles.find? (s.logWaits ctx) = some (P.toNat, s.tile P) → c.run = .waiting (.rdtime rd) .log since →
        s.recMode P = 1 → s.logAppend (s.who P 0 0).ctx 3 (s.who P 0 0).vt.toNat c.timeReads.toNat (leBytes 8 s.timeNs.toNat) = some u →
          Answers (.logAppend ctx) s
            (EndsWait P rd s.timeNs (u.modCore P fun k => { k with timeReads := c.timeReads + 1 })))

/-- A fetch that the instruction cache does not serve (R167, R168), a request that reaches its owner and its reply (R171, R225), and
the entry of the completed-request table that an acknowledgement frees (R395).
When a request is applied, when a table entry is freed, and which lines the instruction cache keeps, are the model's (log entries
4, 60 and 84). -/
def Obligations.FetchesRequestsAndReplies : Prop :=
  (∀ (s : State), s.coreRuns s.cur = true → (s.core s.cur).cached s.pc = none →
    Completes .instructionFetch s ∧
    (tagOf s.pc ≠ 0 → Raises .instructionFetch s .badaddr s.pc) ∧
    (tagOf s.pc = 0 → s.pc.extractLsb' 0 2 ≠ 0 → Raises .instructionFetch s .align s.pc) ∧
    (tagOf s.pc = 0 → s.pc.extractLsb' 0 2 = 0 → 4 ≤ ownerOf s.pc → Raises .instructionFetch s .badaddr s.pc) ∧
    (tagOf s.pc = 0 → s.pc.extractLsb' 0 2 = 0 → ownerOf s.pc < 4 → ∀ u got n,
      s.readVa s.me (lineVa s.pc) 64 .fetch false false = (u, got, n) →
        (∀ l, got = .bytes l → Answers .instructionFetch s fun t => OnlyCore s.cur u t ∧
          t.core s.cur = { u.core s.cur with
            icache := ((s.pc.toNat / 64, l) :: (s.core s.cur).icache).take 256, busy := (t.core s.cur).busy }) ∧
        (∀ x, got = .trap x → Answers .instructionFetch s (RaisesOnly s.cur x s.pc u)) ∧
        (∀ b, got = .poison b → Answers .instructionFetch s (RaisesOnly s.cur .poison s.pc u)))) ∧
  (∀ (s : State) (P : TileId) (i : Instr) (since : Nat) (r : Request),
    (s.tile P).stopped = false → (s.core P).run = .waiting i .flight since →
      (∀ n sg, (s.core P).flight = some { req := r, reply := none } → r.op = .load n sg → r.obs = 0 → tagOf r.ea = 0xF0 →
        s.failing = [] →
        let g := gTile P.toNat (offOf r.ea)
        let out : AccOut := if s.poisonIn g n then .trap .poison else .value (BitVec.ofNat 64 (s.num g n))
        Answers (.ownerRequest P) s fun t => OnlyCore P s t ∧
          t.core P = { s.core P with flight := some { req := r, reply := some out }, busy := (t.core P).busy }) ∧
      (s.follower P = none →
        (∀ n sg v, (s.core P).flight = some { req := r, reply := some (.value v) } → r.op = .load n sg →
          Answers (.memoryReply P) s (EndsRequest P r.rd (loadValue n sg v) s)) ∧
        ((s.core P).flight = some { req := r, reply := some .done } → Answers (.memoryReply P) s (EndsRequest P 0 0 s)) ∧
        (∀ c, (s.core P).flight = some { req := r, reply := some (.trap c) } →
          Answers (.memoryReply P) s (RaisesOnly P c r.ea s)))) ∧
  (∀ (s : State) (o : BitVec 3) (src : ReqSrc) (tag : BitVec 16), o.toNat ≤ 4 →
    (∃ r ∈ s.doneTable o.toNat, r.src = src ∧ r.tag = tag) → s.tagNeeded src tag = false →
      Answers (.replyAcknowledgement o src tag) s fun t =>
        (∀ r, r ∈ t.doneTable o.toNat ↔ r ∈ s.doneTable o.toNat ∧ ¬ (r.src = src ∧ r.tag = tag)) ∧
        SameMemory s t ∧ t.tiles = s.tiles)

/-! ### Engines: chains, timed starts and signals -/

/-- CB_FETCH (R42, R44, R168) of an engine outside PAIR: the CB at NEXT is read under the chain's PKR, in the own tile memory as it
stands there, and takes its place behind those fetched before it, once its patch gate is open; with no CB current it becomes current and,
untimed and without a header wait, its loop nest starts; a CB that breaks a rule, or that cannot be read, raises its cause with WHERE its
address. The CB that GCFG forms needs no read (R204). -/
def Obligations.ControlBlockFetch : Prop :=
  ∀ (s u : State) (P : TileId) (e : Eng) (c : Chain) (rest : List Chain) (got : FetchGot),
    let x := s.engine P e
    let w := u.mustSee (agentOf P e) c.need
    let fetched (b : CB) : Fetched := { addr := c.next, cb := b, shape := [], fault := none }
    let queue (a : Word) (b : CB) := { c with next := a + 256, last := b.last } :: rest
    let starts (f : Fetched) (q : List Chain) : Prop := Answers (.cbFetch P e) s fun t =>
      OnlyTile P w t ∧ (t.engine P e).cur = some f ∧ (t.engine P e).stage = .body ∧ (t.engine P e).queue = q ∧
      (t.engine P e).hash = 0xCBF29CE484222325 ∧ SameRegs P s t ∧ (t.core P).pc = (s.core P).pc
    let raises (x : Cause) (v loc : Word) : Prop := Answers (.cbFetch P e) s fun t =>
      OnlyTile P w t ∧ (t.engine P e).block = .event ∧ (t.tile P).events = (s.tile P).events ++
        [{ src := engSrc e, cause := x, val := v, loc, since := s.tick, recorded := false, ptile := P, seqno := 0, action := 0,
           reply := none }]
    let free := x.cur = none ∧ x.acquired = false ∧ x.elastic = false ∧ ∀ k, s.taskOf P = some k → (P, e) ∉ k.slipHold
    s.engGo P e = true → (s.tile P).stopped = false → x.queue = c :: rest → c.last = false →
    (∀ g ∈ x.ahead, g.fault = none) → s.isPair P = false →
      (c.image = none → (s.fetchBytes P e c.pkr c.next 256 = (u, got) ∨
          (s.clean ∧ ownSpan c.next 256 ∧ u = s ∧ got = .bytes (s.bytes (gTile P.toNat (offOf c.next)) 256))) →
        (∀ v a, got = .fault v a → x.cur = none → raises v a c.next) ∧
        (∀ l, got = .bytes l →
          let b := cbOf l
          (b.pg = true → b.pcnt.toNat ≤ c.patch.toNat) → (e = .rt → b.op.toNat < 0x50) →
            (∀ v a, u.checkCb P e c.next b = some (v, a) → x.cur = none → raises v a c.next) ∧
            (u.checkCb P e c.next b = none →
              (∀ g, x.cur = some g → g.fault = none → x.ahead.length < 4 → Answers (.cbFetch P e) s fun t =>
                OnlyTile P u t ∧ t.engine P e = { x with ahead := x.ahead ++ [fetched b], queue := queue c.next b }) ∧
              (free → s.timedCb P b = false → b.wsem = 0xFF → b.zeroTrip = false → starts (fetched b) (queue c.next b))))) ∧
      (∀ slot, c.image = some slot → u = s → free →
        let b := gcfgCb c.head slot
        (s.checkCb P e c.head b = none → starts { addr := c.head, cb := b, shape := [], fault := none } (queue c.head b)) ∧
        (∀ v a, s.checkCb P e c.head b = some (v, a) → raises v a c.head))

/-- TIMED_START (R281, R420, R421): at its start tick a CB whose header wait is met starts, counting how late it is; one that is
not strict waits for its header; a strict one against TIME that is late or not ready raises SLIP and is counted, of a TWIN in
one copy, and adds nothing to its tile's lateness later (R461).
HEADER_SIGNAL (R28, R44, R47): a CB that reports residency stores its RESW, here in the own tile memory; its semaphore takes the signal's count, saturating, and the CB is
complete: none is current until the next is fetched, and after the last one of a chain the chain has left its queue.
Lateness across an act of many ticks is the model's reading (log entry 52). -/
def Obligations.TimedStartsAndHeaderSignals : Prop :=
  (∀ (s : State) (P : TileId) (e : Eng) (f : Fetched),
    let x := s.engine P e
    let base := s.sample P f.cb.tb
    let ready := s.headerReady P f.cb = true
    let late := base - f.cb.tstart.toNat
    x.cur = some f → x.stage = .timed → s.engGo P e = true → (s.tile P).trailing = false → f.cb.tstart.toNat ≤ base →
      (f.cb.strict = false ∨ x.onTime = true → ready → f.cb.wsem = 0xFF → f.cb.zeroTrip = false →
        (∀ k, s.taskOf P = some k → (P, e) ∉ k.slipHold) → Answers (.timedStart P e) s fun t =>
          OnlyTile P s t ∧ (t.engine P e).stage = .body ∧ (t.engine P e).acquired = true ∧ t.core P = s.core P ∧
          (late = 0 ∨ x.slipped = true → (t.engine P e).lateCount = x.lateCount ∧ (t.engine P e).lateSum = x.lateSum) ∧
          ((x.onTime = false ∨ s.samplePrev P f.cb.tb < f.cb.tstart.toNat) → 0 < late → x.slipped = false → s.timedCb P f.cb = true →
            (t.engine P e).lateCount.toNat = min (x.lateCount.toNat + 1) (2 ^ 32 - 1) ∧
            (t.engine P e).lateSum.toNat = min (x.lateSum.toNat + late) (2 ^ 64 - 1))) ∧
      (f.cb.strict = false → ¬ ready → Answers (.timedStart P e) s fun t => OnlyTile P s t ∧
        (t.engine P e).stage = .header ∧ (t.tile P).waiters = (s.tile P).waiters ++
          [{ sem := f.cb.wsem.truncate 6, who := .header e, count := f.cb.wcnt.zeroExtend 32 }]) ∧
      (f.cb.strict = true → (x.onTime = false ∨ ¬ ready) → f.cb.tb = false → ∀ k, s.taskOf P = some k →
        Answers (.timedStart P e) s fun t => SameMemory s t ∧ SameOtherTiles P s t ∧ (t.engine P e).block = .event ∧
          (t.tile P).events = (s.tile P).events ++
            [{ src := engSrc e, cause := .slip, val := f.addr, loc := f.addr, since := s.tick, recorded := false,
               ptile := P, seqno := 0, action := 0, reply := none }] ∧
          ∃ k', t.taskOf P = some k' ∧ k' = { k with slips := k'.slips } ∧
            k'.slips.toNat = if (s.tile P).copy then k.slips.toNat else min (k.slips.toNat + 1) (2 ^ 32 - 1))) ∧
  (∀ (s : State) (P : TileId) (e : Eng) (f : Fetched) (c : Chain) (rest : List Chain),
    let x := s.engine P e
    let n : BitVec 6 := f.cb.ssem.truncate 6
    let m := s.core P
    s.engGo P e = true → x.cur = some f → x.queue = c :: rest → x.stage = .signal → (s.tile P).stopped = false →
    s.unacked P e = false → (f.cb.reports = true → ownSpan (f.addr + 0xFC) 4 ∧ s.failing = []) → x.ahead = [] →
      Answers (.headerSignal P e) s fun t =>
        (t.engine P e).cur = none ∧ (t.engine P e).stage = .idle ∧
        (f.cb.last = true → (t.engine P e).queue = rest) ∧ (f.cb.last = false → (t.engine P e).queue = c :: rest) ∧
        (∀ k, t.sem P k = if f.cb.ssem ≠ 0xFF ∧ k = n then
            BitVec.ofNat 32 (min ((s.sem P n).toNat + f.cb.scnt.toNat) (2 ^ 32 - 1)) else s.sem P k) ∧
        (t.core P).semov = (if f.cb.ssem ≠ 0xFF ∧ 2 ^ 32 ≤ (s.sem P n).toNat + f.cb.scnt.toNat then m.semov ||| 1#64 <<< n.toNat
          else m.semov) ∧
        SameRegs P s t ∧ SameOtherTiles P s t ∧ t.poison = s.poison ∧
        ∀ a, memGet t.mem a = memGet (if f.cb.reports = true then
          memWrite s.mem (gTile P.toNat (offOf (f.addr + 0xFC))) (leBytes 4 x.resw.toNat) else s.mem) a)

/-- Semaphore signals and grants (R103, R388): a signal adds its count, saturating with SEMOV, and one that reaches the tile leaves its clock for the waiters unless it saturates; the head of a semaphore's queue is
granted when the value suffices: SEMP ends with 1 until its wait has expired, a header wait starts its CB, and a ring wait takes the next slot of its region. -/
def Obligations.SignalsAndGrants : Prop :=
  (∀ (s : State) (P : TileId) (n : BitVec 6) (c : BitVec 32) (reach : Bool),
    let u := if reach then s.release .launch 0x08 else s
    let sum := (s.sem P n).toNat + c.toNat
    Answers (.semSignal P n c reach) s fun t => OnlyTile P u t ∧
      (∀ k, t.sem P k = if k = n then BitVec.ofNat 32 (min sum (2 ^ 32 - 1)) else s.sem P k) ∧
      t.core P = { s.core P with semov := if sum < 2 ^ 32 then (s.core P).semov else (s.core P).semov ||| 1#64 <<< n.toNat } ∧
      t.semClock P n = if reach = true ∧ sum < 2 ^ 32 then clockMax (s.semClock P n) s.io.known else s.semClock P n) ∧
  (∀ (s : State) (P : TileId) (n : BitVec 6) (w : Waiter),
    let left := s.sem P n - w.count
    (s.tile P).semHead n = some w → w.count.toNat ≤ (s.sem P n).toNat →
      (∀ rd ra since, w.who = .core → (s.tile P).stopped = false → (s.core P).run = .waiting (.semp rd ra n) .sem since →
        ((s.core P).wtoTicks = 0 ∨ s.tick - since ≤ (s.core P).wtoTicks) →
        Answers (.semWaitGrant P n) s (EndsWait P rd 1 ((s.modTile P fun t =>
          { t with waiters := t.waiters.filter fun y => y.who != .core,
                   sems := t.sems.set n.toNat left n.isLt, wake := t.wake || s.sem P n != left }).acquireSem (.core P) P n))) ∧
      (∀ e f, w.who = .header e → s.engGo P e = true → (s.engine P e).stage = .header → (s.engine P e).cur = some f →
        f.cb.zeroTrip = false → Answers (.semWaitGrant P n) s fun t =>
          (t.engine P e).stage = .body ∧ (t.engine P e).acquired = true ∧ (t.engine P e).cur = some f ∧ t.sem P n = left ∧
          (t.tile P).waiters = (s.tile P).waiters.filter (fun y => y.who != .header e) ∧ SameMemory s t ∧
          SameOtherTiles P s t) ∧
      (∀ T e j Q id g, w.who = .ring T e → (s.tile T).stopped = false → s.slotFree T e = true → s.ringJob T e = some j →
        j.ringPlace s = some (Q, id, g) →
          let k := if j.cb.consumes then g.c else g.f
          let slot := BitVec.ofNat 4 (k.toNat % g.desc.nslot.toNat)
          Answers (.semWaitGrant P n) s fun t =>
            (t.engine T e).block = .none ∧
            (t.engine T e).ring = some { tile := Q, rid := id, slot, fill := k, checked := false } ∧
            t.sem P n = left ∧ SameMemory s t ∧ ∃ r, t.region Q id = some r ∧
              r.c = (if j.cb.consumes then g.c + 1 else g.c) ∧ r.f = (if j.cb.consumes then g.f else g.f + 1) ∧
              (∃ h ∈ r.holds, h.slot = slot ∧ h.tile = T ∧ h.eng = e)))

/-- Remote writes and barrier releases (R198, R287): an arriving write puts its pieces into the memory of its tile and nothing else
changes in memory; the first piece whose region is no longer bound, or does not hold it, raises BADADDR at its iteration, those before
it have landed, and the later writes of its engine are abandoned (R31, R285); an acknowledgement lowers the counts that held its bytes; a unit with all its arrivals and no pending byte
advances its epoch, and the cores whose arrival that releases go on.
That a release reaches every waiter of its unit in one step is the model's choice (log entry 85). -/
def Obligations.RemoteWritesAndBarrierReleases : Prop :=
  (∀ (s : State) (k : Nat) (x : Transit), s.transit[k]? = some x →
    let g := gTile x.target.toNat (offOf x.line)
    let y := s.engine x.tile x.eng
    let first := ∀ y ∈ s.transit.take k, y.tile = x.tile → y.eng = x.eng → y.target = x.target → y.arrived = true
    let pieces (l : List Piece) := l.map fun p => (g + p.off, p.data)
    (x.arrived = false → first → s.strayPiece x = none → x.pieces ≠ [] → Answers (.remoteWriteArrival k) s fun t =>
      (∀ a, memGet t.mem a = memGet (putAll s.mem (pieces x.pieces)) a) ∧
      t.transit = s.transit.set k { x with arrived := true } ∧ (t.tile x.target).wake = true ∧ SameOtherTiles x.target s t) ∧
    (∀ p, x.arrived = false → first → s.strayPiece x = some p → Answers (.remoteWriteArrival k) s fun t =>
      (∀ a, memGet t.mem a = memGet (putAll s.mem (pieces (x.pieces.takeWhile fun q => s.pieceBound x.line q))) a) ∧
      (∀ Q, Q ≠ x.tile → Q ≠ x.target → t.tile Q = s.tile Q) ∧
      (t.engine x.tile x.eng).block = .event ∧ (y.cur ≠ none → (t.engine x.tile x.eng).idx = p.idx) ∧
      (t.tile x.tile).events = (s.tile x.tile).events ++
        [{ src := engSrc x.eng, cause := .badaddr, val := x.line + BitVec.ofNat 64 p.off, loc := x.loc, since := s.tick,
           recorded := false, ptile := x.tile, seqno := 0, action := 0, reply := none }] ∧
      ∀ z, z ∈ t.transit ↔ z ∈ s.transit ∧ ¬ (z.tile = x.tile ∧ z.eng = x.eng ∧ z.arrived = false)) ∧
    (x.arrived = true → x.units.Nodup → Answers (.remoteWriteAck k) s fun t =>
      t.transit = s.transit.eraseIdx k ∧ SameMemory s t ∧ SameOtherTiles x.tile s t ∧
      (t.tile x.tile).pending = (s.tile x.tile).pending - BitVec.ofNat 32 x.size ∧
      ∀ u ∈ x.units, ∀ a, s.task? (barTask u) = some a → ∃ b, t.task? (barTask u) = some b ∧
        b.barUnit u = { a.barUnit u with pending := (a.barUnit u).pending - BitVec.ofNat 32 x.size })) ∧
  (∀ (s : State) (u : BarKey) (k : Task),
    let b := k.barUnit u
    s.task? (barTask u) = some k → k.state = .running → b.arrivals = b.count.toNat → b.count ≠ 0 → b.pending = 0 →
      Answers (.barrierRelease u) s fun t => SameMemory s t ∧
        (∃ k', t.task? (barTask u) = some k' ∧
          k'.barUnit u = { b with arrivals := b.next, next := 0, epoch := b.epoch + 1 }) ∧
        (∀ P ∈ k.tiles, (s.tile P).task = some (barTask u) → ∀ rd n h since,
          ((s.core P).run = .waiting (.barw rd n) .bar since ∨ (s.core P).run = .waiting (.baraw rd n) .bar since) →
          ((s.core P).wtoTicks = 0 ∨ s.tick - since ≤ (s.core P).wtoTicks) → s.handle P n = some h → h.unit = u → h.arrived = true → (h.epoch - (b.epoch + 1)).toInt < 0 →
            GoesOn P ((s.core P).pc + 4) s t ∧ RegsAre P rd 1 s t) ∧
        ∀ P, P ∉ k.tiles → t.tile P = s.tile P)

/-! ### Tasks -/

/-- PLACE_TASK (R76, R78 to R80, R82, R83) for the first task of a home die's ready list that is not passed over, because it cannot be placed or a
task of another home die wants its quads and comes first: one that its TILES cap can never admit
completes with RCB-INVALID and is gone; one that fits is placed, its tiles are its virtual tiles, stopped, and its map names
them; one that fits only after victims makes those enter SAVING.
QUANTUM_EXPIRY, PREEMPT_ARRIVAL and TILE_STOPPED outside PAIR (R80, R220, R422, R425): a quantum that expires makes its task a
victim for its equals or starts again; the order stops a tile at its boundary with its registers and its memory as they are and ends its
lease, or is dropped where every core has halted and every chain has ended (R91, R458); a
tile of a task all of whose tiles are quiet is saved, the quads of a die in ascending order, and kept, and a save that cannot be written ends the task with FAULT.
The order between home dies, and that a tile is saved once all of its task's tiles are quiet, are the model's (log entries 24
and 58). -/
def Obligations.PlacementAndPreemption : Prop :=
  (∀ (s : State) (d : BitVec 2) (n : Nat) (k : Task) (before rest : List (Nat × Task)),
    let passed (p : Nat × Task) : Prop := s.decision p.2 = .cannot ∨
      (s.outbid p.2 = true ∧ ((∃ a b, s.decision p.2 = .place a b) ∨ ∃ l, s.decision p.2 = .preempt l))
    s.io.lost = false → s.readyList d = before ++ (n, k) :: rest → (∀ p ∈ before, passed p) → s.task? n = some k →
      (k.tilecap < k.tileCost → Answers (.placeTask d) s fun t => t.task? n = none ∧ t.tiles = s.tiles) ∧
      (k.tileCost ≤ k.tilecap →
        (∀ a b, s.fitsWithout k [] = some (a, b) → s.outbid k = false → Answers (.placeTask d) s fun t =>
          (∃ k', t.task? n = some k' ∧ k'.state = .loading ∧ k'.tileMap = a ∧ k'.tileMap1 = b ∧ k'.placedAt = s.tick) ∧
          SameMemory s t ∧
          (((a ++ b).map fun e => e.2.extractLsb' 0 10).Nodup → ∀ e ∈ a ++ b,
            let x := t.tile (e.2.extractLsb' 0 10)
            x.task = some n ∧ x.vt = BitVec.ofNat 10 e.1 ∧ x.stopped = true)) ∧
        (∀ l, s.fitsWithout k [] = none → s.fitsWithout k s.leaving = none → s.enough k (s.victims k) [] = some l →
          s.outbid k = false →
          Answers (.placeTask d) s fun t => (∀ m ∈ l, ∃ x, t.task? m = some x ∧ x.state = .saving) ∧ SameMemory s t ∧
            t.tiles = s.tiles))) ∧
  ((∀ (s : State) (n : Nat) (k : Task), s.task? n = some k → k.state = .running → k.ending = none → k.quantDone = false →
    k.quantSince + k.quantum ≤ s.tick → s.io.lost = false → Answers (.quantumExpiry n) s fun t =>
      SameMemory s t ∧ t.tiles = s.tiles ∧
      (s.rivals k = true → t.task? n = some { k with quantDone := true }) ∧
      (s.rivals k = false → t.task? n = some { k with quantSince := s.tick })) ∧
  (∀ (s : State) (P : TileId) (k : Task), s.taskOf P = some k → k.state = .saving → k.ending = none →
    (s.tile P).stopped = false → (s.tile P).trailing = false → s.io.lost = false →
      (s.allHalted k = false → Answers (.preemptArrival P) s fun t =>
        SameMemory s t ∧ SameRegs P s t ∧ (t.tile P).stopped = true ∧ (t.core P).flight = none ∧ t.hasLease P = false ∧
        (∀ i w x, (t.core P).run ≠ .waiting i w x) ∧
        ((∀ i x, (s.core P).run ≠ .waiting i .idle x) → (t.core P).pc = (s.core P).pc) ∧
        (∀ Q, Q ≠ P → t.core Q = s.core Q)) ∧
      (s.allHalted k = true → Answers (.preemptArrival P) s fun t =>
        SameMemory s t ∧ (∃ k', t.taskOf P = some k' ∧ k'.state = .running) ∧ (∀ Q ∈ k.tiles, (t.tile Q).stopped = false) ∧
        ∀ Q, t.core Q = s.core Q)) ∧
  (∀ (s u : State) (P : TileId) (n : Nat) (k : Task) (c : Option Cause),
    (s.tile P).task = some n → s.task? n = some k → k.state = .saving → k.ending = none → (s.tile P).trailing = false →
    kfind k.saved (savedKey (s.keptTile P)) = none → k.tiles.all s.quiet = true → s.savesBefore P = false → s.io.lost = false → s.follower P = none →
    s.saveTile n k P (s.keptTile P) = (u, c) →
      (c = none → Answers (.tileStopped P) s fun t => SameMemory u t ∧
        ∃ k', t.task? n = some k' ∧ kfind k'.saved (savedKey (s.keptTile P)) = some (s.keptTile P)) ∧
      (∀ x, c = some x → Answers (.tileStopped P) s
        (EndsTask n 0x0031 ((0 : BitVec 14) ++ (s.keptTile P).vt ++ x.code)))))

/-- The ends of a save and of loading, retirement and teardown (R82, R110, R416, R425, R458): a saved task is READY again without
tiles, and one whose record cannot be written ends with FAULT; a task that starts for the first time finds its memories zero, its registers as R110 sets them and runs at ENTRY; a task
that retires, at the earliest in the tick after its last chain has ended, or that has been ended and whose tiles have stopped, completes
with its status and gives up its tiles.
That these happen in one step each is the model's (log entries 58 and 59). -/
def Obligations.StartsAndEndsOfTasks : Prop :=
  ∀ (s : State) (n : Nat) (k : Task), s.task? n = some k → s.io.lost = false →
    (∀ u c, k.state = .saving → k.ending = none →
      (∀ P ∈ k.tiles, (s.tile P).trailing = false → (kfind k.saved (savedKey (s.tile P))).isSome = true) →
      s.saveTaskRecord n k = (u, c) →
        (∀ x, c = some x → Answers (.saveComplete n) s (EndsTask n 0x0031 (x.code.zeroExtend 32))) ∧
        (c = none → Answers (.saveComplete n) s fun t => (∀ P ∈ k.tiles, (t.tile P).task = none) ∧ ∃ k', t.task? n = some k' ∧ k'.state = .ready ∧ k'.tileMap = [] ∧
          k'.tileMap1 = [] ∧ k'.ctr.preempt.toNat = min (k.ctr.preempt.toNat + 1) (2 ^ 32 - 1))) ∧
    (k.state = .loading → k.ending = none → k.ranOnce = false → Answers (.loadingComplete n) s fun t =>
      (∃ k', t.task? n = some k' ∧ k'.state = .running ∧ k'.ranOnce = true) ∧
      ∀ P ∈ k.tiles, (t.tile P).task = some n ∧ (t.tile P).stopped = false ∧ (t.core P).run = .running ∧
        (t.core P).pc = k.image.entry ∧
        (∀ r, (t.core P).rd r = if r = 1 then 0xF000000000080000 else if r = 2 then k.save
          else if r = 3 then (s.tile P).vt.zeroExtend 64 else 0) ∧
        (t.core P).trapvec = 0 ∧ (t.core P).fmode = 0 ∧ (t.core P).pkr = 0 ∧ (t.core P).leaseq = 16 ∧
        (∀ o, o < 524288 → memGet t.mem (gTile P.toNat o) = 0) ∧ (∀ o, o < 65536 → memGet t.mem (gAcc P.toNat o) = 0) ∧
        (∀ e, (t.engine P e).queue = [] ∧ (t.engine P e).issued = 0)) ∧
    (s.spent k = true → k.spentAt = none → Answers (.retire n) s fun t => t.task? n = some { k with spentAt := some s.tick } ∧
      SameMemory s t ∧ t.tiles = s.tiles) ∧
    (s.retires k = true → Answers (.retire n) s fun t => t.task? n = none ∧
      (∀ P ∈ k.tiles, (t.tile P).task = none) ∧
      ∀ e, k.redun ≠ .twin → s.entryOf k.queue.toNat n = some e → (t.queue k.queue.toNat).finished.head? =
        some (e.era, e.ord, if k.slips = 0 then 0x0010 else 0x0011)) ∧
    (∀ status detail, k.ending = some (status, detail) → s.allQuiet k = true → Answers (.taskTeardown n) s fun t => t.task? n = none ∧
      (k.placed = true → ∀ P ∈ k.tiles, (t.tile P).task = none) ∧
      ∀ e, s.entryOf k.queue.toNat n = some e →
        (t.queue k.queue.toNat).finished.head? = some (e.era, e.ord, status))

/-! ### Events and the supervisor -/

/-- EVENT_RECORD of a task without redundancy, and the five action words on a source that waits in a running task (R410, R411, R413,
R415, R420, R441, R443): between two and twelve ticks after it was raised, no later than 11 ticks behind another and in the order of its
tick, the record joins its cluster's queue and ring with the next sequence number, and a report to a die lead goes the same way (R412);
RESUME retries, but not a run of the grid that has faulted (R351), SKIP goes on at WHERE + 4
with a service's results in s4 and s5, ELASTIC lets a slipped CB wait for its header, ROLLBACK cancels the phase and marks its slot
refetch-pending or ends the task with cause 0x05, and END ends it with FAULT.
The moment at which an event is recorded, and PTILE and SRC of a report, are the model's choices (log entries 29 and 88). -/
def Obligations.EventsAndActions : Prop :=
  (∀ (s : State) (d : Nat) (r : EventRec) (since : Nat) (rest : List (EventRec × Nat)), d < 4 →
    (s.die d).reports = (r, since) :: rest → s.arrives (16 * d) (8 * r.ptile.toNat + 7) since = true →
      Answers (.eventRecord (BitVec.ofNat 10 (256 * d)) 7) s fun t => (t.die d).reports = rest ∧ t.tiles = s.tiles ∧ SameMemory s t ∧
        (t.cluster (16 * d)).queue = (s.cluster (16 * d)).queue ++ [{ r with seqno := (s.cluster (16 * d)).seqno }] ∧
        (t.cluster (16 * d)).seqno = (s.cluster (16 * d)).seqno + 1) ∧
  ∀ (s : State) (P : TileId) (src : BitVec 3) (n : Nat) (k : Task) (v : Event),
    let ends (i : Instr) (c : Byte) : Prop := s.live n → Answers i s (EndsTask n 0x0031 ((0 : BitVec 14) ++ (s.tile P).vt ++ c))
    let consumed (t : State) : Prop :=
      (t.cluster (clusterOf v.ptile)).queue = (s.cluster (clusterOf v.ptile)).queue.filter (fun r => r.seqno != v.seqno) ∧
      SameMemory s t ∧ SameOtherTiles P s t
    let served (t : State) : Prop := consumed t ∧ (t.tile P).events = (s.tile P).events.filter fun w => w.src != src
    (s.tile P).task = some n → s.task? n = some k → s.io.lost = false → s.twinTile P = none →
      ((s.tile P).newEvent src = some v → src ≠ 7 → (s.tile P).trailing = false → (s.tile P).copy = false → k.ending = none →
        v.since + 2 ≤ s.tick → (s.cluster (clusterOf P)).queue.length < 256 → k.redun = .none →
        kfind k.saved (savedKey (s.tile P)) = none →
        (∀ t m, (s.cluster (clusterOf P)).last = some (t, m) → t < s.tick ∨ m < 8 * P.toNat + src.toNat) →
        (∀ x ∈ s.arriving (clusterOf P), x.1 ≠ 8 * P.toNat + src.toNat →
          s.between (clusterOf P / 16) x.2 v.since < 11 ∧
          (12 ≤ s.between (clusterOf P / 16) x.2 s.tick → 8 * P.toNat + src.toNat < x.1)) →
        let r : EventRec := { seqno := (s.cluster (clusterOf P)).seqno, cause := v.cause.code, src, ptile := P,
                              ctx := (s.who P 0 0).ctx, val := v.val, loc := v.loc }
        Answers (.eventRecord P src) s fun t => SameMemory s t ∧ SameOtherTiles P s t ∧ t.core P = s.core P ∧
          (t.cluster (clusterOf P)).seqno = (s.cluster (clusterOf P)).seqno + 1 ∧
          (t.cluster (clusterOf P)).queue = (s.cluster (clusterOf P)).queue ++ [r] ∧
          kfind (t.cluster (clusterOf P)).ring (r.seqno.toNat % 256) = some r.bytes ∧
          ∀ w ∈ (t.tile P).events, w.src = src → w.recorded = true) ∧
      (s.findSrc P src = some (n, .live P, s.tile P) → (s.tile P).waitingEvent src = some v → v.action = 0 →
        (s.tile P).stopped = false → k.state = .running →
        (src = 0 → Answers (.actionResume P src) s fun t => served t ∧ t.core P = { s.core P with run := .running }) ∧
        (∀ e, srcEng src = some e →
          ((s.engine P e).block ≠ .dead → Answers (.actionResume P src) s fun t => served t ∧ (t.engine P e).block = .none) ∧
          ((s.engine P e).block = .dead → Answers (.actionResume P src) s fun t => t = s)) ∧
        (src = 0 → v.src = 0 → Answers (.actionSkip P src) s fun t => served t ∧
          (t.core P).pc = v.loc + 4 ∧ (t.core P).run = .running ∧
          (v.reply = none → SameRegs P s t) ∧
          (∀ a, v.reply = some (a, none) → RegsAre P 4 a s t) ∧
          (∀ a b, v.reply = some (a, some b) → ∀ r, (t.core P).rd r = if r = 0 then 0 else if r = 5 then b
            else if r = 4 then a else (s.core P).rd r)) ∧
        (∀ e f, srcEng src = some e → v.src = src → v.cause = .slip → (s.engine P e).cur = some f → f.fault = none → f.cb.wsem ≠ 0xFF →
          Answers (.actionElastic P src) s fun t => served t ∧ (t.engine P e).stage = .header ∧
            (t.engine P e).elastic = true ∧ (t.engine P e).block = .none ∧ (t.tile P).waiters = (s.tile P).waiters ++
              [{ sem := f.cb.wsem.truncate 6, who := .header e, count := f.cb.wcnt.zeroExtend 32 }]) ∧
        (∀ e, srcEng src = some e → v.src = src → v.cause = .poison →
          (∀ j r g, s.rollbackSlot P e v.val = some (j, r) → s.region r.tile r.rid = some g →
            Answers (.actionRollback P src) s fun t => (t.engine P e).block = .refetch ∧ (t.engine P e).poisoned = true ∧
              (t.engine P e).since = s.tick ∧ SameMemory s t ∧
              ∃ g', t.region r.tile r.rid = some g' ∧ g'.pending.getLsbD r.slot.toNat = true) ∧
          (s.rollbackSlot P e v.val = none → ends (.actionRollback P src) 0x05)) ∧
        ∀ c, ends (.actionEnd P src c) c ∧
          (s.live n → k.fdom = .context → Answers (.actionEnd P src c) s fun t => ∀ m x, m ≠ n → s.live m →
            s.task? m = some x → x.ctx = k.ctx → EndsTask m 0x0032 ((0 : BitVec 14) ++ (s.tile P).vt ++ c) t))

/-- The services (R417) for a call of a task without redundancy: what each returns in s4 and s5, and what it installs. The 64
bytes of an argument are read as a load of the caller reads them; a fault returns bad argument.
The address that GALLOC gives, the lowest free index and the form of NETWIN's request are the model's choices (log entry 32). -/
def Obligations.SupervisorServices : Prop :=
  ∀ (s : State) (P : TileId) (n e : Nat) (k : Task),
    let arg := (s.core P).rd 4
    let replies (u : State) (a : Word) (b : Option Word) (t : State) : Prop :=
      t = u.modTile P fun z => { z with events := z.events.map fun v => if v.src = 0 then { v with reply := some (a, b) } else v }
    let calls (x : Nat) (i : Instr) (u : State) (a : Word) (b : Option Word) : Prop := e = x → Answers i s (replies u a b)
    let good := tagKnown arg = true ∧ spansZero arg = true ∧ spansZero (arg + 63) = true ∧ tagOf (arg + 63) = tagOf arg
    let reads (u : State) (l : List Byte) : Prop := s.argParked (.live P) P k.ctx arg = false ∧
      ((good ∧ State.readFilled (argWho (.live P) P k (s.tile P)) 3 s arg 64 = (u, l, none)) ∨
        (s.clean ∧ ownSpan arg 64 ∧ u = s ∧ l = s.bytes (gTile P.toNat (offOf arg)) 64))
    let faults (u : State) : Prop := (¬ good ∧ u = s) ∨ (good ∧ s.argParked (.live P) P k.ctx arg = false ∧
      ∃ l a c, State.readFilled (argWho (.live P) P k (s.tile P)) 3 s arg 64 = (u, l, some (a, .trap c)))
    let ring (x : Nat) (i : Instr) (tx : Bool) (get : State → KMap Ring) (put : State → KMap Ring → State) : Prop :=
      (∀ u, faults u → calls x i u 3 none) ∧
      ∀ u l, reads u l →
        (ringOf l tx k.ctx n = none → calls x i u 3 none) ∧
        (∀ r, ringOf l tx k.ctx n = some r →
          (freeIndex (get u) = none → calls x i u 2 none) ∧
          (∀ j, freeIndex (get u) = some j → calls x i (put u (kset (get u) j r)) 0 (some (BitVec.ofNat 64 j))))
    s.findSrc P 0 = some (n, .live P, s.tile P) → (s.tile P).call = some e → s.task? n = some k → (s.tile P).task = some n →
    s.io.lost = false → k.ending = none → k.redun = .none →
      calls 0 (.yield P) (s.expireQuantum n) 0 none ∧
      calls 5 (.sliprd P) s 0 (some (k.slips.zeroExtend 64)) ∧
      (7 ≤ e → Answers (.unknownService P) s (replies s (BitVec.allOnes 64) none)) ∧
      ((arg = 0 ∨ arg.toNat % 65536 ≠ 0 ∨ 8388608 < arg.toNat) → calls 1 (.galloc P) s 3 none) ∧
      (arg ≠ 0 → arg.toNat % 65536 = 0 → arg.toNat ≤ 8388608 →
        let capped := ∃ c ∈ k.path, ∃ g, c.galb = some g ∧ 1024 * g < s.galleryBeneath k.ctx c + arg.toNat
        let run := s.galleryRun (dieOf P) (galleryBase P) (arg.toNat / 65536)
        (capped → calls 1 (.galloc P) s 1 none) ∧
        (¬ capped → run = none → calls 1 (.galloc P) s 2 none) ∧
        (∀ pa, ¬ capped → run = some pa → e = 1 → Answers (.galloc P) s fun t => ∃ u,
          replies u 0 (some (galleryVa (dieOf P) pa)) t ∧ u.tiles = s.tiles ∧
          u.task? n = some { k with allocs := (galleryVa (dieOf P) pa, arg.toNat) :: k.allocs })) ∧
      ((∀ a ∈ k.allocs, a.1 ≠ arg) → calls 2 (.gfree P) s 3 none) ∧
      (∀ a, k.allocs.find? (fun a => a.1 == arg) = some a → e = 2 → Answers (.gfree P) s fun t => ∃ u,
        replies u 0 none t ∧ u.tiles = s.tiles ∧ u.task? n = some { k with allocs := k.allocs.erase a }) ∧
      ring 3 (.rxring P) false (fun u => u.io.rxRings) (fun u m => { u with io := { u.io with rxRings := m } }) ∧
      ring 6 (.txring P) true (fun u => u.io.txRings) (fun u m => { u with io := { u.io with txRings := m } }) ∧
      (∀ u, faults u → calls 4 (.netwin P) u 3 none) ∧
      (∀ u l, reads u l →
        (windowReq l k.ctx n = none → calls 4 (.netwin P) u 3 none) ∧
        (∀ inbound w, windowReq l k.ctx n = some (inbound, w) →
          (freeIndex (if inbound then u.io.inWins else u.io.outWins) = none → calls 4 (.netwin P) u 2 none) ∧
          (∀ j, inbound = true → freeIndex u.io.inWins = some j →
            calls 4 (.netwin P) { u with io := { u.io with inWins := kset u.io.inWins j w } } 0 (some (BitVec.ofNat 64 j))) ∧
          (∀ j, inbound = false → freeIndex u.io.outWins = some j →
            calls 4 (.netwin P) { u with io := { u.io with outWins := kset u.io.outWins j w } } 0 (some (BitVec.ofNat 64 j)))))

/-- The refetch of a slot and the time-outs that end a task (R420, R443, R444): a refetched slot is no longer pending and its
consumers go on, shown in full for an LD.FILL of one iteration whose CB and slot lie in the own tile memory; a refetch that cannot be read, one that no engine answers within 512 ticks, and a slip hold that outlasts the
quantum end the task with FAULT.
That a refetch is one step is the model's reading (log entry 65). -/
def Obligations.RefetchesAndTimeouts : Prop :=
  (∀ (s u w : State) (P Q : TileId) (e : Eng) (k : Task) (r : Refetch) (l : List Byte) (g : Region),
    s.pendingRecord P e = some (r, Q) → s.taskOf P = some k → k.state = .running → k.ending = none →
    (s.tile P).stopped = false → (s.engine P e).block ≠ .parked → s.parkedSrc P (engSrc e) = false →
      (s.fetchBytes P e r.pkr r.cbaddr 256 = (u, .bytes l) → (cbOf l).formOk e false true = true → (cbOf l).rwin ≠ 0xFF →
        u.refetch P e r Q (cbOf l) = .done w → w.region Q r.rid = some g → Answers (.refetchRequest P e) s fun t =>
          (∃ g', t.region Q r.rid = some g' ∧ g' = { g with pending := g'.pending } ∧
            ∀ i, i < 16 → g'.pending.getLsbD i = (g.pending.getLsbD i && i != r.slot.toNat)) ∧
          (∀ T f, (T, f) ∈ w.consumers Q r → (t.engine T f).block = .none) ∧ SameMemory w t) ∧
      (∀ c a x n rest, s.fetchBytes P e r.pkr r.cbaddr 256 = (u, .fault c a) → u.consumers Q r = x :: rest →
        (s.tile Q).task = some n → s.live n →
          Answers (.refetchRequest P e) s (EndsTask n 0x0031 ((0 : BitVec 14) ++ (s.tile x.1).vt ++ (0x05 : Byte))))) ∧
  (∀ (s : State) (P : TileId) (k : Task) (r : Refetch) (g : Region),
    let c := cbOf (s.bytes (gTile P.toNat (offOf r.cbaddr)) 256)
    let unit := unitOf c.w1.fmt
    let o : Int := (offOf c.w1.base : Int) + c.w1.offset (r.idx.toList.map BitVec.toNat)
    let a := gTile P.toNat (g.desc.base.toNat + r.slot.toNat * g.desc.slotb.toNat + o.toNat)
    s.pendingRecord P .ld = some (r, P) → s.taskOf P = some k → k.state = .running → k.ending = none → k.redun = .none →
    (s.tile P).stopped = false → (s.engine P .ld).block ≠ .parked → s.parkedSrc P (engSrc .ld) = false → s.clean →
    Memory.wf s.mem = true → s.region P r.rid = some g → ownSpan r.cbaddr 256 →
    c.formOk .ld false true = true → c.op = 0x15 → c.port = 0 → c.rwin = 1 → c.w1.ring = true → c.hz = false →
    lastBelow c.bounds (r.idx.toList.map BitVec.toNat) c.rlvl.toNat = true → ownSpan c.w1.base 0 → 0 ≤ o →
    o + unit ≤ g.desc.slotb.toNat → g.desc.base.toNat + (r.slot.toNat + 1) * g.desc.slotb.toNat ≤ 2 ^ 19 →
    c.fillUnit.length = unit → 0 < unit → 0 < c.trips → Answers (.refetchRequest P .ld) s fun t =>
      t.bytes a unit = c.fillUnit ∧ SameBytesOutside a unit s t ∧
      (∃ g', t.region P r.rid = some g' ∧ g' = { g with pending := g'.pending } ∧
        ∀ i, i < 16 → g'.pending.getLsbD i = (g.pending.getLsbD i && i != r.slot.toNat)) ∧
      ∀ T f, (T, f) ∈ s.consumers P r → (t.engine T f).block = .none) ∧
  (∀ (s : State) (P : TileId) (e : Eng) (n : Nat), (s.tile P).task = some n → s.live n → (s.engine P e).block = .refetch →
    513 ≤ s.between (dieOf P) (s.engine P e).since s.tick → (s.tile P).stopped = false →
      Answers (.rollbackTimeout P e) s (EndsTask n 0x0031 ((0 : BitVec 14) ++ (s.tile P).vt ++ (0x05 : Byte)))) ∧
  (∀ (s : State) (n held : Nat) (k : Task) (P : TileId) (e : Eng) (rest : List (TileId × Eng)), s.task? n = some k →
    k.state = .running → k.ending = none → k.slipHold = (P, e) :: rest → s.heldTicks k = some held → k.quantum ≤ held → s.io.lost = false →
      Answers (.slipHoldTimeout n) s (EndsTask n 0x0031 ((0 : BitVec 14) ++ (s.tile P).vt ++ (0x08 : Byte))))

/-! ### Queues and the host's registers -/

/-- The commands of queues (R51, R53, R55): a command while one is busy, or before the device serves queues, changes nothing; ENABLE
of a queue that is not disabled and DISABLE of a disabled one answer 3; ENABLE with a descriptor that is not valid answers 1, with a
TAIL other than 0 it answers 2 and the queue is in ERROR with OVERRUN, and otherwise the queue is ACTIVE with its indices at 0; and
BUSY clears.
When a command is ignored, and ERRIDX of an overrun at ENABLE, are the model's readings (log entry 27). -/
def Obligations.QueueCommands : Prop :=
  ∀ (s : State),
    let commands (on off : Instr) (m : Nat) (qidx : BitVec 10) (sup free : Bool) (cmd : IoDie → QCmd) : Prop :=
      let x := s.queue m
      let done (op res : BitVec 2) (t : State) : Prop := cmd t.io = { op, busy := true, res, qidx } ∧ t.tiles = s.tiles ∧ t.tasks = s.tasks
      (free = false → Answers on s (fun t => t = s) ∧ Answers off s (fun t => t = s)) ∧
      (free = true →
        (x.state ≠ .disabled → Answers on s fun t => done 1 3 t ∧ t.queue m = x ∧ SameMemory s t) ∧
        (x.state = .disabled → Answers off s fun t => done 2 3 t ∧ t.queue m = x ∧ SameMemory s t) ∧
        (x.state ≠ .disabled → Answers off s fun t => done 2 0 t ∧ t.queue m = { x with state := .disabled }) ∧
        (x.state = .disabled → (s.descBytes m).bind (descOf sup) = none → Answers on s fun t => done 1 1 t ∧ t.queue m = x) ∧
        (∀ y u l, x.state = .disabled → (s.descBytes m).bind (descOf sup) = some y → s.agentRead y.ctx y.hdr 64 = (u, some l) →
          u.agentWritable y.ctx (y.hdr + 64) 1 = true →
            let z := { y with entries := x.entries, finished := x.finished, era := x.era + 1 }
            (numAt l 0 4 = 0 → Answers on s fun t => done 1 0 t ∧ t.queue m = { z with state := .active }) ∧
            (numAt l 0 4 ≠ 0 → Answers on s fun t => done 1 2 t ∧ t.queue m = { z with state := .error, err := 2 })))
    (∀ q : BitVec 10, commands (.qcmdEnable q) (.qcmdDisable q) q.toNat q false (!s.io.qcmd.busy && s.io.serves) fun x => x.qcmd) ∧
    (∀ q : BitVec 4, commands (.supqEnable q) (.supqDisable q) (1024 + q.toNat) (q.zeroExtend 10) true
      (!s.io.supcmd.busy && !s.io.lost) fun x => x.supcmd) ∧
    (s.io.qcmd.busy = true → Answers .qcmdComplete s fun t =>
      t = { s with io := { s.io with qcmd := { s.io.qcmd with busy := false } } }) ∧
    (s.io.qcmd.busy = false → s.io.supcmd.busy = true → Answers .qcmdComplete s fun t =>
      t = { s with io := { s.io with supcmd := { s.io.supcmd with busy := false } } })

/-- The host's registers (R49 to R51, R70): PTPFREQ takes its word, PTPSTEP adds to TIME, a read of PTPTIME's low word latches the high
word, a write to an offset with no row of its own, or of QCMD with OP 0 or 3, changes nothing, and a read of BAR0 gives the register
at its offset, or zero; before READY only DEVSTAT answers with its value (R471).
The width of a read, and a read of PTPSTEP, are the model's (log entries 11 and 61). -/
def Obligations.HostRegisters : Prop :=
  ∀ (s : State) (f : BitVec 32) (v : Word) (off : BitVec 32),
    let step := { s with timeNs := s.timeNs + v }
    Answers (.ptpfreqWrite f) s (fun t => t = { s with io := { s.io with ptpfreq := f } }) ∧
    Answers (.ptpstepWrite v) s (fun t => t = step) ∧
    (s.io.ready = true → Answers (.ptptimeRead false) s (fun t => t = { s with io := { s.io with
      ptpLatch := s.timeNs.extractLsb' 32 32, answers := s.io.answers ++ [leBytes 4 (s.timeNs.toNat % 2 ^ 32)] } })) ∧
    (s.io.ready = true → Answers (.ptptimeRead true) s (fun t => t = { s with io := { s.io with
      answers := s.io.answers ++ [leBytes 4 s.io.ptpLatch.toNat] } })) ∧
    (s.io.ready = false → ∀ high, Answers (.ptptimeRead high) s (fun t => t = { s with io := { s.io with
      answers := s.io.answers ++ [[0, 0, 0, 0]] } })) ∧
    (off ≠ 0x100 → off ≠ 0x208 → off ≠ 0x210 → Answers (.bar0Write off v) s (fun t => t = s)) ∧
    ((v.toNat / 2 ^ 30 % 4 = 0 ∨ v.toNat / 2 ^ 30 % 4 = 3) → Answers (.bar0Write 0x100 v) s (fun t => t = s)) ∧
    Answers (.bar0Write 0x208 v) s (fun t => t = { s with io := { s.io with ptpfreq := v.extractLsb' 0 32 } }) ∧
    Answers (.bar0Write 0x210 v) s (fun t => t = step) ∧
    (∀ t, v.toNat / 2 ^ 30 % 4 = 1 → (exec (.bar0Write 0x100 v) s = .next t ↔ exec (.qcmdEnable (v.extractLsb' 0 10)) s = .next t)) ∧
    (∀ t, v.toNat / 2 ^ 30 % 4 = 2 → (exec (.bar0Write 0x100 v) s = .next t ↔ exec (.qcmdDisable (v.extractLsb' 0 10)) s = .next t)) ∧
    (off ≠ 0x200 → off ≠ 0x204 → off ≠ 0x210 → ∃ t a, perform (.bar0Read off) s = .next t ∧
      t = { s with free := t.free, io := { s.io with answers := s.io.answers ++ [leBytes 8 (BitVec.toNat a)] } } ∧
      (s.io.ready = false → off ≠ 0x008 → a = 0) ∧
      (s.io.ready = true → (off = 0x000 → a = s.io.qtbase) ∧ (off = 0x208 → a = s.io.ptpfreq.zeroExtend 64)) ∧
      (off = 0x008 → a.extractLsb' 3 61 = 0 ∧ a.getLsbD 2 = s.io.lost ∧ a.getLsbD 1 = !s.resync.isEmpty ∧ a.getLsbD 0 = s.io.ready) ∧
      (s.io.ready = true → off = 0x100 → a.extractLsb' 32 32 = 0 ∧ a.extractLsb' 30 2 = s.io.qcmd.op ∧ a.getLsbD 29 = s.io.qcmd.busy ∧
        a.extractLsb' 12 17 = 0 ∧ a.extractLsb' 10 2 = s.io.qcmd.res ∧ a.extractLsb' 0 10 = s.io.qcmd.qidx) ∧
      (off ≠ 0x000 → off ≠ 0x008 → off ≠ 0x100 → off ≠ 0x208 → a = (0 : Word)))

/-- TAIL_UPDATE and QUEUE_ENTRY (R56, R57, R59, R61, R63): a new TAIL is taken, and more than NENT entries not passed by HEAD are an
overrun; the entry at the next index of the queue that is served is refused with SEQ-BREAK, COMPL-INVALID or ENTRY-FAULT, which put the
queue in ERROR, or counted, and then rejected with its status, completed, or accepted as a task that is READY when it has no
predecessor.
The context of the reads, and HEAD behind a waiting control entry, are the model's readings (log entries 27 and 28). -/
def Obligations.QueueEntries : Prop :=
  ∀ (s : State) (q : BitVec 11),
    let x := s.queue q.toNat
    let errs (i : Instr) (code : Byte) (idx : BitVec 32) : Prop := Answers i s fun t =>
      (t.queue q.toNat).state = .error ∧ (t.queue q.toNat).err = code ∧ (t.queue q.toNat).errIdx = idx ∧ t.tasks = s.tasks ∧
        t.tiles = s.tiles
    (∀ u l, x.state = .active → s.io.serves = true → s.agentRead x.ctx x.hdr 64 = (u, some l) →
      let tail := BitVec.ofNat 32 (numAt l 0 4)
      tail ≠ x.tail →
        ((tail - x.head).toNat ≤ x.nent → Answers (.tailUpdate q) s fun t => t.queue q.toNat = { x with tail } ∧ SameMemory u t) ∧
        (x.nent < (tail - x.head).toNat → errs (.tailUpdate q) 2 x.head)) ∧
    (x.state = .active → s.nextQueue = some q.toNat → s.io.serves = true → ∀ u got,
      { s with io := { s.io with lastTurn := kset s.io.lastTurn x.group q.toNat } }.entryLine q.toNat x = some (u, got) →
        (got = none → errs (.queueEntry q) 3 x.next) ∧
        (∀ l, got = some l →
          let p := packetOf l
          let here := u.setQueue q.toNat { x with expected := x.expected + 1, next := x.next + 1, count := x.count + 1 }
          let taken (t : State) : Prop := let y := t.queue q.toNat
            y.expected = x.expected + 1 ∧ y.next = x.next + 1 ∧ y.count = x.count + 1 ∧ (x.entries = [] → y.entries = [] → y.head = x.next + 1)
          let ends (status : BitVec 16) : Prop := Answers (.queueEntry q) s fun t => taken t ∧
            (t.queue q.toNat).finished.head? = some (x.era, x.count, status)
          let badCompl := p.compl = 0 ∨ p.compl.extractLsb' 0 5 ≠ 0 ∨ u.agentWritable x.ctx p.compl 1 = false
          (p.seq ≠ x.expected → errs (.queueEntry q) 1 x.next) ∧
          (p.seq = x.expected → badCompl → errs (.queueEntry q) 4 x.next) ∧
          (p.seq = x.expected → ¬ badCompl →
            (p.wrong = true → ends 0x0020) ∧
            (p.wrong = false → p.preds = [] →
              (p.typ = 2 → p.cop = 0 → ends 0x0010) ∧
              (∀ w c, p.typ = 1 → here.checkLaunch q.toNat x.next p = (w, .error c) → ends c) ∧
              (∀ w k, p.typ = 1 → here.checkLaunch q.toNat x.next p = (w, .ok k) → Answers (.queueEntry q) s fun t => taken t ∧
                ∃ clock, t.task? w.nextTask = some { k with state := .ready, readyAt := s.tick, clock })))))

/-- DRAIN_COMPLETE, CANCEL_COMPLETE and PREDECESSOR_COMPLETE (R61, R62): a DRAIN completes once every earlier entry of its queue has,
those of an earlier ENABLE too, a CANCEL once its tasks are gone; an entry with a failed predecessor completes with PRED-FAILED and does not run, and one whose
predecessors have all completed goes on, unless a fault end or a CANCEL has already ended its task (R82). -/
def Obligations.QueueCompletions : Prop :=
  ∀ (s : State) (q : BitVec 11) (seq : BitVec 16) (e : Entry),
    let x := s.queue q.toNat
    let ends (i : Instr) (status : BitVec 16) : Prop := Answers i s fun t =>
      (t.queue q.toNat).finished.head? = some (e.era, e.ord, status) ∧ t.tiles = s.tiles
    s.io.lost = false →
      (x.entries.find? (fun e => decide (e.kind = .drain) && !e.waits && !x.entries.any fun y =>
        decide (y.era < e.era ∨ (y.era = e.era ∧ y.ord < e.ord))) = some e → ends (.drainComplete q) 0x0010) ∧
      (x.entries.find? (fun e => e.seq == seq && (match e.kind with
        | .cancel _ (some l) => !l.any fun t => (s.task? t).isSome
        | _ => false)) = some e → ends (.cancelComplete q seq) 0x0010) ∧
      (x.entries.find? (fun e => e.waits && e.seq == seq && x.predState e.era e.preds != .waits && !s.entryEnds e) = some e →
        (x.predState e.era e.preds = .failed → ends (.predecessorComplete q seq) 0x0030 ∧
          ∀ n, e.kind = .launch n → Answers (.predecessorComplete q seq) s fun t => t.task? n = none) ∧
        (x.predState e.era e.preds = .done →
          (e.kind = .mark → ends (.predecessorComplete q seq) 0x0010) ∧
          (∀ n k, e.kind = .launch n → s.task? n = some k → Answers (.predecessorComplete q seq) s fun t =>
            t.task? n = some { k with state := .ready, readyAt := s.tick, clock := s.io.known } ∧
            { e with waits := false } ∈ (t.queue q.toNat).entries)))

/-! ### Agents of the memory side -/

/-- PAGE_WALK, REENCRYPT_PAGE and RLC_UPDATE (R228, R230, R232, R248, R386): a walk that finds a permitted leaf sets A, and D for a
write, in the entry's bytes and nowhere else, and the leaf enters the TLB; every other walk leaves memory and the TLB as they are; a
page that a write on its way would overflow has the next MAJOR and minors of 0, and no byte outside it changes; a message is applied once what it
depends on has been, and brings the clocks up, and every older copy of its line either has its data or is gone.
When these happen by themselves is the model's (log entries 38 and 39). -/
def Obligations.WalksReencryptionAndUpdates : Prop :=
  (∀ (s : State) (d : BitVec 2) (ctx : BitVec 12) (va : Word) (kind : AccKind) (pkr : Word) (w : Walk) (a n : Nat),
    tagOf va = 0x00 → ownerOf va = d.toNat → va.extractLsb' 48 5 = 0 → (s.die d.toNat).tlbFind ctx va kind = none →
    s.io.lost = false → s.findPte d.toNat ctx va = (w, a, n) →
      (∀ p, w = .leaf p → permitted p kind pkr = true → Memory.wf s.mem = true →
        let q := if kind = .write ∨ kind = .rmw then p ||| 0x18 else p ||| 0x08
        Answers (.pageWalk d ctx va kind pkr) s fun t =>
          (q ≠ p → t.num (gDie d.toNat a) 8 = q.toNat) ∧ SameBytesOutside (gDie d.toNat a) (if q = p then 0 else 8) s t ∧
          (∃ e ∈ (t.die d.toNat).tlb, e.ctx = ctx ∧ e.leaf = q ∧ e.hits ctx va = true) ∧ t.tiles = s.tiles) ∧
      (((∀ p, w ≠ .leaf p) ∨ ∃ p, w = .leaf p ∧ permitted p kind pkr = false) →
        Answers (.pageWalk d ctx va kind pkr) s fun t => t = s)) ∧
  (∀ (s : State) (d : BitVec 2) (page : BitVec 36) (key : Byte) (k : BitVec 256),
    let c := (s.die d.toNat).ctr page.toNat
    key ≠ 0 → kfind (s.die d.toNat).keys key.toNat = some k → inHbm (page.toNat * 4096) 4096 = true →
    s.tiles.any (fun p => s.overflows (BitVec.ofNat 10 p.1) d.toNat page.toNat key) = true → c.major ≠ BitVec.allOnes 64 → (s.die d.toNat).quarantined (page.toNat * 4096) = false → s.io.lost = false → Memory.wf s.mem = true →
      (verifyWrite (s.die d.toNat) d.toNat (page.toNat * 4096) = none → Answers (.reencryptPage d page key) s fun t =>
        ((t.die d.toNat).ctr page.toNat).major = c.major + 1 ∧ (∀ i, ((t.die d.toNat).ctr page.toNat).minor i = 0) ∧
        SameBytesOutside (gDie d.toNat (page.toNat * 4096)) 4096 s t ∧ (∀ l ∈ s.poison, l ∈ t.poison) ∧ t.tiles = s.tiles) ∧
      (∀ lvl, verifyWrite (s.die d.toNat) d.toNat (page.toNat * 4096) = some lvl → Answers (.reencryptPage d page key) s fun t =>
        SameMemory s t ∧ t.tiles = s.tiles ∧ (t.die d.toNat).ctrs = (s.die d.toNat).ctrs ∧
        (t.die d.toNat).quarantine.length = (s.die d.toNat).quarantine.length + 1)) ∧
  (∀ (s : State) (h : BitVec 2) (k : Nat) (m : ClockMsg),
    let x := s.die h.toNat
    x.inbox[k]? = some m → at4 x.a m.owner.toNat + 1 = at4 m.stamp m.owner.toNat →
    (∀ j, j < 4 → j ≠ m.owner.toNat → at4 m.stamp j ≤ at4 x.a j) → Answers (.rlcUpdate h k) s fun t =>
      let y := t.die h.toNat
      y.inbox = x.inbox.eraseIdx k ∧ SameMemory s t ∧ t.tiles = s.tiles ∧
      (∀ j, j < 4 → at4 y.a j = max (at4 x.a j) (at4 m.stamp j) ∧ at4 y.k j = max (at4 x.k j) (at4 m.stamp j)) ∧
      (m.upd = none → y.rlc = x.rlc) ∧
      ∀ home key data, m.upd = some (home, key, data) →
        let n := at4 m.stamp m.owner.toNat
        (∀ l ∈ x.rlc, l.home ≠ home ∨ n ≤ l.ver → l ∈ y.rlc) ∧
        (∀ l ∈ x.rlc, l.home = home → l.ver < n → l.key = key → data.length = 64 → { l with data, ver := n } ∈ y.rlc) ∧
        ∀ l ∈ y.rlc, l.home = home → l.ver < n → False)

/-- ATS_INVALIDATE, PRI_RESPONSE, HDM_ACCESS to plaintext memory and the links (R238, R240, R242, R396, R462): a translation goes; a
parked access goes again or raises BADADDR; the host reads and writes the bytes that its range names, but none beneath a quarantine (R249); a link's ends count, and a
request that crosses it without a reply is sent again.
The form of an answer and the end of a parked host access are the model's (log entries 36, 37 and 62). -/
def Obligations.HostAccessesAndLinks : Prop :=
  (∀ (s : State) (ctx : BitVec 12) (va : Word),
    Answers (.atsInvalidate ctx va) s fun t => t = { s with io := { s.io with atc := t.io.atc } } ∧
      ∀ e, e ∈ t.io.atc ↔ e ∈ s.io.atc ∧ ¬ (e.1 = ctx ∧ e.2.1 = BitVec.ofNat 64 (va.toNat % 2 ^ 53 / 4096 * 4096))) ∧
  (∀ (s : State) (ctx : BitVec 12) (va : Word) (p : Parked) (e : Eng) (f : Fetched),
    s.io.pri.filter (fun p => p.ctx == ctx && hostPageOf p.va == hostPageOf va) = [p] → p.host = none → srcEng p.src = some e →
    (s.engine p.tile e).block = .parked → (s.engine p.tile e).cur = some f →
      let rest := s.io.pri.filter fun p => !(p.ctx == ctx && hostPageOf p.va == hostPageOf va)
      Answers (.priResponse ctx va true) s (fun t => t.io.pri = rest ∧ (t.engine p.tile e).block = .none ∧
        OnlyTile p.tile { s with io := t.io } t ∧ (t.tile p.tile).events = (s.tile p.tile).events) ∧
      Answers (.priResponse ctx va false) s (fun t => t.io.pri = rest ∧ (t.engine p.tile e).block = .event ∧
        OnlyTile p.tile { s with io := t.io } t ∧ (t.tile p.tile).events = (s.tile p.tile).events ++
          [{ src := engSrc e, cause := .badaddr, val := p.va, loc := f.addr, since := s.tick, recorded := false, ptile := p.tile,
             seqno := 0, action := 0, reply := none }])) ∧
  (∀ (s : State) (hpa : Word) (r : HdmRange) (data : List Byte) (size : Nat),
    let pa := r.pa + (hpa.toNat - r.hpa.toNat)
    let g := gDie r.die.toNat pa
    let bad := s.poisonIn g size = true ∨ (s.die r.die.toNat).quarantined pa = true
    s.io.hdmAt hpa.toNat size = some r → r.key = 0 → size ≠ 0 → pa % 64 + size ≤ 64 → oneRange pa size = true →
      (¬ bad → Answers (.hdmAccess false hpa size []) s fun t =>
        t.io.answers = s.io.answers ++ [0 :: s.bytes g size] ∧ SameMemory s t ∧ t.tiles = s.tiles) ∧
      (bad → Answers (.hdmAccess false hpa size []) s fun t =>
        t.io.answers = s.io.answers ++ [[1]] ∧ SameMemory s t ∧ t.tiles = s.tiles) ∧
      (data.length = size → s.io.lost = false → Memory.wf s.mem = true → Answers (.hdmAccess true hpa size data) s fun t =>
        ((s.die r.die.toNat).quarantined pa = false → t.bytes g size = data) ∧
        ((s.die r.die.toNat).quarantined pa = true → SameMemory s t) ∧
        SameBytesOutside g size s t ∧ t.io.answers = s.io.answers ++ [[0]] ∧ t.tiles = s.tiles)) ∧
  (∀ (s : State) (a b : BitVec 3), a ≠ b → a.toNat ≤ 4 → b.toNat ≤ 4 →
    let up (w : Word) : Word := if w = BitVec.allOnes 64 then w else w + 1
    Answers (.flitRetry a b) s (fun t => SameMemory s t ∧ t.tiles = s.tiles ∧
      ∀ x ∈ [a, b], x.toNat < 4 → (t.die x.toNat).telemetry =
        { (s.die x.toNat).telemetry with flitRetries := up (s.die x.toNat).telemetry.flitRetries }) ∧
    Answers (.linkRetrain a b) s (fun t => SameMemory s t ∧
      (∀ x ∈ [a, b], x.toNat < 4 → (t.die x.toNat).telemetry =
        { (s.die x.toNat).telemetry with retrains := up (s.die x.toNat).telemetry.retrains }) ∧
      ∀ P i f, s.inFlight P = some (i, f) →
        (s.overLink P a b f.req.ea = true → t.core P = { s.core P with flight := some { f with reply := none } }) ∧
        (s.overLink P a b f.req.ea = false → t.core P = s.core P)))

/-- The network (R72, R74, R239, R393, R396): a peer's request with no window, outside it or without its right gets an error, a
duplicate the stored response, one that is not the next of its queue pair a sequence error, and any other what its operation comes to; a frame with a wrong FCS or for no ring is dropped at its
port; one that a ring with room takes fills the next slot; the stored indices are read; and a filled transmit slot is sent or, when
too long, returned unsent.
The form of a request and of its answer, the constants of Ethernet, what a failing ring access does, that a sent frame goes out on the
ports of its ring, and that a longer frame than 9216 bytes is dropped and counted at its port, are the model's (log entries 33 to 35, 78
and 79). -/
def Obligations.Network : Prop :=
  (∀ (s u : State) (r : RoceReq) (out : PeerOut) (entry : Option AccOut),
    let answers (l : List Byte) (t : State) : Prop := t.io.answers = s.io.answers ++ [l] ∧ t.tiles = s.tiles
    s.io.lost = false →
    (s.io.inbound r.rkey = none → Answers (.roceInbound r) s fun t => answers [1] t ∧ SameMemory s t) ∧
    ∀ w, s.io.inbound r.rkey = some w →
      let src := ReqSrc.peer w.ctx r.qp
      let tag := r.psn.extractLsb' 0 16
      let found := s.io.peerDone.find? fun x => x.src == src && x.tag == tag
      (∀ x v, found = some x → x.reply = .value v → Answers (.roceInbound r) s fun t =>
        answers (0 :: leBytes 8 v.toNat) t ∧ SameMemory s t) ∧
      let next (t : State) : Prop := (kfind s.io.inPsn (qpKey w.ctx r.qp) = none ∨ kfind s.io.inPsn (qpKey w.ctx r.qp) = some r.psn) →
        kfind t.io.inPsn (qpKey w.ctx r.qp) = some (r.psn + 1)
      (found = none → s.psnAhead w.ctx r = true → Answers (.roceInbound r) s fun t => t = s.reply [3]) ∧
      (found = none → s.psnAhead w.ctx r = false → (roceAllowed r.op w = false ∨ w.len.toNat < r.va.toNat + roceSize r.op) →
        Answers (.roceInbound r) s fun t => answers [1] t ∧ SameMemory s t ∧ next t) ∧
      (found = none → s.psnAhead w.ctx r = false → roceAllowed r.op w = true → r.va.toNat + roceSize r.op ≤ w.len.toNat →
        roceApply (.peer w.ctx r.qp) r.op { tile := none, task := none, ctx := w.ctx, vt := 0, copy := false, pkr := w.pkr, src := 7 } (w.base + r.va) s =
          (u, out, entry) →
            (∀ l, out = .ok l → Answers (.roceInbound r) s fun t => answers (0 :: l) t ∧ SameMemory u t ∧ next t ∧
              (∀ y, entry = some y → ∃ e ∈ t.io.peerDone, e.src = src ∧ e.tag = tag ∧ e.reply = y)) ∧
            (out = .error → Answers (.roceInbound r) s fun t => answers [1] t ∧ SameMemory u t ∧ next t) ∧
            (out = .park → Answers (.roceInbound r) s fun t => answers [2] t ∧ SameMemory u t ∧ t.io.inPsn = u.io.inPsn))) ∧
  (∀ (s : State) (port : BitVec 2) (frame : List Byte),
    let n := frame.length - 4
    let body := frame.take n
    let good := 4 ≤ frame.length ∧ leNat (frame.drop n) = (fcs body).toNat ∧ n ≤ 9216
    let drops (t : State) : Prop := SameMemory s t ∧ t.tiles = s.tiles ∧ at4 t.io.portDrop port.toNat =
      (if at4 s.io.portDrop port.toNat = BitVec.allOnes 64 then BitVec.allOnes 64 else at4 s.io.portDrop port.toNat + 1)
    (¬ good → Answers (.frameReceive port frame) s drops) ∧
    (good → s.ringFor port (frameHead body) = none → Answers (.frameReceive port frame) s drops) ∧
    (good → ∀ g r u, s.ringFor port (frameHead body) = some (g, r) → kfind s.io.rxRings g = some r →
      (r.pi - r.ci).toNat ≠ r.nslot.toNat → s.recModeOf r.ctx = 0 → s.io.lost = false →
        (r.slotsz.toNat < n + 32 → Answers (.frameReceive port frame) s fun t => SameMemory s t ∧ t.tiles = s.tiles ∧
          kfind t.io.rxRings g = some r.drop) ∧
        (n + 32 ≤ r.slotsz.toNat →
          s.agentWrite r.ctx (r.slotVa r.pi) (s.rxHeader port r (frameHead body) n ++ body) = (u, true) → r.vtile = 0xFFFF →
            Answers (.frameReceive port frame) s fun t => t.tiles = s.tiles ∧
              kfind t.io.rxRings g = some { r with pi := r.pi + 1, fseq := r.fseq + 1 }))) ∧
  (∀ (s u : State) (g : Byte) (r : Ring) (i : BitVec 32),
    (kfind s.io.rxRings g.toNat = some r → s.readIndex r.ctx r.civa r.ci = (u, i) → Answers (.civaStore g) s fun t =>
      kfind t.io.rxRings g.toNat = some { r with ci := i } ∧ SameMemory u t ∧ t.tiles = s.tiles) ∧
    (kfind s.io.txRings g.toNat = some r → s.readIndex r.ctx r.piva r.pi = (u, i) → Answers (.pivaStore g) s fun t =>
      kfind t.io.txRings g.toNat = some { r with pi := i } ∧ SameMemory u t ∧ t.tiles = s.tiles)) ∧
  (∀ (s u w : State) (g : Byte) (r : Ring) (header frame : List Byte),
    let len := numAt header 10 2
    kfind s.io.txRings g.toNat = some r → r.pi ≠ r.ci → s.io.lost = false → s.slotRead r (r.slotVa r.ci) 32 = (u, header, none) →
      (len ≤ 9216 → len + 32 ≤ r.slotsz.toNat → u.slotRead r (r.slotVa r.ci + 32) len = (w, frame, none) →
        Answers (.frameTransmit g) s fun t => t.io.sent = s.io.sent ++ [(r.ports, frame)] ∧ t.tiles = s.tiles ∧
          kfind t.io.txRings g.toNat = some { r with ci := r.ci + 1 }) ∧
      ((9216 < len ∨ r.slotsz.toNat < len + 32) → Answers (.frameTransmit g) s fun t => t.io.sent = s.io.sent ∧
        t.tiles = s.tiles ∧ kfind t.io.txRings g.toNat = some { r with ci := r.ci + 1 }))

/-! ### Reliability -/

/-- Voted units, and the control-plane fatal event (R430 to R433): a first dissenter with a majority is held out and resynchronised;
a second disagreement, no majority, or a resynchronisation that fails is fatal: LOST is set, every tile of every task stops, every event
and parked access is discarded, and every launch that had been accepted has DEVICE-LOST for its status. The states of a unit are
compared at each multiple of 4,096 ticks.
That nothing in flight lands after LOST, and what the three checksums of a unit are, are the model's (log entries 20 and 22). -/
def Obligations.VotedUnits : Prop :=
  ∀ (s : State) (u : VotedUnit) (a b c : Word),
    let fatal (t : State) : Prop := t.io.lost = true ∧ (∀ q, ∀ e ∈ (s.queue q).entries, ∀ n, e.kind = .launch n →
        e ∉ (t.queue q).entries ∧ (e.era, e.ord, 0x00FF) ∈ (t.queue q).finished) ∧
      (∀ x, (t.cluster x).queue = []) ∧ (∀ d, d < 4 → (t.die d).park = [] ∧ (t.die d).parkHeld = []) ∧ t.io.pri = [] ∧
      ∀ n k, (n, k) ∈ s.tasks → ∀ P ∈ k.tiles, (t.tile P).stopped = true ∧ (t.tile P).events = []
    let held (i : Instr) : Prop := Answers i s fun t => t = { s with resync := s.resync ++ [u] }
    s.io.lost = false →
      (u ∉ s.resync → held (.voteDisagree u true)) ∧ (u ∈ s.resync → Answers (.voteDisagree u true) s fatal) ∧
      Answers (.voteDisagree u false) s fatal ∧
      (s.tick % 4096 = 0 →
      (a = b → b = c → u ∉ s.resync → Answers (.stateCrcCompare u a b c) s fun t => t = s) ∧
      ((a = b ∧ b ≠ c ∨ a ≠ b ∧ (b = c ∨ a = c)) → u ∉ s.resync → held (.stateCrcCompare u a b c)) ∧
      (a ≠ b → b ≠ c → a ≠ c → u ∉ s.resync → Answers (.stateCrcCompare u a b c) s fatal) ∧
      (a = b → u ∈ s.resync → Answers (.stateCrcCompare u a b c) s fun t => t = s) ∧
      (a ≠ b → u ∈ s.resync → Answers (.stateCrcCompare u a b c) s fatal)) ∧
      (u ∈ s.resync → Answers (.resyncComplete u true) s fun t => t.resync = s.resync.erase u ∧ SameMemory s t ∧
        t.tiles = s.tiles ∧ ∀ d ∈ unitDies u, (unitDies u).Nodup →
          ((t.die d).telemetry.resync[(kindIx u)]).toNat = min (((s.die d).telemetry.resync[(kindIx u)]).toNat + 1) (2 ^ 64 - 1)) ∧
      (u ∈ s.resync → Answers (.resyncComplete u false) s fatal)

/-- The time-outs of PAIR and TWIN tasks, divergence, freezes, patrol scrub and temperature (R419, R435, R437, R445, R465, R467, R468):
a pair whose requests differ, or with a late twin, ends with FAULT, cause 0x00, and both clusters are suspect; a TWIN copy's event without a match ends the task
with TWIN-MISMATCH; a freeze or its end leaves every region cycle counter at its value; scrubbing counts, and marks a line that it
cannot correct; throttling moves one level at a time, up while
a limit is passed, down once the die has been below its limits for 10 ms; and a thermal trip is fatal and removes power.
The tick of a throttle step and the temperature of a trip in sixteenths are the model's readings (log entry 21). -/
def Obligations.TimeoutsFreezesAndScrub : Prop :=
  (∀ (s : State) (P : TileId) (n : Nat) (k : Task), (s.tile P).task = some n → s.task? n = some k → k.redun = .pair →
    k.state = .running → k.ending = none → (s.tile P).trailing = false → s.io.lost = false →
    let late (v : BitVec 10) : Prop :=
      k.mismatch = some v ∨ ∃ x, s.twinWait k v = some x ∧ 257 ≤ s.between (dieOf P) x s.tick
    late (s.tile P).vt → (∀ v, v < (s.tile P).vt.toNat → ¬ late (BitVec.ofNat 10 v)) →
      Answers (.pairCompareTimeout P) s fun t => EndsTask n 0x0031 ((0 : BitVec 14) ++ (s.tile P).vt ++ (0x00 : Byte)) t ∧
        (t.cluster (clusterOf P)).suspect = true ∧ ∀ Q, s.twinTile P = some Q → (t.cluster (clusterOf Q)).suspect = true) ∧
  (∀ (s : State) (n : Nat) (k : Task) (P : TileId) (x : Nat), s.task? n = some k → k.redun = .twin → k.state = .running →
    k.ending = none → s.io.lost = false → P ∈ k.tiles → s.lonelyEvent P = some x → 65537 ≤ s.between (dieOf P) x s.tick →
      Answers (.twinEventTimeout n) s (EndsTask n 0x0034 0)) ∧
  (∀ (s : State) (n : Nat) (k : Task) (va : Word) (P : TileId), s.task? n = some k → k.recMode = 2 → P ∈ k.tiles →
    s.tileDiverges P va = true → Answers (.replayDivergence n va) s fun t => (k.ctx, va) ∈ t.io.diverged ∧ SameMemory s t ∧
      t.tiles = s.tiles ∧ ∃ k', t.task? n = some k' ∧
        k'.ctr.diverg.toNat = min (k.ctr.diverg.toNat + 1) (2 ^ 32 - 1)) ∧
  (∀ (s : State) (c : FreezeCause),
    let settled (t : State) : Prop := SameMemory s t ∧ t.tiles = s.tiles ∧
      ∀ n k k', s.task? n = some k → t.task? n = some k' → t.rcc k' = s.rcc k
    (c ∉ s.freezes → Answers (.rccFreeze c) s fun t => t.freezes = s.freezes ++ [c] ∧ settled t) ∧
    (c ∈ s.freezes → Answers (.rccThaw c) s fun t => t.freezes = s.freezes.erase c ∧ settled t)) ∧
  (∀ (s : State) (line d : Nat), scrubDie line = some d →
    let up (w : Word) : Word := if w = BitVec.allOnes 64 then w else w + 1
    let x := (s.die d).telemetry
    Answers (.patrolScrub line true) s (fun t => SameMemory s t ∧ t.tiles = s.tiles ∧
      (t.die d).telemetry = { x with corrections := up x.corrections }) ∧
    Answers (.patrolScrub line false) s (fun t => (∀ a, memGet t.mem a = memGet s.mem a) ∧ t.tiles = s.tiles ∧
      (∀ l, l ∈ t.poison ↔ l ∈ s.poison ∨ l = line) ∧ (t.die d).telemetry = { x with marks := up x.marks })) ∧
  (∀ (s : State) (d : BitVec 2),
    let x := s.die d.toNat
    let steps (up : Bool) (l : BitVec 3) : Prop := Answers (.thermalStep d up) s fun t => (t.die d.toNat).throttle = l ∧
      (t.die d.toNat).lastStep = s.tick ∧ SameMemory s t ∧ (∀ P, dieOf P ≠ d.toNat → t.tile P = s.tile P) ∧ ∀ P, SameRegs P s t
    x.powered = true → (x.telemetry.throttle = 0 ∨ x.lastStep + 1300000 ≤ s.tick) →
      (x.throttle ≠ 7 → x.past = true → steps true (x.throttle + 1)) ∧
      (∀ c, x.throttle ≠ 0 → x.coolFrom = some c → c + 13000000 ≤ s.tick → steps false (x.throttle - 1))) ∧
  (∀ (s : State) (d : BitVec 2), 1840 ≤ (s.die d.toNat).telemetry.temp.toNat → (s.die d.toNat).telemetry.temp.toNat < 2 ^ 15 →
    (s.die d.toNat).powered = true → Answers (.thermalTrip d) s fun t => t.io.lost = true ∧ ∀ x, x < 4 → (t.die x).powered = false)

/-! ### Reset and management -/

/-- Resets and their stages, and the management interface (R462, R470, R471, R473 to R476): a reset leaves no task, no tile state, no
device byte and no key, and keeps the staged images and the fused minima; a stage that completes is counted, and the last one makes
the device serve queues; stage 2 checks the staged images again and derives the identity keys, and stage 6 the image that the supervisors
load; an image that passes every check takes the place of an earlier one of its KIND; every attestation request is
answered, a challenge and measurements with two signatures over the exchange, the SLH-DSA one in OpaqueData, and a request that the
device does not support with an error.
What a reset keeps of the outside world, TIME and the translation caches after it, the work of a stage, the fields of an answer and the
layout of a telemetry page are the model's (log entries 14, 16, 17, 18, 19 and 66). -/
def Obligations.ResetAndManagement : Prop :=
  (∀ (s : State),
    let after (t : State) : Prop := t.tiles = [] ∧ t.tasks = [] ∧ t.quads = [] ∧ t.clusters = [] ∧ t.io.queues = [] ∧
      t.io.lost = false ∧ t.io.ready = false ∧ t.io.stage = 0 ∧ t.io.staged = s.io.staged ∧ t.io.svnMin = s.io.svnMin ∧
      t.timeNs = 0 ∧ t.tick = 0 ∧ (∀ d, d < 4 → (t.die d).keys = [] ∧ (t.die d).tlb = [] ∧ (t.die d).powered = true) ∧
      (∀ a, memGet t.mem a = if 2 ^ 56 ≤ a ∧ a < 2 ^ 57 then memGet s.mem a else 0)
    Memory.wf s.mem = true → Answers .coldReset s after ∧ (s.dark = false → Answers .warmReset s after)) ∧
  (∀ (s : State), s.io.failed = false → s.io.stage < 7 → s.dark = false →
    let fails (ok : Bool) (why : Byte) : Prop := Answers (.resetStage ok) s fun t => t.io.failed = true ∧ t.io.stage = s.io.stage ∧
      t.io.mgmt = s.io.mgmt ++ [[BitVec.ofNat 8 (s.io.stage + 1), why]] ∧ SameMemory s t
    let sound := ∀ x ∈ s.io.staged, s.io.accepts x.image = true
    let loads := ∀ x ∈ s.io.running, x.kind = 2 → sha384 x.payload = x.digest
    ((s.io.stage = 1 → sound) → (s.io.stage = 5 → loads) → Answers (.resetStage true) s fun t => t.io.stage = s.io.stage + 1 ∧
      t.io.failed = false ∧ t.io.ready = (s.io.ready || s.io.stage == 6) ∧ SameMemory s t ∧ t.tiles = s.tiles ∧
      (s.io.stage = 1 → t.io.running = s.io.staged ∧
        t.io.identity = identityKeys (measured s.io.staged 1) (measured s.io.staged 2))) ∧
    (s.io.stage = 1 → ¬ sound → fails true 2) ∧ (s.io.stage = 5 → ¬ loads → fails true 3) ∧ fails false 1) ∧
  (∀ (s : State) (image : List Byte), 2 ≤ s.io.stage → Answers (.firmwareUpdate image) s fun t =>
    if s.io.accepts image = true then t.io.mgmt = s.io.mgmt ++ [[1]] ∧
      (∀ x, x ∈ t.io.staged ↔ x = imageOf image ∨ (x ∈ s.io.staged ∧ x.kind ≠ (imageOf image).kind)) ∧
      t.io.running = s.io.running ∧ t.io.svnMin = s.io.svnMin
    else t = { s with io := { s.io with mgmt := s.io.mgmt ++ [[0]] } }) ∧
  (∀ (s : State) (algs nonce request : List Byte) (slot : BitVec 4) (off len : BitVec 16) (index : Byte), 2 ≤ s.io.stage →
    let io := s.io
    let cert := io.certificate
    let sent (old request body : List Byte) (t : State) : Prop :=
      t = { s with io := { io with spdm := old ++ request ++ body, mgmt := io.mgmt ++ [body] } }
    let plain (i : Instr) (old request body : List Byte) : Prop := Answers i s (sent old request body)
    let signed (i : Instr) (request head tail : List Byte) : Prop := ∃ fresh : List Byte, fresh.length = 32 ∧
      let first := head ++ fresh
      let said := io.spdm ++ request ++ first
      plain i io.spdm request (first ++ opaqueData (Config.slhSign (io.measurement 1) (io.measurement 2) said) ++ tail ++
        Config.rsaSign (io.measurement 1) (io.measurement 2) said)
    let rest := cert.drop off.toNat
    let part := rest.take len.toNat
    let blocks := (asked index).flatMap io.blockRecord
    plain .getVersion [] [0x10, 0x84, 0, 0] [0x10, 0x04, 0, 0, 0, 1, 0x00, 0x13] ∧
    plain .getCapabilities io.spdm [0x13, 0xE1, 0, 0]
      ([0x13, 0x61, 0, 0, 0, 0, 0, 0] ++ leBytes 4 0x16 ++ leBytes 4 65536 ++ leBytes 4 65536) ∧
    plain (.negotiateAlgorithms algs) io.spdm ([0x13, 0xE3] ++ algs)
      ([0x13, 0x63, 0, 0] ++ leBytes 2 36 ++ [1, 2] ++ leBytes 4 4 ++ leBytes 4 4 ++ leBytes 4 2 ++ List.replicate 16 0) ∧
    plain .getDigests io.spdm [0x13, 0x81, 0, 0] ([0x13, 0x01, 0, 1] ++ shaList cert) ∧
    plain (.getCertificate slot off len) io.spdm
      ([0x13, 0x82, slot.zeroExtend 8, 0] ++ leBytes 2 off.toNat ++ leBytes 2 len.toNat)
      (if slot = 0 then [0x13, 0x02, 0, 0] ++ leBytes 2 part.length ++ leBytes 2 (rest.length - part.length) ++ part
       else [0x13, 0x7F, 1, 0]) ∧
    (slot = 0 → signed (.challenge slot nonce) ([0x13, 0x83, 0, 0] ++ nonce) ([0x13, 0x03, 0, 1] ++ shaList cert)
      ((nonce.drop 32).take 8)) ∧
    (slot ≠ 0 → plain (.challenge slot nonce) io.spdm ([0x13, 0x83, slot.zeroExtend 8, 0] ++ nonce) [0x13, 0x7F, 1, 0]) ∧
    signed (.getMeasurements index nonce) ([0x13, 0xE0, 1, index] ++ nonce)
      ([0x13, 0x60, if index = 0 then 5 else 0, 0, BitVec.ofNat 8 (asked index).length] ++ leBytes 3 blocks.length ++ blocks)
      ((nonce.drop 32).take 8) ∧
    (request.getD 1 0 ∉ spdmCodes → ∃ t, perform (.spdmOther request) s = .next t ∧
      sent io.spdm request [0x13, 0x7F, 7, request.getD 1 0] t)) ∧
  (∀ (s : State) (d : BitVec 3), 2 ≤ s.io.stage →
    (d.toNat < 4 → Answers (.pldmMonitor d) s fun t =>
      t = { s with io := { s.io with mgmt := s.io.mgmt ++ [s.telemetryPage d.toNat] } }) ∧
    (d = 4 → Answers (.pldmMonitor d) s fun t =>
      t = { s with io := { s.io with mgmt := s.io.mgmt ++ [s.io.telemetryPage] } }))
end

