-- ==== Sys2Proof/Laws/Memory.lean ====
section
/-! SUPPORT. The laws of memory: a read after a write, and the canonical form that every operation keeps. -/
namespace Sys2Proof.Machine

/-! ### The canonical form -/

theorem memSorted_mono {lo hi : Nat} {m : List Host.Cell} (h : lo ≤ hi) (w : memSorted hi m = true) :
    memSorted lo m = true := by
  cases m with
  | nil => rfl
  | cons c r =>
    simp only [memSorted, Bool.and_eq_true, decide_eq_true_eq] at w ⊢
    exact ⟨⟨Nat.le_trans h w.1.1, w.1.2⟩, w.2⟩

/-- An address below every listed one reads as an unlisted address does. -/
theorem memGet_below {lo a : Nat} {m : List Host.Cell} (w : memSorted lo m = true) (h : a < lo) : memGet m a = unlisted := by
  cases m with
  | nil => rfl
  | cons c r =>
    obtain ⟨k, b⟩ := c
    simp only [memSorted, Bool.and_eq_true, decide_eq_true_eq] at w
    have : a < k := Nat.lt_of_lt_of_le h w.1.1
    simp [memGet, Nat.ne_of_gt this, this]

theorem memSet_sorted {lo a : Nat} {v : Byte} {m : List Host.Cell} (w : memSorted lo m = true) (h : lo ≤ a) :
    memSorted lo (memSet m a v) = true := by
  induction m generalizing lo with
  | nil => by_cases hv : v = unlisted <;> simp [memSet, memSorted, hv, h]
  | cons c r ih =>
    obtain ⟨k, b⟩ := c
    simp only [memSorted, Bool.and_eq_true, decide_eq_true_eq] at w
    obtain ⟨⟨w1, w2⟩, w3⟩ := w
    by_cases h1 : a < k
    · by_cases hv : v = unlisted <;> simp [memSet, h1, Nat.succ_le_of_lt h1, hv, memSorted, w1, w2, w3, h]
    · by_cases h2 : k = a
      · subst h2
        by_cases hv : v = unlisted
        · simp only [memSet, h1, hv, if_true, if_false]
          exact memSorted_mono (by omega) w3
        · simp [memSet, hv, memSorted, w1, w3]
      · simp only [memSet, h1, h2, if_false, memSorted, Bool.and_eq_true, decide_eq_true_eq]
        exact ⟨⟨w1, w2⟩, ih w3 (by omega)⟩

/-- Storing a byte keeps memory canonical. -/
theorem memSet_wf {a : Nat} {v : Byte} {m : List Host.Cell} (w : Memory.wf m = true) : Memory.wf (memSet m a v) = true :=
  memSet_sorted w (Nat.zero_le a)

/-- Storing bytes keeps memory canonical. -/
theorem memWrite_wf {a : Nat} {bs : List Byte} {m : List Host.Cell} (w : Memory.wf m = true) :
    Memory.wf (memWrite m a bs) = true := by
  induction bs generalizing m a with
  | nil => exact w
  | cons b bs ih => exact ih (memSet_wf w)

theorem memSorted_filter {lo : Nat} {m : List Host.Cell} (p : Host.Cell → Bool) (w : memSorted lo m = true) :
    memSorted lo (m.filter p) = true := by
  induction m generalizing lo with
  | nil => rfl
  | cons c r ih =>
    obtain ⟨k, b⟩ := c
    simp only [memSorted, Bool.and_eq_true, decide_eq_true_eq] at w
    have hr := ih w.2
    by_cases hp : p (k, b) = true
    · simp only [List.filter_cons_of_pos hp, memSorted, Bool.and_eq_true, decide_eq_true_eq]
      exact ⟨w.1, hr⟩
    · rw [List.filter_cons_of_neg hp]
      exact memSorted_mono (by omega) hr

/-- Clearing bytes keeps memory canonical. -/
theorem memZero_wf {m : List Host.Cell} (a n : Nat) (w : Memory.wf m = true) : Memory.wf (memZero m a n) = true :=
  memSorted_filter _ w

/-- Keeping some cells keeps memory canonical. -/
theorem memFilter_wf {m : List Host.Cell} (p : Host.Cell → Bool) (w : Memory.wf m = true) : Memory.wf (m.filter p) = true :=
  memSorted_filter p w

/-- Memory below a bound, then memory from that bound on, is canonical. -/
theorem memSorted_append {lo hi : Nat} {l r : List Host.Cell} (hl : memSorted lo l = true) (hr : memSorted hi r = true)
    (hle : lo ≤ hi) (h : ∀ c ∈ l, c.1 < hi) : memSorted lo (l ++ r) = true := by
  induction l generalizing lo with
  | nil => exact memSorted_mono hle hr
  | cons c t ih =>
    obtain ⟨k, b⟩ := c
    simp only [memSorted, Bool.and_eq_true, decide_eq_true_eq, List.cons_append] at hl ⊢
    exact ⟨hl.1, ih hl.2 (h (k, b) (by simp)) fun c hc => h c (by simp [hc])⟩

/-- Cells that all stand at or above an address are canonical from there. -/
theorem memSorted_raise {lo hi : Nat} {m : List Host.Cell} (w : memSorted lo m = true) (h : ∀ c ∈ m, hi ≤ c.1) :
    memSorted hi m = true := by
  cases m with
  | nil => rfl
  | cons c r =>
    simp only [memSorted, Bool.and_eq_true, decide_eq_true_eq] at w ⊢
    exact ⟨⟨h c (by simp), w.1.2⟩, w.2⟩

/-- Canonical cells moved by one distance are canonical. -/
theorem memSorted_move {lo src dst : Nat} {m : List Host.Cell} (w : memSorted lo m = true) (hs : src ≤ lo) :
    memSorted (lo - src + dst) (m.map fun c => (c.1 - src + dst, c.2)) = true := by
  induction m generalizing lo with
  | nil => rfl
  | cons c r ih =>
    obtain ⟨k, b⟩ := c
    simp only [memSorted, Bool.and_eq_true, decide_eq_true_eq] at w
    have := ih w.2 (by omega)
    simp only [List.map_cons, memSorted, Bool.and_eq_true, decide_eq_true_eq]
    exact ⟨⟨by omega, w.1.2⟩, memSorted_mono (by omega) this⟩

/-- Copying bytes keeps memory canonical. -/
theorem memCopy_wf {m : List Host.Cell} (src dst n : Nat) (w : Memory.wf m = true) : Memory.wf (memCopy m src dst n) = true := by
  have hz := memZero_wf dst n w
  have hmid : memSorted dst (memSpan m src dst n) = true := by
    have := memSorted_move (src := src) (dst := dst)
      (memSorted_raise (hi := src) (memFilter_wf (fun c => src ≤ c.1 && c.1 < src + n) w) (by simp +contextual)) (Nat.le_refl _)
    exact memSorted_mono (by omega) this
  have hright : memSorted (dst + n) ((memZero m dst n).filter fun c => dst ≤ c.1) = true := by
    refine memSorted_raise (memFilter_wf _ hz) ?_
    simp only [memZero, List.mem_filter, Bool.or_eq_true, decide_eq_true_eq]
    omega
  rw [Memory.wf, memCopy, List.append_assoc]
  refine memSorted_append (hi := dst) (memFilter_wf _ hz) (memSorted_append hmid hright (by omega) ?_) (Nat.zero_le _) (by simp)
  simp only [memSpan, List.mem_map, List.mem_filter, Bool.and_eq_true, decide_eq_true_eq]
  rintro _ ⟨c, ⟨-, h⟩, rfl⟩
  simp only
  omega

/-! ### Reading what was written -/

theorem memGet_memSet_sorted {lo a x : Nat} {v : Byte} {m : List Host.Cell} (w : memSorted lo m = true) :
    memGet (memSet m a v) x = if x = a then v else memGet m x := by
  induction m generalizing lo with
  | nil =>
    by_cases hx : x = a
    · subst hx; by_cases hv : v = unlisted <;> simp [memSet, memGet, hv]
    · by_cases hv : v = unlisted <;> simp [memSet, memGet, hv, hx, Ne.symm hx]
  | cons c r ih =>
    obtain ⟨k, b⟩ := c
    simp only [memSorted, Bool.and_eq_true, decide_eq_true_eq] at w
    obtain ⟨⟨w1, w2⟩, w3⟩ := w
    by_cases h1 : a < k
    · by_cases hx : x = a
      · subst hx
        by_cases hv : v = unlisted <;> simp [memSet, h1, hv, memGet, Nat.ne_of_gt h1]
      · by_cases hv : v = unlisted
        · simp [memSet, h1, hv, hx]
        · simp only [memSet, h1, hv, if_true, if_false, hx, memGet, Ne.symm hx]
          by_cases h : x < a
          · simp [h, Nat.lt_trans h h1, Nat.ne_of_gt (Nat.lt_trans h h1)]
          · simp [h]
    · by_cases h2 : k = a
      · subst h2
        by_cases hv : v = unlisted
        · simp only [memSet, h1, hv, if_true, if_false]
          by_cases hx : x = k
          · subst hx; simp [memGet_below w3 (Nat.lt_succ_self _)]
          · simp only [hx, if_false, memGet, Ne.symm hx]
            by_cases h : x < k
            · simp [h, memGet_below w3 (show x < k + 1 by omega)]
            · simp [h]
        · simp only [memSet, h1, hv, if_true, if_false, memGet]
          by_cases hx : x = k
          · simp [hx]
          · simp [hx, Ne.symm hx]
      · simp only [memSet, h1, h2, if_false, memGet]
        by_cases hk : k = x
        · subst hk; simp [h2]
        · by_cases h : x < k
          · have : x ≠ a := by omega
            simp [hk, h, this]
          · simp [hk, h, ih w3]

/-- A byte read after a byte was stored. -/
theorem memGet_memSet {a x : Nat} {v : Byte} {m : List Host.Cell} (w : Memory.wf m = true) :
    memGet (memSet m a v) x = if x = a then v else memGet m x := memGet_memSet_sorted w

/-- A byte outside the bytes stored reads as before. -/
theorem memGet_memWrite_outside {a x : Nat} {bs : List Byte} {m : List Host.Cell} (w : Memory.wf m = true)
    (h : x < a ∨ a + bs.length ≤ x) : memGet (memWrite m a bs) x = memGet m x := by
  induction bs generalizing m a with
  | nil => rfl
  | cons b bs ih =>
    simp only [List.length_cons] at h
    have hx : x ≠ a := by omega
    rw [memWrite, ih (memSet_wf w) (by omega), memGet_memSet w, if_neg hx]

/-- The bytes stored read back. -/
theorem memGet_memWrite_inside {a i : Nat} {bs : List Byte} {m : List Host.Cell} (w : Memory.wf m = true)
    (h : i < bs.length) : memGet (memWrite m a bs) (a + i) = bs[i] := by
  induction bs generalizing m a i with
  | nil => simp at h
  | cons b bs ih =>
    cases i with
    | zero =>
      rw [memWrite, Nat.add_zero, memGet_memWrite_outside (memSet_wf w) (Or.inl (by omega)), memGet_memSet w]
      simp
    | succ i =>
      have := ih (m := memSet m a b) (a := a + 1) (i := i) (memSet_wf w) (by simpa using h)
      rw [memWrite, show a + (i + 1) = a + 1 + i by omega, this]
      simp

/-- Reading the bytes just stored gives them. -/
theorem memRead_memWrite {a : Nat} {bs : List Byte} {m : List Host.Cell} (w : Memory.wf m = true) :
    memRead (memWrite m a bs) a bs.length = bs := by
  apply List.ext_getElem
  · simp [memRead]
  · intro i h1 h2
    simp [memRead, memGet_memWrite_inside w h2]

theorem leBytes_length (n v : Nat) : (leBytes n v).length = n := by
  induction n generalizing v with
  | zero => rfl
  | succ n ih => simp [leBytes, ih]

/-- The number that the bytes of a number stand for. -/
theorem leNat_leBytes (n v : Nat) : leNat (leBytes n v) = v % 2 ^ (8 * n) := by
  induction n generalizing v with
  | zero => simp [leBytes, leNat, Nat.mod_one]
  | succ n ih =>
    simp only [leBytes, leNat, ih, BitVec.toNat_ofNat]
    rw [show 8 * (n + 1) = 8 + 8 * n by omega, Nat.pow_add, Nat.mod_mul]

end Sys2Proof.Machine
end

