-- ==== Sys2Proof/Laws/State.lean ====
section
/-! SUPPORT. The laws of the state's accessors: keyed data, tiles, cores, dies, quads, clusters and tasks after each named
update. -/
namespace Sys2Proof.Machine

/-! ### Keyed data -/

@[simp] theorem kget_kset {α : Type} (d : α) (m : KMap α) (k j : Nat) (v : α) :
    kget d (kset m k v) j = if k = j then v else kget d m j := by
  induction m with
  | nil => rfl
  | cons p r ih =>
    obtain ⟨i, w⟩ := p
    by_cases h1 : k < i
    · simp [kset, h1, kget]
    · by_cases h2 : i = k
      · subst h2
        by_cases h3 : i = j <;> simp [kset, kget, h3]
      · by_cases h3 : i = j
        · subst h3
          simp [kset, h1, h2, kget, Ne.symm h2]
        · simp [kset, h1, h2, kget, h3, ih]

@[simp] theorem kfind_kset {α : Type} (m : KMap α) (k j : Nat) (v : α) :
    kfind (kset m k v) j = if k = j then some v else kfind m j := by
  induction m with
  | nil => rfl
  | cons p r ih =>
    obtain ⟨i, w⟩ := p
    by_cases h1 : k < i
    · simp [kset, h1, kfind]
    · by_cases h2 : i = k
      · subst h2
        by_cases h3 : i = j <;> simp [kset, kfind, h3]
      · by_cases h3 : i = j
        · subst h3
          simp [kset, h1, h2, kfind, Ne.symm h2]
        · simp [kset, h1, h2, kfind, h3, ih]

/-! ### `State.setTile` changes only tiles -/

@[simp] theorem State.setTile_mem (s : State) (P : TileId) (t : Tile) : (s.setTile P t).mem = s.mem := rfl
@[simp] theorem State.setTile_poison (s : State) (P : TileId) (t : Tile) : (s.setTile P t).poison = s.poison := rfl
@[simp] theorem State.setTile_failing (s : State) (P : TileId) (t : Tile) : (s.setTile P t).failing = s.failing := rfl
@[simp] theorem State.setTile_quads (s : State) (P : TileId) (t : Tile) : (s.setTile P t).quads = s.quads := rfl
@[simp] theorem State.setTile_clusters (s : State) (P : TileId) (t : Tile) : (s.setTile P t).clusters = s.clusters := rfl
@[simp] theorem State.setTile_dies (s : State) (P : TileId) (t : Tile) : (s.setTile P t).dies = s.dies := rfl
@[simp] theorem State.setTile_io (s : State) (P : TileId) (t : Tile) : (s.setTile P t).io = s.io := rfl
@[simp] theorem State.setTile_tasks (s : State) (P : TileId) (t : Tile) : (s.setTile P t).tasks = s.tasks := rfl
@[simp] theorem State.setTile_nextTask (s : State) (P : TileId) (t : Tile) : (s.setTile P t).nextTask = s.nextTask := rfl
@[simp] theorem State.setTile_transit (s : State) (P : TileId) (t : Tile) : (s.setTile P t).transit = s.transit := rfl
@[simp] theorem State.setTile_freezes (s : State) (P : TileId) (t : Tile) : (s.setTile P t).freezes = s.freezes := rfl
@[simp] theorem State.setTile_resync (s : State) (P : TileId) (t : Tile) : (s.setTile P t).resync = s.resync := rfl
@[simp] theorem State.setTile_hostPages (s : State) (P : TileId) (t : Tile) : (s.setTile P t).hostPages = s.hostPages := rfl
@[simp] theorem State.setTile_loader (s : State) (P : TileId) (t : Tile) : (s.setTile P t).loader = s.loader := rfl
@[simp] theorem State.setTile_cur (s : State) (P : TileId) (t : Tile) : (s.setTile P t).cur = s.cur := rfl
@[simp] theorem State.setTile_holds (s : State) (P : TileId) (t : Tile) : (s.setTile P t).holds = s.holds := rfl
@[simp] theorem State.setTile_agenda (s : State) (P : TileId) (t : Tile) : (s.setTile P t).agenda = s.agenda := rfl
@[simp] theorem State.setTile_turn (s : State) (P : TileId) (t : Tile) : (s.setTile P t).turn = s.turn := rfl
@[simp] theorem State.setTile_tick (s : State) (P : TileId) (t : Tile) : (s.setTile P t).tick = s.tick := rfl
@[simp] theorem State.setTile_timeNs (s : State) (P : TileId) (t : Tile) : (s.setTile P t).timeNs = s.timeNs := rfl
@[simp] theorem State.setTile_timeFrac (s : State) (P : TileId) (t : Tile) : (s.setTile P t).timeFrac = s.timeFrac := rfl
@[simp] theorem State.setTile_timePrev (s : State) (P : TileId) (t : Tile) : (s.setTile P t).timePrev = s.timePrev := rfl
@[simp] theorem State.setTile_rels (s : State) (P : TileId) (t : Tile) : (s.setTile P t).rels = s.rels := rfl
@[simp] theorem State.setTile_free (s : State) (P : TileId) (t : Tile) : (s.setTile P t).free = s.free := rfl

/-! ### `State.modTile` changes only tiles -/

@[simp] theorem State.modTile_mem (s : State) (P : TileId) (f : Tile → Tile) : (s.modTile P f).mem = s.mem := rfl
@[simp] theorem State.modTile_poison (s : State) (P : TileId) (f : Tile → Tile) : (s.modTile P f).poison = s.poison := rfl
@[simp] theorem State.modTile_failing (s : State) (P : TileId) (f : Tile → Tile) : (s.modTile P f).failing = s.failing := rfl
@[simp] theorem State.modTile_quads (s : State) (P : TileId) (f : Tile → Tile) : (s.modTile P f).quads = s.quads := rfl
@[simp] theorem State.modTile_clusters (s : State) (P : TileId) (f : Tile → Tile) : (s.modTile P f).clusters = s.clusters := rfl
@[simp] theorem State.modTile_dies (s : State) (P : TileId) (f : Tile → Tile) : (s.modTile P f).dies = s.dies := rfl
@[simp] theorem State.modTile_io (s : State) (P : TileId) (f : Tile → Tile) : (s.modTile P f).io = s.io := rfl
@[simp] theorem State.modTile_tasks (s : State) (P : TileId) (f : Tile → Tile) : (s.modTile P f).tasks = s.tasks := rfl
@[simp] theorem State.modTile_nextTask (s : State) (P : TileId) (f : Tile → Tile) : (s.modTile P f).nextTask = s.nextTask := rfl
@[simp] theorem State.modTile_transit (s : State) (P : TileId) (f : Tile → Tile) : (s.modTile P f).transit = s.transit := rfl
@[simp] theorem State.modTile_freezes (s : State) (P : TileId) (f : Tile → Tile) : (s.modTile P f).freezes = s.freezes := rfl
@[simp] theorem State.modTile_resync (s : State) (P : TileId) (f : Tile → Tile) : (s.modTile P f).resync = s.resync := rfl
@[simp] theorem State.modTile_hostPages (s : State) (P : TileId) (f : Tile → Tile) : (s.modTile P f).hostPages = s.hostPages := rfl
@[simp] theorem State.modTile_loader (s : State) (P : TileId) (f : Tile → Tile) : (s.modTile P f).loader = s.loader := rfl
@[simp] theorem State.modTile_cur (s : State) (P : TileId) (f : Tile → Tile) : (s.modTile P f).cur = s.cur := rfl
@[simp] theorem State.modTile_holds (s : State) (P : TileId) (f : Tile → Tile) : (s.modTile P f).holds = s.holds := rfl
@[simp] theorem State.modTile_agenda (s : State) (P : TileId) (f : Tile → Tile) : (s.modTile P f).agenda = s.agenda := rfl
@[simp] theorem State.modTile_turn (s : State) (P : TileId) (f : Tile → Tile) : (s.modTile P f).turn = s.turn := rfl
@[simp] theorem State.modTile_tick (s : State) (P : TileId) (f : Tile → Tile) : (s.modTile P f).tick = s.tick := rfl
@[simp] theorem State.modTile_timeNs (s : State) (P : TileId) (f : Tile → Tile) : (s.modTile P f).timeNs = s.timeNs := rfl
@[simp] theorem State.modTile_timeFrac (s : State) (P : TileId) (f : Tile → Tile) : (s.modTile P f).timeFrac = s.timeFrac := rfl
@[simp] theorem State.modTile_timePrev (s : State) (P : TileId) (f : Tile → Tile) : (s.modTile P f).timePrev = s.timePrev := rfl
@[simp] theorem State.modTile_rels (s : State) (P : TileId) (f : Tile → Tile) : (s.modTile P f).rels = s.rels := rfl
@[simp] theorem State.modTile_free (s : State) (P : TileId) (f : Tile → Tile) : (s.modTile P f).free = s.free := rfl

/-! ### `State.modCore` changes only tiles -/

@[simp] theorem State.modCore_mem (s : State) (P : TileId) (f : Core → Core) : (s.modCore P f).mem = s.mem := rfl
@[simp] theorem State.modCore_poison (s : State) (P : TileId) (f : Core → Core) : (s.modCore P f).poison = s.poison := rfl
@[simp] theorem State.modCore_failing (s : State) (P : TileId) (f : Core → Core) : (s.modCore P f).failing = s.failing := rfl
@[simp] theorem State.modCore_quads (s : State) (P : TileId) (f : Core → Core) : (s.modCore P f).quads = s.quads := rfl
@[simp] theorem State.modCore_clusters (s : State) (P : TileId) (f : Core → Core) : (s.modCore P f).clusters = s.clusters := rfl
@[simp] theorem State.modCore_dies (s : State) (P : TileId) (f : Core → Core) : (s.modCore P f).dies = s.dies := rfl
@[simp] theorem State.modCore_io (s : State) (P : TileId) (f : Core → Core) : (s.modCore P f).io = s.io := rfl
@[simp] theorem State.modCore_tasks (s : State) (P : TileId) (f : Core → Core) : (s.modCore P f).tasks = s.tasks := rfl
@[simp] theorem State.modCore_nextTask (s : State) (P : TileId) (f : Core → Core) : (s.modCore P f).nextTask = s.nextTask := rfl
@[simp] theorem State.modCore_transit (s : State) (P : TileId) (f : Core → Core) : (s.modCore P f).transit = s.transit := rfl
@[simp] theorem State.modCore_freezes (s : State) (P : TileId) (f : Core → Core) : (s.modCore P f).freezes = s.freezes := rfl
@[simp] theorem State.modCore_resync (s : State) (P : TileId) (f : Core → Core) : (s.modCore P f).resync = s.resync := rfl
@[simp] theorem State.modCore_hostPages (s : State) (P : TileId) (f : Core → Core) : (s.modCore P f).hostPages = s.hostPages := rfl
@[simp] theorem State.modCore_loader (s : State) (P : TileId) (f : Core → Core) : (s.modCore P f).loader = s.loader := rfl
@[simp] theorem State.modCore_cur (s : State) (P : TileId) (f : Core → Core) : (s.modCore P f).cur = s.cur := rfl
@[simp] theorem State.modCore_holds (s : State) (P : TileId) (f : Core → Core) : (s.modCore P f).holds = s.holds := rfl
@[simp] theorem State.modCore_agenda (s : State) (P : TileId) (f : Core → Core) : (s.modCore P f).agenda = s.agenda := rfl
@[simp] theorem State.modCore_turn (s : State) (P : TileId) (f : Core → Core) : (s.modCore P f).turn = s.turn := rfl
@[simp] theorem State.modCore_tick (s : State) (P : TileId) (f : Core → Core) : (s.modCore P f).tick = s.tick := rfl
@[simp] theorem State.modCore_timeNs (s : State) (P : TileId) (f : Core → Core) : (s.modCore P f).timeNs = s.timeNs := rfl
@[simp] theorem State.modCore_timeFrac (s : State) (P : TileId) (f : Core → Core) : (s.modCore P f).timeFrac = s.timeFrac := rfl
@[simp] theorem State.modCore_timePrev (s : State) (P : TileId) (f : Core → Core) : (s.modCore P f).timePrev = s.timePrev := rfl
@[simp] theorem State.modCore_rels (s : State) (P : TileId) (f : Core → Core) : (s.modCore P f).rels = s.rels := rfl
@[simp] theorem State.modCore_free (s : State) (P : TileId) (f : Core → Core) : (s.modCore P f).free = s.free := rfl

/-! ### `State.modEngine` changes only tiles -/

@[simp] theorem State.modEngine_mem (s : State) (P : TileId) (e : Eng) (f : Engine → Engine) : (s.modEngine P e f).mem = s.mem := rfl
@[simp] theorem State.modEngine_poison (s : State) (P : TileId) (e : Eng) (f : Engine → Engine) : (s.modEngine P e f).poison = s.poison := rfl
@[simp] theorem State.modEngine_failing (s : State) (P : TileId) (e : Eng) (f : Engine → Engine) : (s.modEngine P e f).failing = s.failing := rfl
@[simp] theorem State.modEngine_quads (s : State) (P : TileId) (e : Eng) (f : Engine → Engine) : (s.modEngine P e f).quads = s.quads := rfl
@[simp] theorem State.modEngine_clusters (s : State) (P : TileId) (e : Eng) (f : Engine → Engine) : (s.modEngine P e f).clusters = s.clusters := rfl
@[simp] theorem State.modEngine_dies (s : State) (P : TileId) (e : Eng) (f : Engine → Engine) : (s.modEngine P e f).dies = s.dies := rfl
@[simp] theorem State.modEngine_io (s : State) (P : TileId) (e : Eng) (f : Engine → Engine) : (s.modEngine P e f).io = s.io := rfl
@[simp] theorem State.modEngine_tasks (s : State) (P : TileId) (e : Eng) (f : Engine → Engine) : (s.modEngine P e f).tasks = s.tasks := rfl
@[simp] theorem State.modEngine_nextTask (s : State) (P : TileId) (e : Eng) (f : Engine → Engine) : (s.modEngine P e f).nextTask = s.nextTask := rfl
@[simp] theorem State.modEngine_transit (s : State) (P : TileId) (e : Eng) (f : Engine → Engine) : (s.modEngine P e f).transit = s.transit := rfl
@[simp] theorem State.modEngine_freezes (s : State) (P : TileId) (e : Eng) (f : Engine → Engine) : (s.modEngine P e f).freezes = s.freezes := rfl
@[simp] theorem State.modEngine_resync (s : State) (P : TileId) (e : Eng) (f : Engine → Engine) : (s.modEngine P e f).resync = s.resync := rfl
@[simp] theorem State.modEngine_hostPages (s : State) (P : TileId) (e : Eng) (f : Engine → Engine) : (s.modEngine P e f).hostPages = s.hostPages := rfl
@[simp] theorem State.modEngine_loader (s : State) (P : TileId) (e : Eng) (f : Engine → Engine) : (s.modEngine P e f).loader = s.loader := rfl
@[simp] theorem State.modEngine_cur (s : State) (P : TileId) (e : Eng) (f : Engine → Engine) : (s.modEngine P e f).cur = s.cur := rfl
@[simp] theorem State.modEngine_holds (s : State) (P : TileId) (e : Eng) (f : Engine → Engine) : (s.modEngine P e f).holds = s.holds := rfl
@[simp] theorem State.modEngine_agenda (s : State) (P : TileId) (e : Eng) (f : Engine → Engine) : (s.modEngine P e f).agenda = s.agenda := rfl
@[simp] theorem State.modEngine_turn (s : State) (P : TileId) (e : Eng) (f : Engine → Engine) : (s.modEngine P e f).turn = s.turn := rfl
@[simp] theorem State.modEngine_tick (s : State) (P : TileId) (e : Eng) (f : Engine → Engine) : (s.modEngine P e f).tick = s.tick := rfl
@[simp] theorem State.modEngine_timeNs (s : State) (P : TileId) (e : Eng) (f : Engine → Engine) : (s.modEngine P e f).timeNs = s.timeNs := rfl
@[simp] theorem State.modEngine_timeFrac (s : State) (P : TileId) (e : Eng) (f : Engine → Engine) : (s.modEngine P e f).timeFrac = s.timeFrac := rfl
@[simp] theorem State.modEngine_timePrev (s : State) (P : TileId) (e : Eng) (f : Engine → Engine) : (s.modEngine P e f).timePrev = s.timePrev := rfl
@[simp] theorem State.modEngine_rels (s : State) (P : TileId) (e : Eng) (f : Engine → Engine) : (s.modEngine P e f).rels = s.rels := rfl
@[simp] theorem State.modEngine_free (s : State) (P : TileId) (e : Eng) (f : Engine → Engine) : (s.modEngine P e f).free = s.free := rfl

/-! ### `State.setDie` changes only dies -/

@[simp] theorem State.setDie_mem (s : State) (d : Nat) (x : Die) : (s.setDie d x).mem = s.mem := rfl
@[simp] theorem State.setDie_poison (s : State) (d : Nat) (x : Die) : (s.setDie d x).poison = s.poison := rfl
@[simp] theorem State.setDie_failing (s : State) (d : Nat) (x : Die) : (s.setDie d x).failing = s.failing := rfl
@[simp] theorem State.setDie_tiles (s : State) (d : Nat) (x : Die) : (s.setDie d x).tiles = s.tiles := rfl
@[simp] theorem State.setDie_quads (s : State) (d : Nat) (x : Die) : (s.setDie d x).quads = s.quads := rfl
@[simp] theorem State.setDie_clusters (s : State) (d : Nat) (x : Die) : (s.setDie d x).clusters = s.clusters := rfl
@[simp] theorem State.setDie_io (s : State) (d : Nat) (x : Die) : (s.setDie d x).io = s.io := rfl
@[simp] theorem State.setDie_tasks (s : State) (d : Nat) (x : Die) : (s.setDie d x).tasks = s.tasks := rfl
@[simp] theorem State.setDie_nextTask (s : State) (d : Nat) (x : Die) : (s.setDie d x).nextTask = s.nextTask := rfl
@[simp] theorem State.setDie_transit (s : State) (d : Nat) (x : Die) : (s.setDie d x).transit = s.transit := rfl
@[simp] theorem State.setDie_freezes (s : State) (d : Nat) (x : Die) : (s.setDie d x).freezes = s.freezes := rfl
@[simp] theorem State.setDie_resync (s : State) (d : Nat) (x : Die) : (s.setDie d x).resync = s.resync := rfl
@[simp] theorem State.setDie_hostPages (s : State) (d : Nat) (x : Die) : (s.setDie d x).hostPages = s.hostPages := rfl
@[simp] theorem State.setDie_loader (s : State) (d : Nat) (x : Die) : (s.setDie d x).loader = s.loader := rfl
@[simp] theorem State.setDie_cur (s : State) (d : Nat) (x : Die) : (s.setDie d x).cur = s.cur := rfl
@[simp] theorem State.setDie_holds (s : State) (d : Nat) (x : Die) : (s.setDie d x).holds = s.holds := rfl
@[simp] theorem State.setDie_agenda (s : State) (d : Nat) (x : Die) : (s.setDie d x).agenda = s.agenda := rfl
@[simp] theorem State.setDie_turn (s : State) (d : Nat) (x : Die) : (s.setDie d x).turn = s.turn := rfl
@[simp] theorem State.setDie_tick (s : State) (d : Nat) (x : Die) : (s.setDie d x).tick = s.tick := rfl
@[simp] theorem State.setDie_timeNs (s : State) (d : Nat) (x : Die) : (s.setDie d x).timeNs = s.timeNs := rfl
@[simp] theorem State.setDie_timeFrac (s : State) (d : Nat) (x : Die) : (s.setDie d x).timeFrac = s.timeFrac := rfl
@[simp] theorem State.setDie_timePrev (s : State) (d : Nat) (x : Die) : (s.setDie d x).timePrev = s.timePrev := rfl
@[simp] theorem State.setDie_rels (s : State) (d : Nat) (x : Die) : (s.setDie d x).rels = s.rels := rfl
@[simp] theorem State.setDie_free (s : State) (d : Nat) (x : Die) : (s.setDie d x).free = s.free := rfl

/-! ### `State.modDie` changes only dies -/

@[simp] theorem State.modDie_mem (s : State) (d : Nat) (f : Die → Die) : (s.modDie d f).mem = s.mem := rfl
@[simp] theorem State.modDie_poison (s : State) (d : Nat) (f : Die → Die) : (s.modDie d f).poison = s.poison := rfl
@[simp] theorem State.modDie_failing (s : State) (d : Nat) (f : Die → Die) : (s.modDie d f).failing = s.failing := rfl
@[simp] theorem State.modDie_tiles (s : State) (d : Nat) (f : Die → Die) : (s.modDie d f).tiles = s.tiles := rfl
@[simp] theorem State.modDie_quads (s : State) (d : Nat) (f : Die → Die) : (s.modDie d f).quads = s.quads := rfl
@[simp] theorem State.modDie_clusters (s : State) (d : Nat) (f : Die → Die) : (s.modDie d f).clusters = s.clusters := rfl
@[simp] theorem State.modDie_io (s : State) (d : Nat) (f : Die → Die) : (s.modDie d f).io = s.io := rfl
@[simp] theorem State.modDie_tasks (s : State) (d : Nat) (f : Die → Die) : (s.modDie d f).tasks = s.tasks := rfl
@[simp] theorem State.modDie_nextTask (s : State) (d : Nat) (f : Die → Die) : (s.modDie d f).nextTask = s.nextTask := rfl
@[simp] theorem State.modDie_transit (s : State) (d : Nat) (f : Die → Die) : (s.modDie d f).transit = s.transit := rfl
@[simp] theorem State.modDie_freezes (s : State) (d : Nat) (f : Die → Die) : (s.modDie d f).freezes = s.freezes := rfl
@[simp] theorem State.modDie_resync (s : State) (d : Nat) (f : Die → Die) : (s.modDie d f).resync = s.resync := rfl
@[simp] theorem State.modDie_hostPages (s : State) (d : Nat) (f : Die → Die) : (s.modDie d f).hostPages = s.hostPages := rfl
@[simp] theorem State.modDie_loader (s : State) (d : Nat) (f : Die → Die) : (s.modDie d f).loader = s.loader := rfl
@[simp] theorem State.modDie_cur (s : State) (d : Nat) (f : Die → Die) : (s.modDie d f).cur = s.cur := rfl
@[simp] theorem State.modDie_holds (s : State) (d : Nat) (f : Die → Die) : (s.modDie d f).holds = s.holds := rfl
@[simp] theorem State.modDie_agenda (s : State) (d : Nat) (f : Die → Die) : (s.modDie d f).agenda = s.agenda := rfl
@[simp] theorem State.modDie_turn (s : State) (d : Nat) (f : Die → Die) : (s.modDie d f).turn = s.turn := rfl
@[simp] theorem State.modDie_tick (s : State) (d : Nat) (f : Die → Die) : (s.modDie d f).tick = s.tick := rfl
@[simp] theorem State.modDie_timeNs (s : State) (d : Nat) (f : Die → Die) : (s.modDie d f).timeNs = s.timeNs := rfl
@[simp] theorem State.modDie_timeFrac (s : State) (d : Nat) (f : Die → Die) : (s.modDie d f).timeFrac = s.timeFrac := rfl
@[simp] theorem State.modDie_timePrev (s : State) (d : Nat) (f : Die → Die) : (s.modDie d f).timePrev = s.timePrev := rfl
@[simp] theorem State.modDie_rels (s : State) (d : Nat) (f : Die → Die) : (s.modDie d f).rels = s.rels := rfl
@[simp] theorem State.modDie_free (s : State) (d : Nat) (f : Die → Die) : (s.modDie d f).free = s.free := rfl

/-! ### `State.modQuad` changes only quads -/

@[simp] theorem State.modQuad_mem (s : State) (g : Nat) (f : Quad → Quad) : (s.modQuad g f).mem = s.mem := rfl
@[simp] theorem State.modQuad_poison (s : State) (g : Nat) (f : Quad → Quad) : (s.modQuad g f).poison = s.poison := rfl
@[simp] theorem State.modQuad_failing (s : State) (g : Nat) (f : Quad → Quad) : (s.modQuad g f).failing = s.failing := rfl
@[simp] theorem State.modQuad_tiles (s : State) (g : Nat) (f : Quad → Quad) : (s.modQuad g f).tiles = s.tiles := rfl
@[simp] theorem State.modQuad_clusters (s : State) (g : Nat) (f : Quad → Quad) : (s.modQuad g f).clusters = s.clusters := rfl
@[simp] theorem State.modQuad_dies (s : State) (g : Nat) (f : Quad → Quad) : (s.modQuad g f).dies = s.dies := rfl
@[simp] theorem State.modQuad_io (s : State) (g : Nat) (f : Quad → Quad) : (s.modQuad g f).io = s.io := rfl
@[simp] theorem State.modQuad_tasks (s : State) (g : Nat) (f : Quad → Quad) : (s.modQuad g f).tasks = s.tasks := rfl
@[simp] theorem State.modQuad_nextTask (s : State) (g : Nat) (f : Quad → Quad) : (s.modQuad g f).nextTask = s.nextTask := rfl
@[simp] theorem State.modQuad_transit (s : State) (g : Nat) (f : Quad → Quad) : (s.modQuad g f).transit = s.transit := rfl
@[simp] theorem State.modQuad_freezes (s : State) (g : Nat) (f : Quad → Quad) : (s.modQuad g f).freezes = s.freezes := rfl
@[simp] theorem State.modQuad_resync (s : State) (g : Nat) (f : Quad → Quad) : (s.modQuad g f).resync = s.resync := rfl
@[simp] theorem State.modQuad_hostPages (s : State) (g : Nat) (f : Quad → Quad) : (s.modQuad g f).hostPages = s.hostPages := rfl
@[simp] theorem State.modQuad_loader (s : State) (g : Nat) (f : Quad → Quad) : (s.modQuad g f).loader = s.loader := rfl
@[simp] theorem State.modQuad_cur (s : State) (g : Nat) (f : Quad → Quad) : (s.modQuad g f).cur = s.cur := rfl
@[simp] theorem State.modQuad_holds (s : State) (g : Nat) (f : Quad → Quad) : (s.modQuad g f).holds = s.holds := rfl
@[simp] theorem State.modQuad_agenda (s : State) (g : Nat) (f : Quad → Quad) : (s.modQuad g f).agenda = s.agenda := rfl
@[simp] theorem State.modQuad_turn (s : State) (g : Nat) (f : Quad → Quad) : (s.modQuad g f).turn = s.turn := rfl
@[simp] theorem State.modQuad_tick (s : State) (g : Nat) (f : Quad → Quad) : (s.modQuad g f).tick = s.tick := rfl
@[simp] theorem State.modQuad_timeNs (s : State) (g : Nat) (f : Quad → Quad) : (s.modQuad g f).timeNs = s.timeNs := rfl
@[simp] theorem State.modQuad_timeFrac (s : State) (g : Nat) (f : Quad → Quad) : (s.modQuad g f).timeFrac = s.timeFrac := rfl
@[simp] theorem State.modQuad_timePrev (s : State) (g : Nat) (f : Quad → Quad) : (s.modQuad g f).timePrev = s.timePrev := rfl
@[simp] theorem State.modQuad_rels (s : State) (g : Nat) (f : Quad → Quad) : (s.modQuad g f).rels = s.rels := rfl
@[simp] theorem State.modQuad_free (s : State) (g : Nat) (f : Quad → Quad) : (s.modQuad g f).free = s.free := rfl

/-! ### `State.modCluster` changes only clusters -/

@[simp] theorem State.modCluster_mem (s : State) (c : Nat) (f : Cluster → Cluster) : (s.modCluster c f).mem = s.mem := rfl
@[simp] theorem State.modCluster_poison (s : State) (c : Nat) (f : Cluster → Cluster) : (s.modCluster c f).poison = s.poison := rfl
@[simp] theorem State.modCluster_failing (s : State) (c : Nat) (f : Cluster → Cluster) : (s.modCluster c f).failing = s.failing := rfl
@[simp] theorem State.modCluster_tiles (s : State) (c : Nat) (f : Cluster → Cluster) : (s.modCluster c f).tiles = s.tiles := rfl
@[simp] theorem State.modCluster_quads (s : State) (c : Nat) (f : Cluster → Cluster) : (s.modCluster c f).quads = s.quads := rfl
@[simp] theorem State.modCluster_dies (s : State) (c : Nat) (f : Cluster → Cluster) : (s.modCluster c f).dies = s.dies := rfl
@[simp] theorem State.modCluster_io (s : State) (c : Nat) (f : Cluster → Cluster) : (s.modCluster c f).io = s.io := rfl
@[simp] theorem State.modCluster_tasks (s : State) (c : Nat) (f : Cluster → Cluster) : (s.modCluster c f).tasks = s.tasks := rfl
@[simp] theorem State.modCluster_nextTask (s : State) (c : Nat) (f : Cluster → Cluster) : (s.modCluster c f).nextTask = s.nextTask := rfl
@[simp] theorem State.modCluster_transit (s : State) (c : Nat) (f : Cluster → Cluster) : (s.modCluster c f).transit = s.transit := rfl
@[simp] theorem State.modCluster_freezes (s : State) (c : Nat) (f : Cluster → Cluster) : (s.modCluster c f).freezes = s.freezes := rfl
@[simp] theorem State.modCluster_resync (s : State) (c : Nat) (f : Cluster → Cluster) : (s.modCluster c f).resync = s.resync := rfl
@[simp] theorem State.modCluster_hostPages (s : State) (c : Nat) (f : Cluster → Cluster) : (s.modCluster c f).hostPages = s.hostPages := rfl
@[simp] theorem State.modCluster_loader (s : State) (c : Nat) (f : Cluster → Cluster) : (s.modCluster c f).loader = s.loader := rfl
@[simp] theorem State.modCluster_cur (s : State) (c : Nat) (f : Cluster → Cluster) : (s.modCluster c f).cur = s.cur := rfl
@[simp] theorem State.modCluster_holds (s : State) (c : Nat) (f : Cluster → Cluster) : (s.modCluster c f).holds = s.holds := rfl
@[simp] theorem State.modCluster_agenda (s : State) (c : Nat) (f : Cluster → Cluster) : (s.modCluster c f).agenda = s.agenda := rfl
@[simp] theorem State.modCluster_turn (s : State) (c : Nat) (f : Cluster → Cluster) : (s.modCluster c f).turn = s.turn := rfl
@[simp] theorem State.modCluster_tick (s : State) (c : Nat) (f : Cluster → Cluster) : (s.modCluster c f).tick = s.tick := rfl
@[simp] theorem State.modCluster_timeNs (s : State) (c : Nat) (f : Cluster → Cluster) : (s.modCluster c f).timeNs = s.timeNs := rfl
@[simp] theorem State.modCluster_timeFrac (s : State) (c : Nat) (f : Cluster → Cluster) : (s.modCluster c f).timeFrac = s.timeFrac := rfl
@[simp] theorem State.modCluster_timePrev (s : State) (c : Nat) (f : Cluster → Cluster) : (s.modCluster c f).timePrev = s.timePrev := rfl
@[simp] theorem State.modCluster_rels (s : State) (c : Nat) (f : Cluster → Cluster) : (s.modCluster c f).rels = s.rels := rfl
@[simp] theorem State.modCluster_free (s : State) (c : Nat) (f : Cluster → Cluster) : (s.modCluster c f).free = s.free := rfl

/-! ### `State.setTask` changes only tasks -/

@[simp] theorem State.setTask_mem (s : State) (t : Nat) (x : Task) : (s.setTask t x).mem = s.mem := rfl
@[simp] theorem State.setTask_poison (s : State) (t : Nat) (x : Task) : (s.setTask t x).poison = s.poison := rfl
@[simp] theorem State.setTask_failing (s : State) (t : Nat) (x : Task) : (s.setTask t x).failing = s.failing := rfl
@[simp] theorem State.setTask_tiles (s : State) (t : Nat) (x : Task) : (s.setTask t x).tiles = s.tiles := rfl
@[simp] theorem State.setTask_quads (s : State) (t : Nat) (x : Task) : (s.setTask t x).quads = s.quads := rfl
@[simp] theorem State.setTask_clusters (s : State) (t : Nat) (x : Task) : (s.setTask t x).clusters = s.clusters := rfl
@[simp] theorem State.setTask_dies (s : State) (t : Nat) (x : Task) : (s.setTask t x).dies = s.dies := rfl
@[simp] theorem State.setTask_io (s : State) (t : Nat) (x : Task) : (s.setTask t x).io = s.io := rfl
@[simp] theorem State.setTask_nextTask (s : State) (t : Nat) (x : Task) : (s.setTask t x).nextTask = s.nextTask := rfl
@[simp] theorem State.setTask_transit (s : State) (t : Nat) (x : Task) : (s.setTask t x).transit = s.transit := rfl
@[simp] theorem State.setTask_freezes (s : State) (t : Nat) (x : Task) : (s.setTask t x).freezes = s.freezes := rfl
@[simp] theorem State.setTask_resync (s : State) (t : Nat) (x : Task) : (s.setTask t x).resync = s.resync := rfl
@[simp] theorem State.setTask_hostPages (s : State) (t : Nat) (x : Task) : (s.setTask t x).hostPages = s.hostPages := rfl
@[simp] theorem State.setTask_loader (s : State) (t : Nat) (x : Task) : (s.setTask t x).loader = s.loader := rfl
@[simp] theorem State.setTask_cur (s : State) (t : Nat) (x : Task) : (s.setTask t x).cur = s.cur := rfl
@[simp] theorem State.setTask_holds (s : State) (t : Nat) (x : Task) : (s.setTask t x).holds = s.holds := rfl
@[simp] theorem State.setTask_agenda (s : State) (t : Nat) (x : Task) : (s.setTask t x).agenda = s.agenda := rfl
@[simp] theorem State.setTask_turn (s : State) (t : Nat) (x : Task) : (s.setTask t x).turn = s.turn := rfl
@[simp] theorem State.setTask_tick (s : State) (t : Nat) (x : Task) : (s.setTask t x).tick = s.tick := rfl
@[simp] theorem State.setTask_timeNs (s : State) (t : Nat) (x : Task) : (s.setTask t x).timeNs = s.timeNs := rfl
@[simp] theorem State.setTask_timeFrac (s : State) (t : Nat) (x : Task) : (s.setTask t x).timeFrac = s.timeFrac := rfl
@[simp] theorem State.setTask_timePrev (s : State) (t : Nat) (x : Task) : (s.setTask t x).timePrev = s.timePrev := rfl
@[simp] theorem State.setTask_rels (s : State) (t : Nat) (x : Task) : (s.setTask t x).rels = s.rels := rfl
@[simp] theorem State.setTask_free (s : State) (t : Nat) (x : Task) : (s.setTask t x).free = s.free := rfl

/-! ### `State.elapse` changes only tick, timeNs, timeFrac, timePrev -/

@[simp] theorem State.elapse_mem (s : State) (n : Nat) : (s.elapse n).mem = s.mem := rfl
@[simp] theorem State.elapse_poison (s : State) (n : Nat) : (s.elapse n).poison = s.poison := rfl
@[simp] theorem State.elapse_failing (s : State) (n : Nat) : (s.elapse n).failing = s.failing := rfl
@[simp] theorem State.elapse_tiles (s : State) (n : Nat) : (s.elapse n).tiles = s.tiles := rfl
@[simp] theorem State.elapse_quads (s : State) (n : Nat) : (s.elapse n).quads = s.quads := rfl
@[simp] theorem State.elapse_clusters (s : State) (n : Nat) : (s.elapse n).clusters = s.clusters := rfl
@[simp] theorem State.elapse_dies (s : State) (n : Nat) : (s.elapse n).dies = s.dies := rfl
@[simp] theorem State.elapse_io (s : State) (n : Nat) : (s.elapse n).io = s.io := rfl
@[simp] theorem State.elapse_tasks (s : State) (n : Nat) : (s.elapse n).tasks = s.tasks := rfl
@[simp] theorem State.elapse_nextTask (s : State) (n : Nat) : (s.elapse n).nextTask = s.nextTask := rfl
@[simp] theorem State.elapse_transit (s : State) (n : Nat) : (s.elapse n).transit = s.transit := rfl
@[simp] theorem State.elapse_freezes (s : State) (n : Nat) : (s.elapse n).freezes = s.freezes := rfl
@[simp] theorem State.elapse_resync (s : State) (n : Nat) : (s.elapse n).resync = s.resync := rfl
@[simp] theorem State.elapse_hostPages (s : State) (n : Nat) : (s.elapse n).hostPages = s.hostPages := rfl
@[simp] theorem State.elapse_loader (s : State) (n : Nat) : (s.elapse n).loader = s.loader := rfl
@[simp] theorem State.elapse_cur (s : State) (n : Nat) : (s.elapse n).cur = s.cur := rfl
@[simp] theorem State.elapse_holds (s : State) (n : Nat) : (s.elapse n).holds = s.holds := rfl
@[simp] theorem State.elapse_agenda (s : State) (n : Nat) : (s.elapse n).agenda = s.agenda := rfl
@[simp] theorem State.elapse_turn (s : State) (n : Nat) : (s.elapse n).turn = s.turn := rfl
@[simp] theorem State.elapse_rels (s : State) (n : Nat) : (s.elapse n).rels = s.rels := rfl
@[simp] theorem State.elapse_free (s : State) (n : Nat) : (s.elapse n).free = s.free := rfl

/-! ### `State.occupy` changes only tiles -/

@[simp] theorem State.occupy_mem (s : State) (P : TileId) (n : Nat) : (s.occupy P n).mem = s.mem := rfl
@[simp] theorem State.occupy_poison (s : State) (P : TileId) (n : Nat) : (s.occupy P n).poison = s.poison := rfl
@[simp] theorem State.occupy_failing (s : State) (P : TileId) (n : Nat) : (s.occupy P n).failing = s.failing := rfl
@[simp] theorem State.occupy_quads (s : State) (P : TileId) (n : Nat) : (s.occupy P n).quads = s.quads := rfl
@[simp] theorem State.occupy_clusters (s : State) (P : TileId) (n : Nat) : (s.occupy P n).clusters = s.clusters := rfl
@[simp] theorem State.occupy_dies (s : State) (P : TileId) (n : Nat) : (s.occupy P n).dies = s.dies := rfl
@[simp] theorem State.occupy_io (s : State) (P : TileId) (n : Nat) : (s.occupy P n).io = s.io := rfl
@[simp] theorem State.occupy_tasks (s : State) (P : TileId) (n : Nat) : (s.occupy P n).tasks = s.tasks := rfl
@[simp] theorem State.occupy_nextTask (s : State) (P : TileId) (n : Nat) : (s.occupy P n).nextTask = s.nextTask := rfl
@[simp] theorem State.occupy_transit (s : State) (P : TileId) (n : Nat) : (s.occupy P n).transit = s.transit := rfl
@[simp] theorem State.occupy_freezes (s : State) (P : TileId) (n : Nat) : (s.occupy P n).freezes = s.freezes := rfl
@[simp] theorem State.occupy_resync (s : State) (P : TileId) (n : Nat) : (s.occupy P n).resync = s.resync := rfl
@[simp] theorem State.occupy_hostPages (s : State) (P : TileId) (n : Nat) : (s.occupy P n).hostPages = s.hostPages := rfl
@[simp] theorem State.occupy_loader (s : State) (P : TileId) (n : Nat) : (s.occupy P n).loader = s.loader := rfl
@[simp] theorem State.occupy_cur (s : State) (P : TileId) (n : Nat) : (s.occupy P n).cur = s.cur := rfl
@[simp] theorem State.occupy_holds (s : State) (P : TileId) (n : Nat) : (s.occupy P n).holds = s.holds := rfl
@[simp] theorem State.occupy_agenda (s : State) (P : TileId) (n : Nat) : (s.occupy P n).agenda = s.agenda := rfl
@[simp] theorem State.occupy_turn (s : State) (P : TileId) (n : Nat) : (s.occupy P n).turn = s.turn := rfl
@[simp] theorem State.occupy_tick (s : State) (P : TileId) (n : Nat) : (s.occupy P n).tick = s.tick := rfl
@[simp] theorem State.occupy_timeNs (s : State) (P : TileId) (n : Nat) : (s.occupy P n).timeNs = s.timeNs := rfl
@[simp] theorem State.occupy_timeFrac (s : State) (P : TileId) (n : Nat) : (s.occupy P n).timeFrac = s.timeFrac := rfl
@[simp] theorem State.occupy_timePrev (s : State) (P : TileId) (n : Nat) : (s.occupy P n).timePrev = s.timePrev := rfl
@[simp] theorem State.occupy_rels (s : State) (P : TileId) (n : Nat) : (s.occupy P n).rels = s.rels := rfl
@[simp] theorem State.occupy_free (s : State) (P : TileId) (n : Nat) : (s.occupy P n).free = s.free := rfl

/-! ### `State.putBytes` changes only mem -/

@[simp] theorem State.putBytes_poison (s : State) (g : Nat) (bs : List Byte) : (s.putBytes g bs).poison = s.poison := rfl
@[simp] theorem State.putBytes_failing (s : State) (g : Nat) (bs : List Byte) : (s.putBytes g bs).failing = s.failing := rfl
@[simp] theorem State.putBytes_tiles (s : State) (g : Nat) (bs : List Byte) : (s.putBytes g bs).tiles = s.tiles := rfl
@[simp] theorem State.putBytes_quads (s : State) (g : Nat) (bs : List Byte) : (s.putBytes g bs).quads = s.quads := rfl
@[simp] theorem State.putBytes_clusters (s : State) (g : Nat) (bs : List Byte) : (s.putBytes g bs).clusters = s.clusters := rfl
@[simp] theorem State.putBytes_dies (s : State) (g : Nat) (bs : List Byte) : (s.putBytes g bs).dies = s.dies := rfl
@[simp] theorem State.putBytes_io (s : State) (g : Nat) (bs : List Byte) : (s.putBytes g bs).io = s.io := rfl
@[simp] theorem State.putBytes_tasks (s : State) (g : Nat) (bs : List Byte) : (s.putBytes g bs).tasks = s.tasks := rfl
@[simp] theorem State.putBytes_nextTask (s : State) (g : Nat) (bs : List Byte) : (s.putBytes g bs).nextTask = s.nextTask := rfl
@[simp] theorem State.putBytes_transit (s : State) (g : Nat) (bs : List Byte) : (s.putBytes g bs).transit = s.transit := rfl
@[simp] theorem State.putBytes_freezes (s : State) (g : Nat) (bs : List Byte) : (s.putBytes g bs).freezes = s.freezes := rfl
@[simp] theorem State.putBytes_resync (s : State) (g : Nat) (bs : List Byte) : (s.putBytes g bs).resync = s.resync := rfl
@[simp] theorem State.putBytes_hostPages (s : State) (g : Nat) (bs : List Byte) : (s.putBytes g bs).hostPages = s.hostPages := rfl
@[simp] theorem State.putBytes_loader (s : State) (g : Nat) (bs : List Byte) : (s.putBytes g bs).loader = s.loader := rfl
@[simp] theorem State.putBytes_cur (s : State) (g : Nat) (bs : List Byte) : (s.putBytes g bs).cur = s.cur := rfl
@[simp] theorem State.putBytes_holds (s : State) (g : Nat) (bs : List Byte) : (s.putBytes g bs).holds = s.holds := rfl
@[simp] theorem State.putBytes_agenda (s : State) (g : Nat) (bs : List Byte) : (s.putBytes g bs).agenda = s.agenda := rfl
@[simp] theorem State.putBytes_turn (s : State) (g : Nat) (bs : List Byte) : (s.putBytes g bs).turn = s.turn := rfl
@[simp] theorem State.putBytes_tick (s : State) (g : Nat) (bs : List Byte) : (s.putBytes g bs).tick = s.tick := rfl
@[simp] theorem State.putBytes_timeNs (s : State) (g : Nat) (bs : List Byte) : (s.putBytes g bs).timeNs = s.timeNs := rfl
@[simp] theorem State.putBytes_timeFrac (s : State) (g : Nat) (bs : List Byte) : (s.putBytes g bs).timeFrac = s.timeFrac := rfl
@[simp] theorem State.putBytes_timePrev (s : State) (g : Nat) (bs : List Byte) : (s.putBytes g bs).timePrev = s.timePrev := rfl
@[simp] theorem State.putBytes_free (s : State) (g : Nat) (bs : List Byte) : (s.putBytes g bs).free = s.free := rfl

/-! ### `State.unmark` changes only poison -/

@[simp] theorem State.unmark_mem (s : State) (line : Nat) : (s.unmark line).mem = s.mem := rfl
@[simp] theorem State.unmark_tiles (s : State) (line : Nat) : (s.unmark line).tiles = s.tiles := rfl
@[simp] theorem State.unmark_quads (s : State) (line : Nat) : (s.unmark line).quads = s.quads := rfl
@[simp] theorem State.unmark_clusters (s : State) (line : Nat) : (s.unmark line).clusters = s.clusters := rfl
@[simp] theorem State.unmark_dies (s : State) (line : Nat) : (s.unmark line).dies = s.dies := rfl
@[simp] theorem State.unmark_io (s : State) (line : Nat) : (s.unmark line).io = s.io := rfl
@[simp] theorem State.unmark_tasks (s : State) (line : Nat) : (s.unmark line).tasks = s.tasks := rfl
@[simp] theorem State.unmark_nextTask (s : State) (line : Nat) : (s.unmark line).nextTask = s.nextTask := rfl
@[simp] theorem State.unmark_transit (s : State) (line : Nat) : (s.unmark line).transit = s.transit := rfl
@[simp] theorem State.unmark_freezes (s : State) (line : Nat) : (s.unmark line).freezes = s.freezes := rfl
@[simp] theorem State.unmark_resync (s : State) (line : Nat) : (s.unmark line).resync = s.resync := rfl
@[simp] theorem State.unmark_hostPages (s : State) (line : Nat) : (s.unmark line).hostPages = s.hostPages := rfl
@[simp] theorem State.unmark_loader (s : State) (line : Nat) : (s.unmark line).loader = s.loader := rfl
@[simp] theorem State.unmark_cur (s : State) (line : Nat) : (s.unmark line).cur = s.cur := rfl
@[simp] theorem State.unmark_holds (s : State) (line : Nat) : (s.unmark line).holds = s.holds := rfl
@[simp] theorem State.unmark_agenda (s : State) (line : Nat) : (s.unmark line).agenda = s.agenda := rfl
@[simp] theorem State.unmark_turn (s : State) (line : Nat) : (s.unmark line).turn = s.turn := rfl
@[simp] theorem State.unmark_tick (s : State) (line : Nat) : (s.unmark line).tick = s.tick := rfl
@[simp] theorem State.unmark_timeNs (s : State) (line : Nat) : (s.unmark line).timeNs = s.timeNs := rfl
@[simp] theorem State.unmark_timeFrac (s : State) (line : Nat) : (s.unmark line).timeFrac = s.timeFrac := rfl
@[simp] theorem State.unmark_timePrev (s : State) (line : Nat) : (s.unmark line).timePrev = s.timePrev := rfl
@[simp] theorem State.unmark_rels (s : State) (line : Nat) : (s.unmark line).rels = s.rels := rfl
@[simp] theorem State.unmark_free (s : State) (line : Nat) : (s.unmark line).free = s.free := rfl

/-! ### `State.raise` changes only tiles -/

@[simp] theorem State.raise_mem (s : State) (P : TileId) (src : BitVec 3) (c : Cause) (val loc : Word) : (s.raise P src c val loc).mem = s.mem := rfl
@[simp] theorem State.raise_poison (s : State) (P : TileId) (src : BitVec 3) (c : Cause) (val loc : Word) : (s.raise P src c val loc).poison = s.poison := rfl
@[simp] theorem State.raise_failing (s : State) (P : TileId) (src : BitVec 3) (c : Cause) (val loc : Word) : (s.raise P src c val loc).failing = s.failing := rfl
@[simp] theorem State.raise_quads (s : State) (P : TileId) (src : BitVec 3) (c : Cause) (val loc : Word) : (s.raise P src c val loc).quads = s.quads := rfl
@[simp] theorem State.raise_clusters (s : State) (P : TileId) (src : BitVec 3) (c : Cause) (val loc : Word) : (s.raise P src c val loc).clusters = s.clusters := rfl
@[simp] theorem State.raise_dies (s : State) (P : TileId) (src : BitVec 3) (c : Cause) (val loc : Word) : (s.raise P src c val loc).dies = s.dies := rfl
@[simp] theorem State.raise_io (s : State) (P : TileId) (src : BitVec 3) (c : Cause) (val loc : Word) : (s.raise P src c val loc).io = s.io := rfl
@[simp] theorem State.raise_tasks (s : State) (P : TileId) (src : BitVec 3) (c : Cause) (val loc : Word) : (s.raise P src c val loc).tasks = s.tasks := rfl
@[simp] theorem State.raise_nextTask (s : State) (P : TileId) (src : BitVec 3) (c : Cause) (val loc : Word) : (s.raise P src c val loc).nextTask = s.nextTask := rfl
@[simp] theorem State.raise_transit (s : State) (P : TileId) (src : BitVec 3) (c : Cause) (val loc : Word) : (s.raise P src c val loc).transit = s.transit := rfl
@[simp] theorem State.raise_freezes (s : State) (P : TileId) (src : BitVec 3) (c : Cause) (val loc : Word) : (s.raise P src c val loc).freezes = s.freezes := rfl
@[simp] theorem State.raise_resync (s : State) (P : TileId) (src : BitVec 3) (c : Cause) (val loc : Word) : (s.raise P src c val loc).resync = s.resync := rfl
@[simp] theorem State.raise_hostPages (s : State) (P : TileId) (src : BitVec 3) (c : Cause) (val loc : Word) : (s.raise P src c val loc).hostPages = s.hostPages := rfl
@[simp] theorem State.raise_loader (s : State) (P : TileId) (src : BitVec 3) (c : Cause) (val loc : Word) : (s.raise P src c val loc).loader = s.loader := rfl
@[simp] theorem State.raise_cur (s : State) (P : TileId) (src : BitVec 3) (c : Cause) (val loc : Word) : (s.raise P src c val loc).cur = s.cur := rfl
@[simp] theorem State.raise_holds (s : State) (P : TileId) (src : BitVec 3) (c : Cause) (val loc : Word) : (s.raise P src c val loc).holds = s.holds := rfl
@[simp] theorem State.raise_agenda (s : State) (P : TileId) (src : BitVec 3) (c : Cause) (val loc : Word) : (s.raise P src c val loc).agenda = s.agenda := rfl
@[simp] theorem State.raise_turn (s : State) (P : TileId) (src : BitVec 3) (c : Cause) (val loc : Word) : (s.raise P src c val loc).turn = s.turn := rfl
@[simp] theorem State.raise_tick (s : State) (P : TileId) (src : BitVec 3) (c : Cause) (val loc : Word) : (s.raise P src c val loc).tick = s.tick := rfl
@[simp] theorem State.raise_timeNs (s : State) (P : TileId) (src : BitVec 3) (c : Cause) (val loc : Word) : (s.raise P src c val loc).timeNs = s.timeNs := rfl
@[simp] theorem State.raise_timeFrac (s : State) (P : TileId) (src : BitVec 3) (c : Cause) (val loc : Word) : (s.raise P src c val loc).timeFrac = s.timeFrac := rfl
@[simp] theorem State.raise_timePrev (s : State) (P : TileId) (src : BitVec 3) (c : Cause) (val loc : Word) : (s.raise P src c val loc).timePrev = s.timePrev := rfl
@[simp] theorem State.raise_rels (s : State) (P : TileId) (src : BitVec 3) (c : Cause) (val loc : Word) : (s.raise P src c val loc).rels = s.rels := rfl
@[simp] theorem State.raise_free (s : State) (P : TileId) (src : BitVec 3) (c : Cause) (val loc : Word) : (s.raise P src c val loc).free = s.free := rfl

/-! ### `State.raiseCore` changes only tiles -/

@[simp] theorem State.raiseCore_mem (s : State) (P : TileId) (c : Cause) (val : Word) : (s.raiseCore P c val).mem = s.mem := rfl
@[simp] theorem State.raiseCore_poison (s : State) (P : TileId) (c : Cause) (val : Word) : (s.raiseCore P c val).poison = s.poison := rfl
@[simp] theorem State.raiseCore_failing (s : State) (P : TileId) (c : Cause) (val : Word) : (s.raiseCore P c val).failing = s.failing := rfl
@[simp] theorem State.raiseCore_quads (s : State) (P : TileId) (c : Cause) (val : Word) : (s.raiseCore P c val).quads = s.quads := rfl
@[simp] theorem State.raiseCore_clusters (s : State) (P : TileId) (c : Cause) (val : Word) : (s.raiseCore P c val).clusters = s.clusters := rfl
@[simp] theorem State.raiseCore_dies (s : State) (P : TileId) (c : Cause) (val : Word) : (s.raiseCore P c val).dies = s.dies := rfl
@[simp] theorem State.raiseCore_io (s : State) (P : TileId) (c : Cause) (val : Word) : (s.raiseCore P c val).io = s.io := rfl
@[simp] theorem State.raiseCore_tasks (s : State) (P : TileId) (c : Cause) (val : Word) : (s.raiseCore P c val).tasks = s.tasks := rfl
@[simp] theorem State.raiseCore_nextTask (s : State) (P : TileId) (c : Cause) (val : Word) : (s.raiseCore P c val).nextTask = s.nextTask := rfl
@[simp] theorem State.raiseCore_transit (s : State) (P : TileId) (c : Cause) (val : Word) : (s.raiseCore P c val).transit = s.transit := rfl
@[simp] theorem State.raiseCore_freezes (s : State) (P : TileId) (c : Cause) (val : Word) : (s.raiseCore P c val).freezes = s.freezes := rfl
@[simp] theorem State.raiseCore_resync (s : State) (P : TileId) (c : Cause) (val : Word) : (s.raiseCore P c val).resync = s.resync := rfl
@[simp] theorem State.raiseCore_hostPages (s : State) (P : TileId) (c : Cause) (val : Word) : (s.raiseCore P c val).hostPages = s.hostPages := rfl
@[simp] theorem State.raiseCore_loader (s : State) (P : TileId) (c : Cause) (val : Word) : (s.raiseCore P c val).loader = s.loader := rfl
@[simp] theorem State.raiseCore_cur (s : State) (P : TileId) (c : Cause) (val : Word) : (s.raiseCore P c val).cur = s.cur := rfl
@[simp] theorem State.raiseCore_holds (s : State) (P : TileId) (c : Cause) (val : Word) : (s.raiseCore P c val).holds = s.holds := rfl
@[simp] theorem State.raiseCore_agenda (s : State) (P : TileId) (c : Cause) (val : Word) : (s.raiseCore P c val).agenda = s.agenda := rfl
@[simp] theorem State.raiseCore_turn (s : State) (P : TileId) (c : Cause) (val : Word) : (s.raiseCore P c val).turn = s.turn := rfl
@[simp] theorem State.raiseCore_tick (s : State) (P : TileId) (c : Cause) (val : Word) : (s.raiseCore P c val).tick = s.tick := rfl
@[simp] theorem State.raiseCore_timeNs (s : State) (P : TileId) (c : Cause) (val : Word) : (s.raiseCore P c val).timeNs = s.timeNs := rfl
@[simp] theorem State.raiseCore_timeFrac (s : State) (P : TileId) (c : Cause) (val : Word) : (s.raiseCore P c val).timeFrac = s.timeFrac := rfl
@[simp] theorem State.raiseCore_timePrev (s : State) (P : TileId) (c : Cause) (val : Word) : (s.raiseCore P c val).timePrev = s.timePrev := rfl
@[simp] theorem State.raiseCore_rels (s : State) (P : TileId) (c : Cause) (val : Word) : (s.raiseCore P c val).rels = s.rels := rfl
@[simp] theorem State.raiseCore_free (s : State) (P : TileId) (c : Cause) (val : Word) : (s.raiseCore P c val).free = s.free := rfl

/-! ### `State.raiseEng` changes only tiles -/

@[simp] theorem State.raiseEng_mem (s : State) (P : TileId) (e : Eng) (c : Cause) (val loc : Word) : (s.raiseEng P e c val loc).mem = s.mem := rfl
@[simp] theorem State.raiseEng_poison (s : State) (P : TileId) (e : Eng) (c : Cause) (val loc : Word) : (s.raiseEng P e c val loc).poison = s.poison := rfl
@[simp] theorem State.raiseEng_failing (s : State) (P : TileId) (e : Eng) (c : Cause) (val loc : Word) : (s.raiseEng P e c val loc).failing = s.failing := rfl
@[simp] theorem State.raiseEng_quads (s : State) (P : TileId) (e : Eng) (c : Cause) (val loc : Word) : (s.raiseEng P e c val loc).quads = s.quads := rfl
@[simp] theorem State.raiseEng_clusters (s : State) (P : TileId) (e : Eng) (c : Cause) (val loc : Word) : (s.raiseEng P e c val loc).clusters = s.clusters := rfl
@[simp] theorem State.raiseEng_dies (s : State) (P : TileId) (e : Eng) (c : Cause) (val loc : Word) : (s.raiseEng P e c val loc).dies = s.dies := rfl
@[simp] theorem State.raiseEng_io (s : State) (P : TileId) (e : Eng) (c : Cause) (val loc : Word) : (s.raiseEng P e c val loc).io = s.io := rfl
@[simp] theorem State.raiseEng_tasks (s : State) (P : TileId) (e : Eng) (c : Cause) (val loc : Word) : (s.raiseEng P e c val loc).tasks = s.tasks := rfl
@[simp] theorem State.raiseEng_nextTask (s : State) (P : TileId) (e : Eng) (c : Cause) (val loc : Word) : (s.raiseEng P e c val loc).nextTask = s.nextTask := rfl
@[simp] theorem State.raiseEng_transit (s : State) (P : TileId) (e : Eng) (c : Cause) (val loc : Word) : (s.raiseEng P e c val loc).transit = s.transit := rfl
@[simp] theorem State.raiseEng_freezes (s : State) (P : TileId) (e : Eng) (c : Cause) (val loc : Word) : (s.raiseEng P e c val loc).freezes = s.freezes := rfl
@[simp] theorem State.raiseEng_resync (s : State) (P : TileId) (e : Eng) (c : Cause) (val loc : Word) : (s.raiseEng P e c val loc).resync = s.resync := rfl
@[simp] theorem State.raiseEng_hostPages (s : State) (P : TileId) (e : Eng) (c : Cause) (val loc : Word) : (s.raiseEng P e c val loc).hostPages = s.hostPages := rfl
@[simp] theorem State.raiseEng_loader (s : State) (P : TileId) (e : Eng) (c : Cause) (val loc : Word) : (s.raiseEng P e c val loc).loader = s.loader := rfl
@[simp] theorem State.raiseEng_cur (s : State) (P : TileId) (e : Eng) (c : Cause) (val loc : Word) : (s.raiseEng P e c val loc).cur = s.cur := rfl
@[simp] theorem State.raiseEng_holds (s : State) (P : TileId) (e : Eng) (c : Cause) (val loc : Word) : (s.raiseEng P e c val loc).holds = s.holds := rfl
@[simp] theorem State.raiseEng_agenda (s : State) (P : TileId) (e : Eng) (c : Cause) (val loc : Word) : (s.raiseEng P e c val loc).agenda = s.agenda := rfl
@[simp] theorem State.raiseEng_turn (s : State) (P : TileId) (e : Eng) (c : Cause) (val loc : Word) : (s.raiseEng P e c val loc).turn = s.turn := rfl
@[simp] theorem State.raiseEng_tick (s : State) (P : TileId) (e : Eng) (c : Cause) (val loc : Word) : (s.raiseEng P e c val loc).tick = s.tick := rfl
@[simp] theorem State.raiseEng_timeNs (s : State) (P : TileId) (e : Eng) (c : Cause) (val loc : Word) : (s.raiseEng P e c val loc).timeNs = s.timeNs := rfl
@[simp] theorem State.raiseEng_timeFrac (s : State) (P : TileId) (e : Eng) (c : Cause) (val loc : Word) : (s.raiseEng P e c val loc).timeFrac = s.timeFrac := rfl
@[simp] theorem State.raiseEng_timePrev (s : State) (P : TileId) (e : Eng) (c : Cause) (val loc : Word) : (s.raiseEng P e c val loc).timePrev = s.timePrev := rfl
@[simp] theorem State.raiseEng_rels (s : State) (P : TileId) (e : Eng) (c : Cause) (val loc : Word) : (s.raiseEng P e c val loc).rels = s.rels := rfl
@[simp] theorem State.raiseEng_free (s : State) (P : TileId) (e : Eng) (c : Cause) (val loc : Word) : (s.raiseEng P e c val loc).free = s.free := rfl

/-! ### `State.completeAt` changes only tiles -/

@[simp] theorem State.completeAt_mem (s : State) (P : TileId) (rd : BitVec 5) (v : Word) : (s.completeAt P rd v).mem = s.mem := rfl
@[simp] theorem State.completeAt_poison (s : State) (P : TileId) (rd : BitVec 5) (v : Word) : (s.completeAt P rd v).poison = s.poison := rfl
@[simp] theorem State.completeAt_failing (s : State) (P : TileId) (rd : BitVec 5) (v : Word) : (s.completeAt P rd v).failing = s.failing := rfl
@[simp] theorem State.completeAt_quads (s : State) (P : TileId) (rd : BitVec 5) (v : Word) : (s.completeAt P rd v).quads = s.quads := rfl
@[simp] theorem State.completeAt_clusters (s : State) (P : TileId) (rd : BitVec 5) (v : Word) : (s.completeAt P rd v).clusters = s.clusters := rfl
@[simp] theorem State.completeAt_dies (s : State) (P : TileId) (rd : BitVec 5) (v : Word) : (s.completeAt P rd v).dies = s.dies := rfl
@[simp] theorem State.completeAt_io (s : State) (P : TileId) (rd : BitVec 5) (v : Word) : (s.completeAt P rd v).io = s.io := rfl
@[simp] theorem State.completeAt_tasks (s : State) (P : TileId) (rd : BitVec 5) (v : Word) : (s.completeAt P rd v).tasks = s.tasks := rfl
@[simp] theorem State.completeAt_nextTask (s : State) (P : TileId) (rd : BitVec 5) (v : Word) : (s.completeAt P rd v).nextTask = s.nextTask := rfl
@[simp] theorem State.completeAt_transit (s : State) (P : TileId) (rd : BitVec 5) (v : Word) : (s.completeAt P rd v).transit = s.transit := rfl
@[simp] theorem State.completeAt_freezes (s : State) (P : TileId) (rd : BitVec 5) (v : Word) : (s.completeAt P rd v).freezes = s.freezes := rfl
@[simp] theorem State.completeAt_resync (s : State) (P : TileId) (rd : BitVec 5) (v : Word) : (s.completeAt P rd v).resync = s.resync := rfl
@[simp] theorem State.completeAt_hostPages (s : State) (P : TileId) (rd : BitVec 5) (v : Word) : (s.completeAt P rd v).hostPages = s.hostPages := rfl
@[simp] theorem State.completeAt_loader (s : State) (P : TileId) (rd : BitVec 5) (v : Word) : (s.completeAt P rd v).loader = s.loader := rfl
@[simp] theorem State.completeAt_cur (s : State) (P : TileId) (rd : BitVec 5) (v : Word) : (s.completeAt P rd v).cur = s.cur := rfl
@[simp] theorem State.completeAt_holds (s : State) (P : TileId) (rd : BitVec 5) (v : Word) : (s.completeAt P rd v).holds = s.holds := rfl
@[simp] theorem State.completeAt_agenda (s : State) (P : TileId) (rd : BitVec 5) (v : Word) : (s.completeAt P rd v).agenda = s.agenda := rfl
@[simp] theorem State.completeAt_turn (s : State) (P : TileId) (rd : BitVec 5) (v : Word) : (s.completeAt P rd v).turn = s.turn := rfl
@[simp] theorem State.completeAt_tick (s : State) (P : TileId) (rd : BitVec 5) (v : Word) : (s.completeAt P rd v).tick = s.tick := rfl
@[simp] theorem State.completeAt_timeNs (s : State) (P : TileId) (rd : BitVec 5) (v : Word) : (s.completeAt P rd v).timeNs = s.timeNs := rfl
@[simp] theorem State.completeAt_timeFrac (s : State) (P : TileId) (rd : BitVec 5) (v : Word) : (s.completeAt P rd v).timeFrac = s.timeFrac := rfl
@[simp] theorem State.completeAt_timePrev (s : State) (P : TileId) (rd : BitVec 5) (v : Word) : (s.completeAt P rd v).timePrev = s.timePrev := rfl
@[simp] theorem State.completeAt_rels (s : State) (P : TileId) (rd : BitVec 5) (v : Word) : (s.completeAt P rd v).rels = s.rels := rfl
@[simp] theorem State.completeAt_free (s : State) (P : TileId) (rd : BitVec 5) (v : Word) : (s.completeAt P rd v).free = s.free := rfl

/-! ### `State.finish` changes only tiles -/

@[simp] theorem State.finish_mem (s : State) (rd : BitVec 5) (v : Word) (n : Nat) : (s.finish rd v n).mem = s.mem := rfl
@[simp] theorem State.finish_poison (s : State) (rd : BitVec 5) (v : Word) (n : Nat) : (s.finish rd v n).poison = s.poison := rfl
@[simp] theorem State.finish_failing (s : State) (rd : BitVec 5) (v : Word) (n : Nat) : (s.finish rd v n).failing = s.failing := rfl
@[simp] theorem State.finish_quads (s : State) (rd : BitVec 5) (v : Word) (n : Nat) : (s.finish rd v n).quads = s.quads := rfl
@[simp] theorem State.finish_clusters (s : State) (rd : BitVec 5) (v : Word) (n : Nat) : (s.finish rd v n).clusters = s.clusters := rfl
@[simp] theorem State.finish_dies (s : State) (rd : BitVec 5) (v : Word) (n : Nat) : (s.finish rd v n).dies = s.dies := rfl
@[simp] theorem State.finish_io (s : State) (rd : BitVec 5) (v : Word) (n : Nat) : (s.finish rd v n).io = s.io := rfl
@[simp] theorem State.finish_tasks (s : State) (rd : BitVec 5) (v : Word) (n : Nat) : (s.finish rd v n).tasks = s.tasks := rfl
@[simp] theorem State.finish_nextTask (s : State) (rd : BitVec 5) (v : Word) (n : Nat) : (s.finish rd v n).nextTask = s.nextTask := rfl
@[simp] theorem State.finish_transit (s : State) (rd : BitVec 5) (v : Word) (n : Nat) : (s.finish rd v n).transit = s.transit := rfl
@[simp] theorem State.finish_freezes (s : State) (rd : BitVec 5) (v : Word) (n : Nat) : (s.finish rd v n).freezes = s.freezes := rfl
@[simp] theorem State.finish_resync (s : State) (rd : BitVec 5) (v : Word) (n : Nat) : (s.finish rd v n).resync = s.resync := rfl
@[simp] theorem State.finish_hostPages (s : State) (rd : BitVec 5) (v : Word) (n : Nat) : (s.finish rd v n).hostPages = s.hostPages := rfl
@[simp] theorem State.finish_loader (s : State) (rd : BitVec 5) (v : Word) (n : Nat) : (s.finish rd v n).loader = s.loader := rfl
@[simp] theorem State.finish_cur (s : State) (rd : BitVec 5) (v : Word) (n : Nat) : (s.finish rd v n).cur = s.cur := rfl
@[simp] theorem State.finish_holds (s : State) (rd : BitVec 5) (v : Word) (n : Nat) : (s.finish rd v n).holds = s.holds := rfl
@[simp] theorem State.finish_agenda (s : State) (rd : BitVec 5) (v : Word) (n : Nat) : (s.finish rd v n).agenda = s.agenda := rfl
@[simp] theorem State.finish_turn (s : State) (rd : BitVec 5) (v : Word) (n : Nat) : (s.finish rd v n).turn = s.turn := rfl
@[simp] theorem State.finish_tick (s : State) (rd : BitVec 5) (v : Word) (n : Nat) : (s.finish rd v n).tick = s.tick := rfl
@[simp] theorem State.finish_timeNs (s : State) (rd : BitVec 5) (v : Word) (n : Nat) : (s.finish rd v n).timeNs = s.timeNs := rfl
@[simp] theorem State.finish_timeFrac (s : State) (rd : BitVec 5) (v : Word) (n : Nat) : (s.finish rd v n).timeFrac = s.timeFrac := rfl
@[simp] theorem State.finish_timePrev (s : State) (rd : BitVec 5) (v : Word) (n : Nat) : (s.finish rd v n).timePrev = s.timePrev := rfl
@[simp] theorem State.finish_rels (s : State) (rd : BitVec 5) (v : Word) (n : Nat) : (s.finish rd v n).rels = s.rels := rfl
@[simp] theorem State.finish_free (s : State) (rd : BitVec 5) (v : Word) (n : Nat) : (s.finish rd v n).free = s.free := rfl

/-! ### Tiles and cores -/

@[simp] theorem State.tile_setTile (s : State) (P Q : TileId) (t : Tile) :
    (s.setTile P t).tile Q = if P = Q then t else s.tile Q := by
  simp [State.setTile, State.tile, BitVec.toNat_inj]

@[simp] theorem State.tile_modTile (s : State) (P Q : TileId) (f : Tile → Tile) :
    (s.modTile P f).tile Q = if P = Q then f (s.tile P) else s.tile Q := by
  simp [State.modTile]

@[simp] theorem State.tile_modCore (s : State) (P Q : TileId) (f : Core → Core) :
    (s.modCore P f).tile Q = if P = Q then { s.tile P with core := f (s.core P) } else s.tile Q := by
  simp [State.modCore, State.core]

@[simp] theorem State.core_modCore (s : State) (P Q : TileId) (f : Core → Core) :
    (s.modCore P f).core Q = if P = Q then f (s.core P) else s.core Q := by
  simp only [State.core, State.tile_modCore]; split <;> rfl

@[simp] theorem State.tile_modEngine (s : State) (P Q : TileId) (e : Eng) (f : Engine → Engine) :
    (s.modEngine P e f).tile Q =
      if P = Q then { s.tile P with eng := (s.tile P).eng.set (engIx e) (f (s.engine P e)) } else s.tile Q := by
  simp [State.modEngine, State.engine]

@[simp] theorem State.core_modEngine (s : State) (P Q : TileId) (e : Eng) (f : Engine → Engine) :
    (s.modEngine P e f).core Q = s.core Q := by
  simp only [State.core, State.tile_modEngine]; split <;> simp_all

theorem engIx_inj {a b : Eng} : engIx a = engIx b ↔ a = b := by cases a <;> cases b <;> decide

@[simp] theorem State.engine_modEngine (s : State) (P Q : TileId) (e g : Eng) (f : Engine → Engine) :
    (s.modEngine P e f).engine Q g = if P = Q ∧ e = g then f (s.engine P e) else s.engine Q g := by
  by_cases hP : P = Q
  · subst hP
    by_cases he : e = g
    · subst he; simp [State.engine]
    · have : (engIx e).val ≠ (engIx g).val := fun h => he (engIx_inj.mp (Fin.ext h))
      simp [State.engine, he, this]
  · simp [State.engine, hP]

@[simp] theorem State.modTile_tile_self (s : State) (P : TileId) (f : Tile → Tile) :
    (s.modTile P f).tile P = f (s.tile P) := by simp

@[simp] theorem State.modCore_core_self (s : State) (P : TileId) (f : Core → Core) :
    (s.modCore P f).core P = f (s.core P) := by simp

/-! ### Dies, quads, clusters and tasks -/

@[simp] theorem State.die_setDie (s : State) (d e : Nat) (x : Die) :
    (s.setDie d x).die e = if d = e then x else s.die e := by simp [State.setDie, State.die]

@[simp] theorem State.die_modDie (s : State) (d e : Nat) (f : Die → Die) :
    (s.modDie d f).die e = if d = e then f (s.die d) else s.die e := by simp [State.modDie]

@[simp] theorem State.quad_modQuad (s : State) (g h : Nat) (f : Quad → Quad) :
    (s.modQuad g f).quad h = if g = h then f (s.quad g) else s.quad h := by simp [State.modQuad, State.quad]

@[simp] theorem State.cluster_modCluster (s : State) (c e : Nat) (f : Cluster → Cluster) :
    (s.modCluster c f).cluster e = if c = e then f (s.cluster c) else s.cluster e := by
  simp [State.modCluster, State.cluster]

@[simp] theorem State.task?_setTask (s : State) (t u : Nat) (x : Task) :
    (s.setTask t x).task? u = if t = u then some x else s.task? u := by simp [State.setTask, State.task?]

/-! ### Views that an update leaves alone -/

@[simp] theorem State.die_setTile (s : State) (P : TileId) (t : Tile) (d : Nat) : (s.setTile P t).die d = s.die d := rfl
@[simp] theorem State.die_modTile (s : State) (P : TileId) (f : Tile → Tile) (d : Nat) : (s.modTile P f).die d = s.die d := rfl
@[simp] theorem State.die_modCore (s : State) (P : TileId) (f : Core → Core) (d : Nat) : (s.modCore P f).die d = s.die d := rfl
@[simp] theorem State.quad_modTile (s : State) (P : TileId) (f : Tile → Tile) (g : Nat) : (s.modTile P f).quad g = s.quad g := rfl
@[simp] theorem State.task?_setTile (s : State) (P : TileId) (t : Tile) (k : Nat) : (s.setTile P t).task? k = s.task? k := rfl
@[simp] theorem State.task?_modTile (s : State) (P : TileId) (f : Tile → Tile) (k : Nat) : (s.modTile P f).task? k = s.task? k := rfl
@[simp] theorem State.task?_modCore (s : State) (P : TileId) (f : Core → Core) (k : Nat) : (s.modCore P f).task? k = s.task? k := rfl
@[simp] theorem State.tile_setDie (s : State) (d : Nat) (x : Die) (P : TileId) : (s.setDie d x).tile P = s.tile P := rfl
@[simp] theorem State.tile_modDie (s : State) (d : Nat) (f : Die → Die) (P : TileId) : (s.modDie d f).tile P = s.tile P := rfl
@[simp] theorem State.core_modDie (s : State) (d : Nat) (f : Die → Die) (P : TileId) : (s.modDie d f).core P = s.core P := rfl
@[simp] theorem State.tile_modQuad (s : State) (g : Nat) (f : Quad → Quad) (P : TileId) : (s.modQuad g f).tile P = s.tile P := rfl
@[simp] theorem State.tile_setTask (s : State) (t : Nat) (x : Task) (P : TileId) : (s.setTask t x).tile P = s.tile P := rfl
@[simp] theorem State.tile_elapse (s : State) (n : Nat) (P : TileId) : (s.elapse n).tile P = s.tile P := rfl
@[simp] theorem State.tile_putBytes (s : State) (g : Nat) (b : List Byte) (P : TileId) : (s.putBytes g b).tile P = s.tile P := rfl
@[simp] theorem State.tile_unmark (s : State) (l : Nat) (P : TileId) : (s.unmark l).tile P = s.tile P := rfl

/-! ### Registers -/

@[simp] theorem Core.rd_zero (c : Core) : c.rd 0 = 0 := rfl

@[simp] theorem Core.rd_wr (c : Core) (r q : BitVec 5) (v : Word) :
    (c.wr r v).rd q = if q = 0 then 0 else if q = r then v else c.rd q := by
  by_cases hr : r = 0
  · rw [Core.wr, if_pos hr]
    subst hr
    unfold Core.rd
    split
    · rfl
    · rfl
  · rw [Core.wr, if_neg hr]
    unfold Core.rd
    split
    · rfl
    · split
      · next h => subst h; exact Vector.getElem_set_self ..
      · next h => exact Vector.getElem_set_ne r.isLt q.isLt fun e => h (BitVec.eq_of_toNat_eq e.symm)

theorem Core.rd_congr {c d : Core} (h : c.regs = d.regs) (r : BitVec 5) : c.rd r = d.rd r := by
  unfold Core.rd; rw [h]

theorem Core.wr_regs_congr {c d : Core} (h : c.regs = d.regs) (r : BitVec 5) (v : Word) :
    (c.wr r v).regs = (d.wr r v).regs := by
  unfold Core.wr; split
  · exact h
  · simp only [h]

theorem Core.wr_eq (c : Core) (r : BitVec 5) (v : Word) :
    c.wr r v = { c with regs := (c.wr r v).regs, ready := (c.wr r v).ready } := by
  unfold Core.wr; split <;> rfl

end Sys2Proof.Machine
end

