-- ==== Sys2Proof/Laws/Access.lean ====
section
/-! SUPPORT. What a read, a write or a read-modify-write at its target can change: memory with its marks, its failing transfers and its
releases, the dies, die 4 and the tag counters of a task, with memory kept canonical; no tile, no time. -/
namespace Sys2Proof.Machine

/-- Nothing differs but memory with its marks, failing transfers and releases, the dies, die 4 and the tag counters of tasks, and
memory stays canonical. -/
structure Behind (s t : State) : Prop where
  same : t = { s with
    mem := t.mem, poison := t.poison, failing := t.failing, rels := t.rels, dies := t.dies, io := t.io, tasks := t.tasks }
  tags : ∀ n, ∃ f : KMap (BitVec 16) → KMap (BitVec 16), t.task? n = (s.task? n).map fun k => { k with tags := f k.tags }
  wf : Memory.wf s.mem = true → Memory.wf t.mem = true

/-- A change that leaves every task as it was. -/
theorem Behind.of_tasks {s t : State}
    (h : t = { s with mem := t.mem, poison := t.poison, failing := t.failing, rels := t.rels, dies := t.dies, io := t.io })
    (w : Memory.wf s.mem = true → Memory.wf t.mem = true) : Behind s t := by
  have e : t.tasks = s.tasks := by rw [h]
  refine ⟨?_, fun n => ⟨id, ?_⟩, w⟩
  · rw [e]; exact h
  · simp only [State.task?, e, id]
    cases kfind s.tasks n <;> rfl

theorem Behind.refl (s : State) : Behind s s := .of_tasks rfl id

theorem Behind.trans {s t u : State} (a : Behind s t) (b : Behind t u) : Behind s u := by
  refine ⟨?_, fun n => ?_, b.wf ∘ a.wf⟩
  · have h := b.same
    rw [a.same] at h
    exact h
  · obtain ⟨f, hf⟩ := a.tags n
    obtain ⟨g, hg⟩ := b.tags n
    refine ⟨g ∘ f, ?_⟩
    rw [hg, hf]
    cases s.task? n <;> rfl

/-! ### The parts that stay -/

theorem Behind.tiles {s t : State} (h : Behind s t) : t.tiles = s.tiles := by rw [h.same]
theorem Behind.cur {s t : State} (h : Behind s t) : t.cur = s.cur := by rw [h.same]
theorem Behind.tick {s t : State} (h : Behind s t) : t.tick = s.tick := by rw [h.same]
theorem Behind.holds {s t : State} (h : Behind s t) : t.holds = s.holds := by rw [h.same]
theorem Behind.tile {s t : State} (h : Behind s t) (P : TileId) : t.tile P = s.tile P := by
  simp only [State.tile, h.tiles]
theorem Behind.core {s t : State} (h : Behind s t) (P : TileId) : t.core P = s.core P := by
  simp only [State.core, h.tile]
/-- The task of a tile is as before but for its tag counters. -/
theorem Behind.taskOf {s t : State} (h : Behind s t) (P : TileId) :
    ∃ f : KMap (BitVec 16) → KMap (BitVec 16), t.taskOf P = (s.taskOf P).map fun k => { k with tags := f k.tags } := by
  simp only [State.taskOf, h.tile]
  cases (s.tile P).task with
  | none => exact ⟨id, rfl⟩
  | some n => exact h.tags n

/-! ### Single updates -/

theorem modDie_behind (s : State) (d : Nat) (f : Die → Die) : Behind s (s.modDie d f) := .of_tasks rfl id
theorem dies_behind (s : State) (x : KMap Die) : Behind s { s with dies := x } := .of_tasks rfl id
theorem io_behind (s : State) (x : IoDie) : Behind s { s with io := x } := .of_tasks rfl id
theorem poison_behind (s : State) (x : List Nat) : Behind s { s with poison := x } := .of_tasks rfl id
theorem failing_behind (s : State) (x : List Nat) : Behind s { s with failing := x } := .of_tasks rfl id
theorem rels_behind (s : State) (x : List (Nat × List Rel)) : Behind s { s with rels := x } := .of_tasks rfl id
theorem putBytes_behind (s : State) (g : Nat) (bs : List Byte) : Behind s (s.putBytes g bs) := .of_tasks rfl memWrite_wf
theorem mark_behind (s : State) (l : Nat) : Behind s (s.mark l) := by
  unfold State.mark; split
  · exact .refl s
  · exact .of_tasks rfl id
theorem unmark_behind (s : State) (l : Nat) : Behind s (s.unmark l) := .of_tasks rfl id

/-- A fold of steps that each stay behind stays behind. -/
theorem foldl_behind {α : Type} (f : State → α → State) (h : ∀ s x, Behind s (f s x)) (l : List α) (s : State) :
    Behind s (l.foldl f s) := by
  induction l generalizing s with
  | nil => exact .refl s
  | cons x l ih => exact (h s x).trans (ih _)

/-! ### Memory encryption -/

theorem quarantineAt_behind (s : State) (d pa lvl : Nat) : Behind s (s.quarantineAt d pa lvl) := by
  simp only [State.quarantineAt]
  exact (dies_behind s _).trans (modDie_behind ..)

theorem tagMismatch_behind (s : State) (d l : Nat) : Behind s (s.tagMismatch d l) :=
  (mark_behind s l).trans (modDie_behind ..)

theorem readCrypt_behind (s : State) (d pa : Nat) (key : BitVec 256) : Behind s (s.readCrypt d pa key).1 := by
  have h : ∀ b : Bool, Behind s (if b = true then s else s.modDie d fun y => y.trust d (pa / 64 * 64)) := fun b => by
    split
    · exact .refl s
    · exact modDie_behind ..
  simp only [State.readCrypt]
  repeat' split
  all_goals first
    | exact .refl s
    | exact quarantineAt_behind ..
    | exact (h _).trans (tagMismatch_behind ..)
    | exact h _
    | exact tagMismatch_behind ..
    | exact modDie_behind s d fun y => y.trust d (pa / 64 * 64)
    | exact (modDie_behind s d fun y => y.trust d (pa / 64 * 64)).trans (tagMismatch_behind ..)

theorem storeCrypt_behind (s : State) (d pa : Nat) (key : BitVec 256) (p : List Byte) :
    Behind s (s.storeCrypt d pa key p) := by
  simp only [State.storeCrypt]
  exact (putBytes_behind ..).trans (modDie_behind ..)

theorem putLines_behind (d page : Nat) (key : BitVec 256) (l : List (Nat × Option (List Byte))) (s : State) :
    Behind s (putLines d page key l s) := by
  induction l generalizing s with
  | nil => exact .refl s
  | cons x l ih =>
    obtain ⟨i, _ | p⟩ := x
    · exact ((storeCrypt_behind ..).trans (mark_behind ..)).trans (ih _)
    · exact (storeCrypt_behind ..).trans (ih _)

theorem reencrypt_behind (s : State) (d page : Nat) (key : BitVec 256) : Behind s (s.reencrypt d page key) := by
  simp only [State.reencrypt]
  refine Behind.trans (Behind.trans ?_ (modDie_behind ..)) (putLines_behind ..)
  exact foldl_behind _ (fun u (x : Nat × Option (List Byte)) => tagMismatch_behind u d (lineOf (gDie d (page * 4096 + 64 * x.1)))) _ s

theorem writeCryptSegs_behind (s : State) (d base : Nat) (key : BitVec 256) (segs : List (Nat × List Byte)) :
    Behind s (s.writeCryptSegs d base key segs).1 := by
  simp only [State.writeCryptSegs]
  split
  · exact .refl s
  split
  · exact quarantineAt_behind ..
  split
  · exact .refl s
  have h1 : Behind s (if ((s.die d).ctr (base / 4096)).minor (base / 64 % 64) = 127 then
      s.reencrypt d (base / 4096) key else s) := by
    split
    · exact reencrypt_behind ..
    · exact .refl s
  revert h1
  generalize (if ((s.die d).ctr (base / 4096)).minor (base / 64 % 64) = 127 then
      s.reencrypt d (base / 4096) key else s) = u
  intro h1
  have h2 : Behind u (if (segBytes segs == 64) = true then (u, some (List.replicate 64 (0 : Byte)), false)
      else u.readCrypt d base key).1 := by
    split
    · exact .refl u
    · exact readCrypt_behind ..
  split
  · exact h1.trans h2
  · refine (h1.trans h2).trans ?_
    split
    · exact ((modDie_behind ..).trans (storeCrypt_behind ..)).trans (unmark_behind ..)
    · exact (modDie_behind ..).trans (storeCrypt_behind ..)

theorem writeCrypt_behind (s : State) (d pa : Nat) (key : BitVec 256) (bs : List Byte) :
    Behind s (s.writeCrypt d pa key bs).1 := writeCryptSegs_behind ..

/-! ### Reading and writing at a place -/

theorem transfer_behind (s : State) (l : Nat) : Behind s (s.transfer l).1 := by
  simp only [State.transfer]
  split
  · exact failing_behind ..
  · exact .refl s

theorem readOver_behind (s : State) (l : Nat) (g : Got) : Behind s (s.readOver l g).1 := by
  have h := transfer_behind s l
  simp only [State.readOver]
  split <;> simp_all only

theorem wroteOver_behind (s : State) (l : Nat) : Behind s (s.wroteOver l) := by
  have h := transfer_behind s l
  simp only [State.wroteOver]
  split
  · next e => rw [e] at h; exact h.trans (mark_behind ..)
  · next e => rw [e] at h; exact h

theorem readKeyed_behind (s : State) (d pa n : Nat) (key : Byte) : Behind s (s.readKeyed d pa n key).1 := by
  have h := readCrypt_behind s d pa (kget 0 (s.die d).keys key.toNat)
  simp only [State.readKeyed]
  repeat' split
  all_goals simp_all only
  all_goals first
    | exact .refl s

theorem readDie_behind (s : State) (d pa n : Nat) (leaf : Word) : Behind s (s.readDie d pa n leaf).1 := readKeyed_behind ..

theorem writePlain_behind (s : State) (g : Nat) (bs : List Byte) : Behind s (s.writePlain g bs) := by
  simp only [State.writePlain]
  split
  · exact (putBytes_behind ..).trans (unmark_behind ..)
  · exact putBytes_behind ..

theorem writePlainSegs_behind (s : State) (g : Nat) (segs : List (Nat × List Byte)) : Behind s (s.writePlainSegs g segs) := by
  have h := foldl_behind (fun (s : State) (x : Nat × List Byte) => s.putBytes (g + x.1) x.2) (fun _ _ => putBytes_behind ..) segs s
  simp only [State.writePlainSegs]
  split
  · exact h.trans (unmark_behind ..)
  · exact h

/-! ### Clocks -/

theorem learn_behind (s : State) (h : Nat) (c : Clock) : Behind s (s.learn h c) := by
  simp only [State.learn]
  split
  · exact .refl s
  · exact modDie_behind ..

theorem learnClock_behind (s : State) (P : Option TileId) (o : Nat) : Behind s (s.learnClock P o) := by
  simp only [State.learnClock]
  split
  · split
    · exact .refl s
    · exact learn_behind ..
  · exact io_behind ..

theorem learnTile_behind (s : State) (who : Who) (va : Word) : Behind s (s.learnTile who va) := by
  simp only [State.learnTile]
  split
  · split
    · exact .refl s
    · exact learnClock_behind ..
  · exact .refl s

theorem tellHolders_behind (s : State) (o pa : Nat) (key : Byte) : Behind s (s.tellHolders o pa key) := by
  simp only [State.tellHolders]
  split
  · refine Behind.trans ?_ (foldl_behind _ (fun s i => ?_) _ _)
    · have h (u : State) : Behind u (match u.readKeyed o (pa / 64 * 64) 64 key with
          | (s, .bytes l) => (s, l)
          | (s, _) => (s, [])).1 := by
        have g := readKeyed_behind u o (pa / 64 * 64) 64 key
        split <;> simp_all only
      exact Behind.trans (modDie_behind s o _) (h _)
    · split
      · exact .refl s
      · exact modDie_behind ..
  · exact .refl s

theorem applyUpTo_behind (s : State) (c : Clock) (h : Nat) : Behind s (s.applyUpTo c h) := by
  simp only [State.applyUpTo]
  split
  · exact modDie_behind ..
  · exact .refl s

theorem releaseOf_behind (s : State) (X : Agent) (m : BitVec 6) (c : Clock) : Behind s (s.releaseOf X m c) := by
  have h1 : Behind s (if (maskLeaves m && X.die.isSome) = true then s.learnIo c else s) := by
    split
    · exact io_behind ..
    · exact .refl s
  have h2 : s.releaseOf X m c = (fun u : State =>
      if (m.getLsbD 3 || (m.getLsbD 4 && X.isHost) || (m.getLsbD 5 && X.isPeer)) = true then
        (List.range 4).foldl (State.applyUpTo · c) u
      else match X.die with
        | some d => if m.extractLsb' 0 3 = 0 then u else u.applyUpTo c d
        | none => u) (if (maskLeaves m && X.die.isSome) = true then s.learnIo c else s) := rfl
  rw [h2]
  refine h1.trans ?_
  dsimp only
  generalize (if (maskLeaves m && X.die.isSome) = true then s.learnIo c else s) = u
  split
  · exact foldl_behind _ (fun u h => applyUpTo_behind u c h) _ _
  · split
    · split
      · exact .refl _
      · exact applyUpTo_behind ..
    · exact .refl _

/-- A release changes what the dies have applied, and nothing of any tile. -/
theorem release_behind (s : State) (X : Agent) (m : BitVec 6) : Behind s (s.release X m) := by
  simp only [State.release]
  split
  · exact .refl s
  · exact releaseOf_behind ..

theorem tellWritten_behind (s : State) (before : Word) (d pa : Nat) (key : Byte) : Behind s (s.tellWritten before d pa key) := by
  simp only [State.tellWritten]
  split
  · exact tellHolders_behind ..
  · exact foldl_behind _ (fun u i => tellHolders_behind ..) _ _

theorem writeDie_behind (s : State) (d pa : Nat) (leaf : Word) (bs : List Byte) : Behind s (s.writeDie d pa leaf bs).1 := by
  have h := writeCrypt_behind s d pa ((s.die d).keyOf leaf) bs
  simp only [State.writeDie]
  repeat' split
  all_goals simp_all only
  all_goals first
    | exact .refl s
    | exact (writePlain_behind ..).trans (tellHolders_behind ..)
    | exact h.trans (tellWritten_behind ..)

theorem writeDieSegs_behind (s : State) (d pa : Nat) (leaf : Word) (segs : List (Nat × List Byte)) :
    Behind s (s.writeDieSegs d pa leaf segs).1 := by
  have h := writeCryptSegs_behind s d pa ((s.die d).keyOf leaf) segs
  simp only [State.writeDieSegs]
  repeat' split
  all_goals simp_all only
  all_goals first
    | exact .refl s
    | exact (writePlainSegs_behind ..).trans (tellHolders_behind ..)
    | exact h.trans (tellWritten_behind ..)

/-! ### Translation -/

theorem walk_behind (s : State) (d : Nat) (ctx : BitVec 12) (va : Word) (k : AccKind) (pkr : Word) :
    Behind s (s.walk d ctx va k pkr).1 := by
  simp only [State.walk]
  repeat' split
  all_goals first
    | exact .refl s
    | exact (putBytes_behind ..).trans (tellHolders_behind ..)

theorem locateDie_behind (s : State) (d : Nat) (who : Who) (va : Word) (k : AccKind) (zf : Bool) :
    Behind s (s.locateDie d who va k zf).1 := by
  have h := walk_behind s d who.ctx va k who.pkr
  simp only [State.locateDie]
  repeat' split
  all_goals simp_all only
  all_goals first
    | exact .refl s
    | exact h
    | exact h.trans (modDie_behind ..)

theorem locateHost_behind (s : State) (who : Who) (va : Word) (k : AccKind) : Behind s (s.locateHost who va k).1 := by
  simp only [State.locateHost]
  repeat' split
  all_goals first
    | exact .refl s
    | exact io_behind ..

theorem locatePeer_behind (s : State) (who : Who) (va : Word) (k : AccKind) : Behind s (s.locatePeer who va k).1 := by
  simp only [State.locatePeer]
  repeat' split
  all_goals exact .refl s

theorem locate_behind (s : State) (who : Who) (va : Word) (k : AccKind) (zf : Bool) : Behind s (s.locate who va k zf).1 := by
  simp only [State.locate]
  repeat' split
  all_goals first
    | exact locateDie_behind ..
    | exact locateHost_behind ..
    | exact locatePeer_behind ..
    | exact .refl s

theorem parkAt_behind (s : State) (d : Nat) (who : Who) (va : Word) (k : AccKind) : Behind s (s.parkAt d who va k) := by
  simp only [State.parkAt, State.parkReq]
  split
  · exact io_behind ..
  · exact modDie_behind ..

theorem unpark_behind (s : State) (P : TileId) (src : BitVec 3) : Behind s (s.unpark P src) := by
  simp only [State.unpark]
  exact ((((modDie_behind ..).trans (modDie_behind ..)).trans (modDie_behind ..)).trans (modDie_behind ..)).trans
    (io_behind ..)

/-! ### Tags -/

/-- A tile's task counts its tags on, and nothing else of it changes. -/
theorem takeTag_behind (s : State) (P : TileId) : Behind s (s.takeTag P).1 := by
  simp only [State.takeTag]
  split
  · exact .refl s
  · next k hk =>
    simp only [State.modTaskOf, State.modTask, State.taskOf] at hk ⊢
    split at hk
    · next n hn =>
      simp only [hk]
      refine ⟨rfl, fun m => ?_, id⟩
      by_cases e : n = m
      · subst e
        refine ⟨fun l => kset l (tagKey (s.tile P).vt (s.tile P).copy)
          (s.freeTag (s.srcOf P) 20480 (kget 0 k.tags (tagKey (s.tile P).vt (s.tile P).copy)) + 1), ?_⟩
        simp only [State.task?, State.setTask, kfind_kset, if_pos] at hk ⊢
        rw [hk]; rfl
      · refine ⟨id, ?_⟩
        simp only [State.task?, State.setTask, kfind_kset, if_neg e]
        cases kfind s.tasks m <;> rfl
    · exact absurd hk (by simp)

theorem tagRead_behind (s : State) (who : Who) (va : Word) : Behind s (s.tagRead who va) := by
  simp only [State.tagRead]
  split
  · split
    · exact takeTag_behind ..
    · exact .refl s
  · exact .refl s

/-! ### Accesses by generic address -/

theorem askPeer_behind (s : State) (P : TileId) (w : Nat) (va : Word) (op : RoceOp) : Behind s (s.askPeer P w va op).1 := by
  simp only [State.askPeer]
  repeat' split
  all_goals first
    | exact .refl s
    | exact io_behind ..

theorem holdHost_behind (s : State) (va : Word) (g : Nat) : Behind s (s.holdHost va g) := by
  simp only [State.holdHost]
  split
  · exact io_behind ..
  · exact .refl s

theorem rlcFill_behind (s : State) (h : Nat) (l : RlcLine) : Behind s (s.rlcFill h l) := modDie_behind ..

theorem rlcDrop_behind (s : State) (h home : Nat) (who : Who) (va : Word) : Behind s (s.rlcDrop h home who va) := by
  simp only [State.rlcDrop]
  split
  · exact modDie_behind ..
  · exact .refl s

theorem rlcClear_behind (s : State) (who : Who) (va : Word) (d pa : Nat) : Behind s (s.rlcClear who va d pa) := by
  simp only [State.rlcClear]
  split
  · split
    · exact rlcDrop_behind ..
    · exact .refl s
  · exact .refl s

theorem readBy_behind (s : State) (take : Bool) (who : Who) (va : Word) (n : Nat) (k : AccKind) (zf rlc : Bool) :
    Behind s (s.readBy take who va n k zf rlc).1 := by
  simp only [State.readBy]
  split
  · exact .refl s
  have h0 : Behind s (if take = true then s.tagRead who va else s) := by
    split
    · exact tagRead_behind ..
    · exact .refl s
  have h := h0.trans (locate_behind (if take = true then s.tagRead who va else s) who va k zf)
  revert h
  generalize (if take = true then s.tagRead who va else s).locate who va k zf = l
  obtain ⟨u, place, walk⟩ := l
  intro h
  dsimp only at h ⊢
  refine h.trans ?_
  split
  · exact ((holdHost_behind ..).trans (learnTile_behind ..)).trans (readOver_behind ..)
  · exact .refl u
  · exact .refl u
  · exact .refl u
  · next w =>
    have g := askPeer_behind u (who.tile.getD 0) w va (.read n)
    split <;> simp_all only
  · next d pa leaf =>
    split
    · next P _ =>
      have g := readDie_behind (u.rlcDrop (dieOf P) (lineOf (gDie d pa)) who va) d (pa / 64 * 64) 64 leaf
      refine (rlcDrop_behind u (dieOf P) (lineOf (gDie d pa)) who va).trans (g.trans ?_)
      generalize (u.rlcDrop (dieOf P) (lineOf (gDie d pa)) who va).readDie d (pa / 64 * 64) 64 leaf = l
      obtain ⟨v, got⟩ := l
      have o := readOver_behind v (lineOf (gDie d pa)) got
      dsimp only
      split
      · next e =>
        rw [e] at o
        dsimp only at o ⊢
        refine o.trans ((learnClock_behind _ who.tile d).trans ?_)
        split
        · exact rlcFill_behind ..
        · exact .refl _
      · next e => rw [e] at o; exact o.trans (learnClock_behind ..)
    · exact ((readDie_behind ..).trans (readOver_behind ..)).trans (learnClock_behind ..)

theorem readVa_behind (s : State) (who : Who) (va : Word) (n : Nat) (k : AccKind) (zf rlc : Bool) :
    Behind s (s.readVa who va n k zf rlc).1 := readBy_behind ..

theorem writeVa_behind (s : State) (who : Who) (va : Word) (bs : List Byte) (zf : Bool) :
    Behind s (s.writeVa who va bs zf).1 := by
  simp only [State.writeVa]
  have h := locate_behind s who va .write zf
  revert h
  generalize s.locate who va .write zf = l
  obtain ⟨u, place, walk⟩ := l
  intro h
  dsimp only at h ⊢
  refine h.trans ?_
  split
  · exact (((holdHost_behind ..).trans (writePlain_behind ..)).trans (wroteOver_behind ..)).trans (learnTile_behind ..)
  · exact .refl u
  · exact .refl u
  · exact .refl u
  · next w =>
    have g := askPeer_behind u (who.tile.getD 0) w va (.write bs)
    split <;> simp_all only
  · exact (((rlcClear_behind ..).trans (writeDie_behind ..)).trans (wroteOver_behind ..)).trans (learnClock_behind ..)

/-- The writing half of a read-modify-write. -/
theorem rmwPut_behind (s : State) (w : State → List Byte → State × Put) (hw : ∀ s b, Behind s (w s b).1) (n : Nat)
    (f : Nat → Option Nat) (got : Got) :
    Behind s (match got with
      | .bytes l =>
        match f (leNat l) with
        | some v =>
          match w s (leBytes n v) with
          | (s, .park d) => (s, Got.park d)
          | (s, _) => (s, got)
        | none => (s, got)
      | g => (s, g)).1 := by
  split
  · split
    · next v _ =>
      have g := hw s (leBytes n v)
      split
      · next e => rw [e] at g; exact g
      · next e => rw [e] at g; exact g
    · exact .refl s
  · exact .refl s

theorem rmwOver_behind (s : State) (line : Nat) (f : Nat → Option Nat) (got r : Got) : Behind s (s.rmwOver line f got r).1 := by
  simp only [State.rmwOver]
  split
  · split
    · exact wroteOver_behind ..
    · exact readOver_behind ..
  · exact readOver_behind ..

theorem rmwVa_behind (s : State) (who : Who) (va : Word) (n : Nat) (f : Nat → Option Nat) (net : Option RoceOp) :
    Behind s (s.rmwVa who va n f net).1 := by
  simp only [State.rmwVa]
  have h := locate_behind s who va .rmw false
  revert h
  generalize s.locate who va .rmw false = l
  obtain ⟨u, place, walk⟩ := l
  intro h
  dsimp only at h ⊢
  refine h.trans ?_
  split
  · next g =>
    refine (holdHost_behind u va g).trans (Behind.trans (Behind.trans ?_ (rmwOver_behind ..)) (learnTile_behind ..))
    exact rmwPut_behind _ (fun s b => (s.writePlain g b, .done)) (fun s b => writePlain_behind s g b) n f _
  · exact .refl u
  · exact .refl u
  · exact .refl u
  · next w =>
    split
    · exact .refl u
    · next op =>
      have g := askPeer_behind u (who.tile.getD 0) w va op
      split <;> simp_all only
  · next d pa leaf =>
    refine ((rlcClear_behind u who va d pa).trans (readDie_behind (u.rlcClear who va d pa) d pa n leaf)).trans
      (Behind.trans (Behind.trans ?_ (rmwOver_behind ..)) (learnClock_behind ..))
    exact rmwPut_behind _ (fun s b => s.writeDie d pa leaf b) (fun s b => writeDie_behind s d pa leaf b) n f _

theorem readSpan_behind (who : Who) (zf rlc : Bool) (fuel : Nat) (s : State) (va : Word) (n : Nat) :
    Behind s (State.readSpan who zf rlc fuel s va n).1 := by
  induction fuel generalizing s va n with
  | zero => exact .refl s
  | succ fuel ih =>
    simp only [State.readSpan]
    split
    · exact .refl s
    · have h := readVa_behind s who va (min n (64 - va.toNat % 64)) .read zf rlc
      split
      · next e => rw [e] at h; exact h.trans (ih _ _ _)
      · next e => rw [e] at h; exact h

theorem agentRead_behind (s : State) (ctx : BitVec 12) (va : Word) (n : Nat) : Behind s (s.agentRead ctx va n).1 := by
  simp only [State.agentRead]
  have h := readSpan_behind (agentWho ctx) false false (n / 64 + 2) s va n
  split <;> simp_all only

theorem writeSpan_behind (who : Who) (fuel : Nat) (s : State) (va : Word) (bs : List Byte) :
    Behind s (State.writeSpan who fuel s va bs).1 := by
  induction fuel generalizing s va bs with
  | zero => exact .refl s
  | succ fuel ih =>
    simp only [State.writeSpan]
    split
    · exact .refl s
    · have h := writeVa_behind s who va (bs.take (min bs.length (64 - va.toNat % 64))) false
      split
      · next e => rw [e] at h; exact h.trans (ih _ _ _)
      · next e => rw [e] at h; exact h

theorem agentWrite_behind (s : State) (ctx : BitVec 12) (va : Word) (bs : List Byte) :
    Behind s (s.agentWrite ctx va bs).1 := writeSpan_behind ..

theorem setDone_behind (s : State) (o : Nat) (l : List DoneReq) : Behind s (s.setDone o l) := by
  simp only [State.setDone]
  split
  · exact modDie_behind ..
  · exact io_behind ..

/-- A request applied once under its tag changes what its application changes, and its owner's table. -/
theorem onceAt_behind (s : State) (P : TileId) (va : Word) (tag : BitVec 16) (t : Nat) (f : State → State × AccOut × Nat)
    (h : ∀ u, Behind u (f u).1) : Behind s (s.onceAt P va tag t f).1 := by
  simp only [State.onceAt]
  split
  · exact .refl s
  · have g := h s
    split
    · next e => rw [e] at g; exact g.trans (setDone_behind ..)
    · next e => rw [e] at g; exact g.trans (setDone_behind ..)
    · exact g

end Sys2Proof.Machine
end

