-- ==== Sys2Proof/Laws/Core.lean ====
section
/-! SUPPORT. What the shared ways of ending an instruction of a core can do: each lemma says all of it, so that no later proof
unfolds the operation. -/
namespace Sys2Proof.Machine

/-! ### Nothing but tiles -/

theorem SameMemory.refl (s : State) : SameMemory s s := ⟨fun _ => rfl, rfl⟩

theorem SameDevice.of_tiles (s : State) (x : KMap Tile) : SameDevice s { s with tiles := x } :=
  ⟨SameMemory.refl s, rfl⟩

theorem SameDevice.trans {s t u : State} (a : SameDevice s t) (b : SameDevice t u) : SameDevice s u := by
  refine ⟨⟨fun x => (b.1.1 x).trans (a.1.1 x), b.1.2.trans a.1.2⟩, ?_⟩
  have h := congrArg (fun x : State => { x with tiles := s.tiles }) b.2
  exact h.trans a.2

theorem modTile_onlyTile (s : State) (P : TileId) (f : Tile → Tile) : OnlyTile P s (s.modTile P f) :=
  ⟨SameDevice.of_tiles s _, fun Q h => by simp [Ne.symm h]⟩

theorem modCore_onlyCore (s : State) (P : TileId) (f : Core → Core) : OnlyCore P s (s.modCore P f) :=
  ⟨SameDevice.of_tiles s _, fun Q h => by simp [Ne.symm h], by simp⟩

theorem OnlyCore.trans {P : TileId} {s t u : State} (a : OnlyCore P s t) (b : OnlyCore P t u) : OnlyCore P s u :=
  ⟨a.1.trans b.1, fun Q h => (b.2.1 Q h).trans (a.2.1 Q h), by rw [b.2.2, a.2.2]⟩

theorem OnlyTile.trans {P : TileId} {s t u : State} (a : OnlyTile P s t) (b : OnlyTile P t u) : OnlyTile P s u :=
  ⟨a.1.trans b.1, fun Q h => (b.2 Q h).trans (a.2 Q h)⟩

theorem OnlyCore.onlyTile {P : TileId} {s t : State} (a : OnlyCore P s t) : OnlyTile P s t := ⟨a.1, a.2.1⟩

theorem SameDevice.cur_eq {s t : State} (h : SameDevice s t) : t.cur = s.cur := by
  have e := congrArg State.cur h.2
  exact e

/-! ### Ends of instructions -/

theorem occupy_eq (s : State) (P : TileId) (n : Nat) :
    s.occupy P n = s.modCore P fun c => { c with busy := max c.busy s.tick + s.throttled (dieOf P) n } := rfl

theorem finish_writesOnly (s : State) (rd : BitVec 5) (v : Word) (n : Nat) : WritesOnly rd v s (s.finish rd v n) := by
  refine ⟨(modCore_onlyCore s s.cur _).trans (modCore_onlyCore _ _ _), ?_, fun r => ?_⟩
  · simp only [GoesOn, State.finish, State.completeAt, occupy_eq, State.core_modCore, if_pos]
    rw [Core.wr_eq]; rfl
  · have h : ((s.finish rd v n).core s.cur).rd r = ((s.core s.cur).wr rd v).rd r := by
      simp [State.finish, State.completeAt, occupy_eq, Core.rd, Core.goto]
    rw [h, Core.rd_wr]

/-- An instruction that ends in `writeRd` writes its register and goes on. -/
theorem writeRd_answers (s : State) (rd : BitVec 5) (v : Word) (n : Nat) :
    ∃ t, writeRd s rd v n = .next t ∧ WritesOnly rd v s t := ⟨_, rfl, finish_writesOnly s rd v n⟩

/-- An instruction that ends in `writeRdLate` writes its register and goes on. -/
theorem writeRdLate_answers (s : State) (rd : BitVec 5) (v : Word) (n stall : Nat) :
    ∃ t, writeRdLate s rd v n stall = .next t ∧ WritesOnly rd v s t := by
  obtain ⟨h1, h2, h3⟩ := finish_writesOnly s rd v n
  have hc : (s.finish rd v n).cur = s.cur := h1.1.cur_eq
  refine ⟨_, rfl, h1.trans (hc ▸ modCore_onlyCore _ _ _), ?_, fun r => ?_⟩
  · simp only [GoesOn] at h2 ⊢
    simp only [hc, State.core_modCore, if_pos]
    rw [h2]
  · rw [← h3 r]
    simp only [hc, State.core_modCore, if_pos]
    rfl

/-- An instruction whose meaning is a `writeRd`. -/
theorem Writes.of_writeRd {i : Instr} {s : State} {rd : BitVec 5} {p : Word → Prop} {v : Word} (n : Nat)
    (h : exec i s = writeRd s rd v n) (hp : p v) : Writes i s rd p :=
  ⟨v, hp, (writeRd_answers s rd v n).imp fun _ g => ⟨h.trans g.1, g.2⟩⟩

/-- An instruction whose meaning is a `writeRdLate`. -/
theorem Writes.of_writeRdLate {i : Instr} {s : State} {rd : BitVec 5} {p : Word → Prop} {v : Word} (n stall : Nat)
    (h : exec i s = writeRdLate s rd v n stall) (hp : p v) : Writes i s rd p :=
  ⟨v, hp, (writeRdLate_answers s rd v n stall).imp fun _ g => ⟨h.trans g.1, g.2⟩⟩

theorem goto_jumpsOnly (s : State) (next : Word) (n : Nat) :
    JumpsOnly next s ((s.modCore s.cur fun c => c.goto next).occupy s.cur n) := by
  refine ⟨(modCore_onlyCore s s.cur _).trans (modCore_onlyCore _ _ _), ?_, fun r => ?_⟩
  · simp [GoesOn, occupy_eq, Core.goto]
  · simp [occupy_eq, Core.goto, Core.rd]

/-- An instruction that ends in `stepOver` only goes on at PC + 4. -/
theorem stepOver_answers (s : State) (n : Nat) : ∃ t, stepOver s n = .next t ∧ JumpsOnly (s.pc + 4) s t :=
  ⟨_, rfl, goto_jumpsOnly s _ n⟩

/-- An instruction that ends in `jumpTo` only goes on at its target. -/
theorem jumpTo_answers (s : State) (next : Word) (n : Nat) : ∃ t, jumpTo s next n = .next t ∧ JumpsOnly next s t :=
  ⟨_, rfl, goto_jumpsOnly s next n⟩

theorem raiseCore_raisesOnly (s : State) (P : TileId) (c : Cause) (val : Word) :
    RaisesOnly P c val s (s.raiseCore P c val) :=
  ⟨(modTile_onlyTile s P _).trans (modTile_onlyTile _ P _),
   by simp [State.raiseCore, State.raise, coreEvent, State.core]⟩

/-- An instruction that ends in `trapTo` only raises its cause. -/
theorem trapTo_answers (s : State) (c : Cause) (val : Word) :
    ∃ t, trapTo s c val = .next t ∧ RaisesOnly s.cur c val s t := ⟨_, rfl, raiseCore_raisesOnly s s.cur c val⟩

/-- An instruction whose meaning is a `stepOver`. -/
theorem Jumps.of_stepOver {i : Instr} {s : State} (n : Nat) (h : exec i s = stepOver s n) : Jumps i s (s.pc + 4) :=
  (stepOver_answers s n).imp fun _ g => ⟨h.trans g.1, g.2⟩

/-- An instruction whose meaning is a `jumpTo`. -/
theorem Jumps.of_jumpTo {i : Instr} {s : State} {next : Word} (n : Nat) (h : exec i s = jumpTo s next n) : Jumps i s next :=
  (jumpTo_answers s next n).imp fun _ g => ⟨h.trans g.1, g.2⟩

/-- An instruction whose meaning is a `trapTo`. -/
theorem Raises.of_trapTo {i : Instr} {s : State} {c : Cause} {val : Word} (h : exec i s = trapTo s c val) :
    Raises i s c val :=
  (trapTo_answers s c val).imp fun _ g => ⟨h.trans g.1, g.2⟩

end Sys2Proof.Machine
end

