-- ==== Sys2Proof/Laws/PerInstr.lean ====
section
/-! SUPPORT. Facts of an instruction as syntax, one lemma for each constructor: its word decodes to it. -/
namespace Sys2Proof.Laws

/-! ### Fields of a word -/

/-- Bits above the low part lie in the high part. -/
theorem extract_high {v w n s : Nat} (x : BitVec v) (y : BitVec w) (h : w ≤ s) :
    (x ++ y).extractLsb' s n = x.extractLsb' (s - w) n := BitVec.extractLsb'_append_eq_of_le h
/-- The low bits are the low part. -/
theorem extract_low {v w : Nat} (x : BitVec v) (y : BitVec w) : (x ++ y).extractLsb' 0 w = y := by
  rw [BitVec.extractLsb'_append_eq_of_add_le (by omega)]; simp
section
variable (op : BitVec 6) (rd ra rb : BitVec 5) (fn : BitVec 11) (imm : BitVec 16) (off : BitVec 21)
@[simp] theorem fOp_packRR : fOp (packRR op rd ra rb fn) = op := by
  change BitVec.extractLsb' 26 6 (op ++ rd ++ ra ++ rb ++ fn) = op
  rw [extract_high _ _ (by decide), extract_high _ _ (by decide), extract_high _ _ (by decide), extract_high _ _ (by decide)]
  simp
@[simp] theorem fRd_packRR : fRd (packRR op rd ra rb fn) = rd := by
  change BitVec.extractLsb' 21 5 (op ++ rd ++ ra ++ rb ++ fn) = rd
  rw [extract_high _ _ (by decide), extract_high _ _ (by decide), extract_high _ _ (by decide), extract_low]
@[simp] theorem fRa_packRR : fRa (packRR op rd ra rb fn) = ra := by
  change BitVec.extractLsb' 16 5 (op ++ rd ++ ra ++ rb ++ fn) = ra
  rw [extract_high _ _ (by decide), extract_high _ _ (by decide), extract_low]
@[simp] theorem fRb_packRR : fRb (packRR op rd ra rb fn) = rb := by
  change BitVec.extractLsb' 11 5 (op ++ rd ++ ra ++ rb ++ fn) = rb
  rw [extract_high _ _ (by decide), extract_low]
@[simp] theorem fFn_packRR : fFn (packRR op rd ra rb fn) = fn := extract_low _ _
@[simp] theorem fOp_packRI : fOp (packRI op rd ra imm) = op := by
  change BitVec.extractLsb' 26 6 (op ++ rd ++ ra ++ imm) = op
  rw [extract_high _ _ (by decide), extract_high _ _ (by decide), extract_high _ _ (by decide)]
  simp
@[simp] theorem fRd_packRI : fRd (packRI op rd ra imm) = rd := by
  change BitVec.extractLsb' 21 5 (op ++ rd ++ ra ++ imm) = rd
  rw [extract_high _ _ (by decide), extract_high _ _ (by decide), extract_low]
@[simp] theorem fRa_packRI : fRa (packRI op rd ra imm) = ra := by
  change BitVec.extractLsb' 16 5 (op ++ rd ++ ra ++ imm) = ra
  rw [extract_high _ _ (by decide), extract_low]
@[simp] theorem fImm_packRI : fImm (packRI op rd ra imm) = imm := extract_low _ _
@[simp] theorem fOp_packJL : fOp (packJL op rd off) = op := by
  change BitVec.extractLsb' 26 6 (op ++ rd ++ off) = op
  rw [extract_high _ _ (by decide), extract_high _ _ (by decide)]
  simp
@[simp] theorem fRd_packJL : fRd (packJL op rd off) = rd := by
  change BitVec.extractLsb' 21 5 (op ++ rd ++ off) = rd
  rw [extract_high _ _ (by decide), extract_low]
@[simp] theorem fOff_packJL : fOff (packJL op rd off) = off := extract_low _ _
@[simp] theorem imm7_sub (imm : BitVec 7) (fn : BitVec 4) : (imm ++ fn).extractLsb' 4 7 = imm := by
  rw [extract_high _ _ (by decide)]; simp
@[simp] theorem fn_sub (imm : BitVec 7) (fn : BitVec 4) : (imm ++ fn).extractLsb' 0 4 = fn := extract_low _ _
end


@[simp] theorem imm_shi (k : BitVec 10) (n : BitVec 6) :
    (k ++ n).extractLsb' 8 8 = k.extractLsb' 2 8 ∧ (k ++ n).extractLsb' 6 2 = k.extractLsb' 0 2 ∧ (k ++ n).extractLsb' 0 6 = n :=
  ⟨extract_high _ _ (by decide), extract_high _ _ (by decide), extract_low _ _⟩

@[simp] theorem imm_bfx (k : BitVec 4) (w p : BitVec 6) :
    (k ++ w ++ p).extractLsb' 14 2 = k.extractLsb' 2 2 ∧ (k ++ w ++ p).extractLsb' 12 2 = k.extractLsb' 0 2 ∧
    (k ++ w ++ p).extractLsb' 6 6 = w ∧ (k ++ w ++ p).extractLsb' 0 6 = p := by
  refine ⟨?_, ?_, ?_, extract_low _ _⟩
  · rw [extract_high _ _ (by decide), extract_high _ _ (by decide)]
  · rw [extract_high _ _ (by decide), extract_high _ _ (by decide)]
  · rw [extract_high _ _ (by decide), extract_low]

@[simp] theorem fn_lea (k : BitVec 8) (s : BitVec 3) : (k ++ s).extractLsb' 3 8 = k ∧ (k ++ s).extractLsb' 0 3 = s :=
  ⟨by rw [extract_high _ _ (by decide)]; simp, extract_low _ _⟩

@[simp] theorem fn_madd (k : BitVec 6) (c : BitVec 5) : (k ++ c).extractLsb' 5 6 = k ∧ (k ++ c).extractLsb' 0 5 = c :=
  ⟨by rw [extract_high _ _ (by decide)]; simp, extract_low _ _⟩

@[simp] theorem imm_sem (k : BitVec 1) (n : BitVec 6) : (k ++ n).extractLsb' 6 1 = k ∧ (k ++ n).extractLsb' 0 6 = n :=
  ⟨by rw [extract_high _ _ (by decide)]; simp, extract_low _ _⟩

@[simp] theorem imm_region (k : BitVec 2) (n : BitVec 5) : (k ++ n).extractLsb' 5 2 = k ∧ (k ++ n).extractLsb' 0 5 = n :=
  ⟨by rw [extract_high _ _ (by decide)]; simp, extract_low _ _⟩

@[simp] theorem imm_bar (k : BitVec 3) (n : BitVec 4) : (k ++ n).extractLsb' 4 3 = k ∧ (k ++ n).extractLsb' 0 4 = n :=
  ⟨by rw [extract_high _ _ (by decide)]; simp, extract_low _ _⟩

@[simp] theorem imm_bit (k : BitVec 6) (n : BitVec 1) : (k ++ n).extractLsb' 1 6 = k ∧ (k ++ n).extractLsb' 0 1 = n :=
  ⟨by rw [extract_high _ _ (by decide)]; simp, extract_low _ _⟩

@[simp] theorem imm_scope (k : BitVec 5) (n : BitVec 2) : (k ++ n).extractLsb' 2 5 = k ∧ (k ++ n).extractLsb' 0 2 = n :=
  ⟨by rw [extract_high _ _ (by decide)]; simp, extract_low _ _⟩

@[simp] theorem imm_lease (k : BitVec 5) (y q : BitVec 1) :
    (k ++ y ++ q).extractLsb' 0 1 = q ∧ (k ++ y ++ q).extractLsb' 1 1 = y ∧ (k ++ y ++ q).extractLsb' 2 5 = k := by
  refine ⟨extract_low _ _, ?_, ?_⟩
  · rw [extract_high _ _ (by decide), extract_low]
  · rw [extract_high _ _ (by decide), extract_high _ _ (by decide)]; simp

theorem index_split (x : BitVec 12) : x.extractLsb' 7 5 ++ x.extractLsb' 0 7 = x := by
  rw [BitVec.extractLsb'_append_extractLsb'_eq_extractLsb' (by decide)]; simp

/-! ### The groups -/

theorem decode_alu (rd ra rb : BitVec 5) (fn : BitVec 11) : decode (packRR 1 rd ra rb fn) = decodeAlu rd ra rb fn := by
  simp [decode]
theorem decode_shi (rd ra : BitVec 5) (imm : BitVec 16) : decode (packRI 8 rd ra imm) = decodeShi rd ra imm := by simp [decode]
theorem decode_bfx (rd ra : BitVec 5) (imm : BitVec 16) : decode (packRI 0x0B rd ra imm) = decodeBfx rd ra imm := by
  simp [decode]
theorem decode_memo (fn rd ra rb : BitVec 5) (obs : BitVec 6) :
    decode (packMO fn rd ra rb obs) = decodeMemo rd ra rb obs fn := by simp [decode, packMO]
theorem decode_sem (fn : BitVec 4) (rd ra rb : BitVec 5) (imm : BitVec 7) :
    decode (packEN 0x28 fn rd ra rb imm) = decodeSem rd ra rb imm fn := by simp [decode, packEN]
theorem decode_bar (fn : BitVec 4) (rd ra rb : BitVec 5) (imm : BitVec 7) :
    decode (packEN 0x29 fn rd ra rb imm) = decodeBar rd ra rb imm fn := by simp [decode, packEN]
theorem decode_chn (fn : BitVec 4) (rd ra rb : BitVec 5) (imm : BitVec 7) :
    decode (packEN 0x2A fn rd ra rb imm) = decodeChn rd ra rb imm fn := by simp [decode, packEN]
theorem decode_memx (fn : BitVec 4) (rd ra rb : BitVec 5) (imm : BitVec 7) :
    decode (packEN 0x2B fn rd ra rb imm) = decodeMemx rd ra rb imm fn := by simp [decode, packEN]
theorem decode_tim (fn : BitVec 4) (rd ra rb : BitVec 5) (imm : BitVec 7) :
    decode (packEN 0x2C fn rd ra rb imm) = decodeTim rd ra rb imm fn := by simp [decode, packEN]
theorem decode_sys (fn : BitVec 4) (rd ra rb : BitVec 5) (imm : BitVec 7) :
    decode (packEN 0x30 fn rd ra rb imm) = decodeSys rd ra rb imm fn := by simp [decode, packEN]

namespace Agree

/-- An instruction that is well-formed and has a word is what its word decodes to. -/
def Statement (i : Instr) : Prop := i.wf = true → ∀ w, encode i = some w → decode w = .ok i

theorem add (rd : BitVec 5) (ra : BitVec 5) (rb : BitVec 5) : Statement (.add rd ra rb) := by
  intro _ w h; cases h; rw [decode_alu]; rfl
theorem sub (rd : BitVec 5) (ra : BitVec 5) (rb : BitVec 5) : Statement (.sub rd ra rb) := by
  intro _ w h; cases h; rw [decode_alu]; rfl
theorem and (rd : BitVec 5) (ra : BitVec 5) (rb : BitVec 5) : Statement (.and rd ra rb) := by
  intro _ w h; cases h; rw [decode_alu]; rfl
theorem or (rd : BitVec 5) (ra : BitVec 5) (rb : BitVec 5) : Statement (.or rd ra rb) := by
  intro _ w h; cases h; rw [decode_alu]; rfl
theorem xor (rd : BitVec 5) (ra : BitVec 5) (rb : BitVec 5) : Statement (.xor rd ra rb) := by
  intro _ w h; cases h; rw [decode_alu]; rfl
theorem andn (rd : BitVec 5) (ra : BitVec 5) (rb : BitVec 5) : Statement (.andn rd ra rb) := by
  intro _ w h; cases h; rw [decode_alu]; rfl
theorem sll (rd : BitVec 5) (ra : BitVec 5) (rb : BitVec 5) : Statement (.sll rd ra rb) := by
  intro _ w h; cases h; rw [decode_alu]; rfl
theorem srl (rd : BitVec 5) (ra : BitVec 5) (rb : BitVec 5) : Statement (.srl rd ra rb) := by
  intro _ w h; cases h; rw [decode_alu]; rfl
theorem sra (rd : BitVec 5) (ra : BitVec 5) (rb : BitVec 5) : Statement (.sra rd ra rb) := by
  intro _ w h; cases h; rw [decode_alu]; rfl
theorem slt (rd : BitVec 5) (ra : BitVec 5) (rb : BitVec 5) : Statement (.slt rd ra rb) := by
  intro _ w h; cases h; rw [decode_alu]; rfl
theorem sltu (rd : BitVec 5) (ra : BitVec 5) (rb : BitVec 5) : Statement (.sltu rd ra rb) := by
  intro _ w h; cases h; rw [decode_alu]; rfl
theorem min (rd : BitVec 5) (ra : BitVec 5) (rb : BitVec 5) : Statement (.min rd ra rb) := by
  intro _ w h; cases h; rw [decode_alu]; rfl
theorem max (rd : BitVec 5) (ra : BitVec 5) (rb : BitVec 5) : Statement (.max rd ra rb) := by
  intro _ w h; cases h; rw [decode_alu]; rfl
theorem minu (rd : BitVec 5) (ra : BitVec 5) (rb : BitVec 5) : Statement (.minu rd ra rb) := by
  intro _ w h; cases h; rw [decode_alu]; rfl
theorem maxu (rd : BitVec 5) (ra : BitVec 5) (rb : BitVec 5) : Statement (.maxu rd ra rb) := by
  intro _ w h; cases h; rw [decode_alu]; rfl
theorem mul (rd : BitVec 5) (ra : BitVec 5) (rb : BitVec 5) : Statement (.mul rd ra rb) := by
  intro _ w h; cases h; rw [decode_alu]; rfl
theorem mulh (rd : BitVec 5) (ra : BitVec 5) (rb : BitVec 5) : Statement (.mulh rd ra rb) := by
  intro _ w h; cases h; rw [decode_alu]; rfl
theorem mulhu (rd : BitVec 5) (ra : BitVec 5) (rb : BitVec 5) : Statement (.mulhu rd ra rb) := by
  intro _ w h; cases h; rw [decode_alu]; rfl
theorem div (rd : BitVec 5) (ra : BitVec 5) (rb : BitVec 5) : Statement (.div rd ra rb) := by
  intro _ w h; cases h; rw [decode_alu]; rfl
theorem divu (rd : BitVec 5) (ra : BitVec 5) (rb : BitVec 5) : Statement (.divu rd ra rb) := by
  intro _ w h; cases h; rw [decode_alu]; rfl
theorem rem (rd : BitVec 5) (ra : BitVec 5) (rb : BitVec 5) : Statement (.rem rd ra rb) := by
  intro _ w h; cases h; rw [decode_alu]; rfl
theorem remu (rd : BitVec 5) (ra : BitVec 5) (rb : BitVec 5) : Statement (.remu rd ra rb) := by
  intro _ w h; cases h; rw [decode_alu]; rfl
theorem clz (rd : BitVec 5) (ra : BitVec 5) : Statement (.clz rd ra) := by
  intro _ w h; cases h; rw [decode_alu]; rfl
theorem ctz (rd : BitVec 5) (ra : BitVec 5) : Statement (.ctz rd ra) := by
  intro _ w h; cases h; rw [decode_alu]; rfl
theorem popc (rd : BitVec 5) (ra : BitVec 5) : Statement (.popc rd ra) := by
  intro _ w h; cases h; rw [decode_alu]; rfl
theorem bswap (rd : BitVec 5) (ra : BitVec 5) : Statement (.bswap rd ra) := by
  intro _ w h; cases h; rw [decode_alu]; rfl
theorem addw (rd : BitVec 5) (ra : BitVec 5) (rb : BitVec 5) : Statement (.addw rd ra rb) := by
  intro _ w h; cases h; rw [decode_alu]; rfl
theorem subw (rd : BitVec 5) (ra : BitVec 5) (rb : BitVec 5) : Statement (.subw rd ra rb) := by
  intro _ w h; cases h; rw [decode_alu]; rfl
theorem mulw (rd : BitVec 5) (ra : BitVec 5) (rb : BitVec 5) : Statement (.mulw rd ra rb) := by
  intro _ w h; cases h; rw [decode_alu]; rfl
theorem cmovnz (rd : BitVec 5) (ra : BitVec 5) (rb : BitVec 5) : Statement (.cmovnz rd ra rb) := by
  intro _ w h; cases h; rw [decode_alu]; rfl
theorem cmovz (rd : BitVec 5) (ra : BitVec 5) (rb : BitVec 5) : Statement (.cmovz rd ra rb) := by
  intro _ w h; cases h; rw [decode_alu]; rfl
theorem addi (rd : BitVec 5) (ra : BitVec 5) (imm : BitVec 16) : Statement (.addi rd ra imm) := by
  intro _ w h; cases h; simp [decode]
theorem andi (rd : BitVec 5) (ra : BitVec 5) (imm : BitVec 16) : Statement (.andi rd ra imm) := by
  intro _ w h; cases h; simp [decode]
theorem ori (rd : BitVec 5) (ra : BitVec 5) (imm : BitVec 16) : Statement (.ori rd ra imm) := by
  intro _ w h; cases h; simp [decode]
theorem xori (rd : BitVec 5) (ra : BitVec 5) (imm : BitVec 16) : Statement (.xori rd ra imm) := by
  intro _ w h; cases h; simp [decode]
theorem slti (rd : BitVec 5) (ra : BitVec 5) (imm : BitVec 16) : Statement (.slti rd ra imm) := by
  intro _ w h; cases h; simp [decode]
theorem sltiu (rd : BitVec 5) (ra : BitVec 5) (imm : BitVec 16) : Statement (.sltiu rd ra imm) := by
  intro _ w h; cases h; simp [decode]
theorem slli (rd : BitVec 5) (ra : BitVec 5) (n : BitVec 6) : Statement (.slli rd ra n) := by
  intro _ w h; cases h; rw [decode_shi]; simp [decodeShi]
theorem srli (rd : BitVec 5) (ra : BitVec 5) (n : BitVec 6) : Statement (.srli rd ra n) := by
  intro _ w h; cases h; rw [decode_shi]; simp [decodeShi]
theorem srai (rd : BitVec 5) (ra : BitVec 5) (n : BitVec 6) : Statement (.srai rd ra n) := by
  intro _ w h; cases h; rw [decode_shi]; simp [decodeShi]
theorem rori (rd : BitVec 5) (ra : BitVec 5) (n : BitVec 6) : Statement (.rori rd ra n) := by
  intro _ w h; cases h; rw [decode_shi]; simp [decodeShi]
theorem lih (rd : BitVec 5) (ra : BitVec 5) (imm : BitVec 16) : Statement (.lih rd ra imm) := by
  intro _ w h; cases h; simp [decode]
theorem adpc (rd : BitVec 5) (imm : BitVec 16) : Statement (.adpc rd imm) := by
  intro _ w h; cases h; simp [decode, need]
theorem xtz (rd : BitVec 5) (ra : BitVec 5) (w : BitVec 6) (p : BitVec 6) : Statement (.xtz rd ra w p) := by
  intro hw w h; cases h; simp only [Instr.wf] at hw; rw [decode_bfx]; simp [decodeBfx, need, hw]
theorem xts (rd : BitVec 5) (ra : BitVec 5) (w : BitVec 6) (p : BitVec 6) : Statement (.xts rd ra w p) := by
  intro hw w h; cases h; simp only [Instr.wf] at hw; rw [decode_bfx]; simp [decodeBfx, need, hw]
theorem ins (rd : BitVec 5) (ra : BitVec 5) (w : BitVec 6) (p : BitVec 6) : Statement (.ins rd ra w p) := by
  intro hw w h; cases h; simp only [Instr.wf] at hw; rw [decode_bfx]; simp [decodeBfx, need, hw]
theorem lea (rd : BitVec 5) (ra : BitVec 5) (rb : BitVec 5) (s : BitVec 3) : Statement (.lea rd ra rb s) := by
  intro _ w h; cases h; simp [decode, need]
theorem madd (rd : BitVec 5) (ra : BitVec 5) (rb : BitVec 5) (rc : BitVec 5) : Statement (.madd rd ra rb rc) := by
  intro _ w h; cases h; simp [decode, need]
theorem ldb (rd : BitVec 5) (ra : BitVec 5) (imm : BitVec 16) : Statement (.ldb rd ra imm) := by
  intro _ w h; cases h; simp [decode]
theorem ldbu (rd : BitVec 5) (ra : BitVec 5) (imm : BitVec 16) : Statement (.ldbu rd ra imm) := by
  intro _ w h; cases h; simp [decode]
theorem ldh (rd : BitVec 5) (ra : BitVec 5) (imm : BitVec 16) : Statement (.ldh rd ra imm) := by
  intro _ w h; cases h; simp [decode]
theorem ldhu (rd : BitVec 5) (ra : BitVec 5) (imm : BitVec 16) : Statement (.ldhu rd ra imm) := by
  intro _ w h; cases h; simp [decode]
theorem ldw (rd : BitVec 5) (ra : BitVec 5) (imm : BitVec 16) : Statement (.ldw rd ra imm) := by
  intro _ w h; cases h; simp [decode]
theorem ldwu (rd : BitVec 5) (ra : BitVec 5) (imm : BitVec 16) : Statement (.ldwu rd ra imm) := by
  intro _ w h; cases h; simp [decode]
theorem ldd (rd : BitVec 5) (ra : BitVec 5) (imm : BitVec 16) : Statement (.ldd rd ra imm) := by
  intro _ w h; cases h; simp [decode]
theorem stb (rd : BitVec 5) (ra : BitVec 5) (imm : BitVec 16) : Statement (.stb rd ra imm) := by
  intro _ w h; cases h; simp [decode]
theorem sth (rd : BitVec 5) (ra : BitVec 5) (imm : BitVec 16) : Statement (.sth rd ra imm) := by
  intro _ w h; cases h; simp [decode]
theorem stw (rd : BitVec 5) (ra : BitVec 5) (imm : BitVec 16) : Statement (.stw rd ra imm) := by
  intro _ w h; cases h; simp [decode]
theorem std (rd : BitVec 5) (ra : BitVec 5) (imm : BitVec 16) : Statement (.std rd ra imm) := by
  intro _ w h; cases h; simp [decode]
theorem ldAcq (rd : BitVec 5) (ra : BitVec 5) (obs : BitVec 6) : Statement (.ldAcq rd ra obs) := by
  intro _ w h; cases h; rw [decode_memo]; rfl
theorem stRel (rd : BitVec 5) (ra : BitVec 5) (obs : BitVec 6) : Statement (.stRel rd ra obs) := by
  intro _ w h; cases h; rw [decode_memo]; rfl
theorem fence (obs : BitVec 6) : Statement (.fence obs) := by
  intro _ w h; cases h; rw [decode_memo]; rfl
theorem waitNe (rd : BitVec 5) (ra : BitVec 5) (rb : BitVec 5) (obs : BitVec 6) : Statement (.waitNe rd ra rb obs) := by
  intro _ w h; cases h; rw [decode_memo]; rfl
theorem waitEq (rd : BitVec 5) (ra : BitVec 5) (rb : BitVec 5) (obs : BitVec 6) : Statement (.waitEq rd ra rb obs) := by
  intro _ w h; cases h; rw [decode_memo]; rfl
theorem waitGe (rd : BitVec 5) (ra : BitVec 5) (rb : BitVec 5) (obs : BitVec 6) : Statement (.waitGe rd ra rb obs) := by
  intro _ w h; cases h; rw [decode_memo]; rfl
theorem amoAdd (rd : BitVec 5) (ra : BitVec 5) (rb : BitVec 5) (obs : BitVec 6) : Statement (.amoAdd rd ra rb obs) := by
  intro _ w h; cases h; rw [decode_memo]; rfl
theorem amoAnd (rd : BitVec 5) (ra : BitVec 5) (rb : BitVec 5) (obs : BitVec 6) : Statement (.amoAnd rd ra rb obs) := by
  intro _ w h; cases h; rw [decode_memo]; rfl
theorem amoOr (rd : BitVec 5) (ra : BitVec 5) (rb : BitVec 5) (obs : BitVec 6) : Statement (.amoOr rd ra rb obs) := by
  intro _ w h; cases h; rw [decode_memo]; rfl
theorem amoXor (rd : BitVec 5) (ra : BitVec 5) (rb : BitVec 5) (obs : BitVec 6) : Statement (.amoXor rd ra rb obs) := by
  intro _ w h; cases h; rw [decode_memo]; rfl
theorem amoMin (rd : BitVec 5) (ra : BitVec 5) (rb : BitVec 5) (obs : BitVec 6) : Statement (.amoMin rd ra rb obs) := by
  intro _ w h; cases h; rw [decode_memo]; rfl
theorem amoMax (rd : BitVec 5) (ra : BitVec 5) (rb : BitVec 5) (obs : BitVec 6) : Statement (.amoMax rd ra rb obs) := by
  intro _ w h; cases h; rw [decode_memo]; rfl
theorem amoMinu (rd : BitVec 5) (ra : BitVec 5) (rb : BitVec 5) (obs : BitVec 6) : Statement (.amoMinu rd ra rb obs) := by
  intro _ w h; cases h; rw [decode_memo]; rfl
theorem amoMaxu (rd : BitVec 5) (ra : BitVec 5) (rb : BitVec 5) (obs : BitVec 6) : Statement (.amoMaxu rd ra rb obs) := by
  intro _ w h; cases h; rw [decode_memo]; rfl
theorem amoSwap (rd : BitVec 5) (ra : BitVec 5) (rb : BitVec 5) (obs : BitVec 6) : Statement (.amoSwap rd ra rb obs) := by
  intro _ w h; cases h; rw [decode_memo]; rfl
theorem amoCas (rd : BitVec 5) (ra : BitVec 5) (rb : BitVec 5) (obs : BitVec 6) : Statement (.amoCas rd ra rb obs) := by
  intro _ w h; cases h; rw [decode_memo]; rfl
theorem fredAdd (ctl : BitVec 5) (ra : BitVec 5) (rb : BitVec 5) (obs : BitVec 6) : Statement (.fredAdd ctl ra rb obs) := by
  intro _ w h; cases h; rw [decode_memo]; rfl
theorem fredMin (ctl : BitVec 5) (ra : BitVec 5) (rb : BitVec 5) (obs : BitVec 6) : Statement (.fredMin ctl ra rb obs) := by
  intro _ w h; cases h; rw [decode_memo]; rfl
theorem fredMax (ctl : BitVec 5) (ra : BitVec 5) (rb : BitVec 5) (obs : BitVec 6) : Statement (.fredMax ctl ra rb obs) := by
  intro _ w h; cases h; rw [decode_memo]; rfl
theorem beq (ra : BitVec 5) (rb : BitVec 5) (off : BitVec 16) : Statement (.beq ra rb off) := by
  intro _ w h; cases h; simp [decode]
theorem bne (ra : BitVec 5) (rb : BitVec 5) (off : BitVec 16) : Statement (.bne ra rb off) := by
  intro _ w h; cases h; simp [decode]
theorem blt (ra : BitVec 5) (rb : BitVec 5) (off : BitVec 16) : Statement (.blt ra rb off) := by
  intro _ w h; cases h; simp [decode]
theorem bge (ra : BitVec 5) (rb : BitVec 5) (off : BitVec 16) : Statement (.bge ra rb off) := by
  intro _ w h; cases h; simp [decode]
theorem bltu (ra : BitVec 5) (rb : BitVec 5) (off : BitVec 16) : Statement (.bltu ra rb off) := by
  intro _ w h; cases h; simp [decode]
theorem bgeu (ra : BitVec 5) (rb : BitVec 5) (off : BitVec 16) : Statement (.bgeu ra rb off) := by
  intro _ w h; cases h; simp [decode]
theorem jal (rd : BitVec 5) (off : BitVec 21) : Statement (.jal rd off) := by
  intro _ w h; cases h; simp [decode]
theorem jalr (rd : BitVec 5) (ra : BitVec 5) (imm : BitVec 16) : Statement (.jalr rd ra imm) := by
  intro _ w h; cases h; simp [decode]
theorem semdef (ra : BitVec 5) (n : BitVec 5) : Statement (.semdef ra n) := by
  intro _ w h; cases h; rw [decode_sem]; simp [decodeSem, need]
theorem semp (rd : BitVec 5) (ra : BitVec 5) (n : BitVec 6) : Statement (.semp rd ra n) := by
  intro _ w h; cases h; rw [decode_sem]; simp [decodeSem, need]
theorem semv (ra : BitVec 5) (rb : BitVec 5) (n : BitVec 6) : Statement (.semv ra rb n) := by
  intro _ w h; cases h; rw [decode_sem]; simp [decodeSem, need]
theorem semtry (rd : BitVec 5) (ra : BitVec 5) (n : BitVec 6) : Statement (.semtry rd ra n) := by
  intro _ w h; cases h; rw [decode_sem]; simp [decodeSem, need]
theorem semrd (rd : BitVec 5) (n : BitVec 6) : Statement (.semrd rd n) := by
  intro _ w h; cases h; rw [decode_sem]; simp [decodeSem, need]
theorem semset (ra : BitVec 5) (n : BitVec 6) : Statement (.semset ra n) := by
  intro _ w h; cases h; rw [decode_sem]; simp [decodeSem, need]
theorem bardef (ra : BitVec 5) (n : BitVec 4) : Statement (.bardef ra n) := by
  intro _ w h; cases h; rw [decode_bar]; simp [decodeBar, need]
theorem bara (rd : BitVec 5) (n : BitVec 4) : Statement (.bara rd n) := by
  intro _ w h; cases h; rw [decode_bar]; simp [decodeBar, need]
theorem barw (rd : BitVec 5) (n : BitVec 4) : Statement (.barw rd n) := by
  intro _ w h; cases h; rw [decode_bar]; simp [decodeBar, need]
theorem baraw (rd : BitVec 5) (n : BitVec 4) : Statement (.baraw rd n) := by
  intro _ w h; cases h; rw [decode_bar]; simp [decodeBar, need]
theorem chain (rd : BitVec 5) (ra : BitVec 5) (e : Eng) : Statement (.chain rd ra e) := by
  intro _ w h; cases h; rw [decode_chn]; cases e <;> rfl
theorem chwait (rd : BitVec 5) (ra : BitVec 5) (e : Eng) : Statement (.chwait rd ra e) := by
  intro _ w h; cases h; rw [decode_chn]; cases e <;> rfl
theorem chstat (rd : BitVec 5) (e : Eng) : Statement (.chstat rd e) := by
  intro _ w h; cases h; rw [decode_chn]; cases e <;> rfl
theorem chkill (rd : BitVec 5) (ra : BitVec 5) (e : Eng) : Statement (.chkill rd ra e) := by
  intro _ w h; cases h; rw [decode_chn]; cases e <;> rfl
theorem gcfg (rd : BitVec 5) (ra : BitVec 5) (s : BitVec 1) : Statement (.gcfg rd ra s) := by
  intro _ w h; cases h; rw [decode_chn]; simp [decodeChn, need]
theorem mxlease (rd : BitVec 5) (ra : BitVec 5) (y : BitVec 1) (q : BitVec 1) : Statement (.mxlease rd ra y q) := by
  intro hw w h; cases h; simp only [Instr.wf] at hw; rw [decode_chn]; simp [decodeChn, need, hw]
theorem chselProbe (rd : BitVec 5) (ra : BitVec 5) : Statement (.chselProbe rd ra) := by
  intro _ w h; cases h; rw [decode_chn]; rfl
theorem chselCur (rd : BitVec 5) : Statement (.chselCur rd) := by
  intro _ w h; cases h; rw [decode_chn]; rfl
theorem chselAdv (rd : BitVec 5) : Statement (.chselAdv rd) := by
  intro _ w h; cases h; rw [decode_chn]; rfl
theorem pgreq (rd : BitVec 5) (ra : BitVec 5) : Statement (.pgreq rd ra) := by
  intro _ w h; cases h; rw [decode_memx]; rfl
theorem resq (rd : BitVec 5) (ra : BitVec 5) : Statement (.resq rd ra) := by
  intro _ w h; cases h; rw [decode_memx]; rfl
theorem pkrw (rd : BitVec 5) (ra : BitVec 5) : Statement (.pkrw rd ra) := by
  intro _ w h; cases h; rw [decode_memx]; rfl
theorem pkrr (rd : BitVec 5) : Statement (.pkrr rd) := by
  intro _ w h; cases h; rw [decode_memx]; rfl
theorem rply : Statement .rply := by
  intro _ w h; cases h; rw [decode_memx]; rfl
theorem tlbinv (ra : BitVec 5) (rb : BitVec 5) (s : BitVec 2) : Statement (.tlbinv ra rb s) := by
  intro hw w h; cases h; simp [Instr.wf] at hw; rw [decode_memx]; simp [decodeMemx, need, hw]
theorem rdtime (rd : BitVec 5) : Statement (.rdtime rd) := by
  intro _ w h; cases h; rw [decode_tim]; rfl
theorem rdrcc (rd : BitVec 5) : Statement (.rdrcc rd) := by
  intro _ w h; cases h; rw [decode_tim]; rfl
theorem waitt (rd : BitVec 5) (ra : BitVec 5) (t : BitVec 1) : Statement (.waitt rd ra t) := by
  intro _ w h; cases h; rw [decode_tim]; simp [decodeTim, need]
theorem rdtick (rd : BitVec 5) : Statement (.rdtick rd) := by
  intro _ w h; cases h; rw [decode_tim]; rfl
theorem mfs (rd : BitVec 5) (x : BitVec 12) : Statement (.mfs rd x) := by
  intro hw w h; cases h; simp only [Instr.wf] at hw; rw [decode_sys]; simp [decodeSys, need, index_split, hw]
theorem mts (ra : BitVec 5) (x : BitVec 12) : Statement (.mts ra x) := by
  intro hw w h; cases h; simp only [Instr.wf] at hw; rw [decode_sys]; simp [decodeSys, need, index_split, hw]
theorem trap (x : BitVec 12) : Statement (.trap x) := by
  intro _ w h; cases h; rw [decode_sys]; simp [decodeSys, need, index_split]
theorem svc (x : BitVec 7) : Statement (.svc x) := by
  intro _ w h; cases h; rw [decode_sys]; rfl
theorem tret : Statement .tret := by
  intro _ w h; cases h; rw [decode_sys]; rfl
theorem idle : Statement .idle := by
  intro _ w h; cases h; rw [decode_sys]; rfl
theorem brk (x : BitVec 7) : Statement (.brk x) := by
  intro _ w h; cases h; rw [decode_sys]; rfl
theorem halt : Statement .halt := by
  intro _ w h; cases h; rw [decode_sys]; rfl
theorem rdid (rd : BitVec 5) (x : BitVec 7) : Statement (.rdid rd x) := by
  intro hw w h; cases h; simp only [Instr.wf] at hw; rw [decode_sys]; simp [decodeSys, need, hw]
theorem illegalEncoding (w : InstrWord) : Statement (.illegalEncoding w) := fun _ _ h => nomatch h
theorem instructionFetch : Statement .instructionFetch := fun _ _ h => nomatch h
theorem memoryReply (P : TileId) : Statement (.memoryReply P) := fun _ _ h => nomatch h
theorem waitForChange (P : TileId) : Statement (.waitForChange P) := fun _ _ h => nomatch h
theorem waitTimeout (P : TileId) : Statement (.waitTimeout P) := fun _ _ h => nomatch h
theorem waittTarget (P : TileId) : Statement (.waittTarget P) := fun _ _ h => nomatch h
theorem idleWake (P : TileId) : Statement (.idleWake P) := fun _ _ h => nomatch h
theorem idleTimeout (P : TileId) : Statement (.idleTimeout P) := fun _ _ h => nomatch h
theorem cbNop (P : TileId) (e : Eng) : Statement (.cbNop P e) := fun _ _ h => nomatch h
theorem cbMode (P : TileId) (e : Eng) : Statement (.cbMode P e) := fun _ _ h => nomatch h
theorem patch (P : TileId) (e : Eng) : Statement (.patch P e) := fun _ _ h => nomatch h
theorem crys (P : TileId) (e : Eng) : Statement (.crys P e) := fun _ _ h => nomatch h
theorem ldCopy (P : TileId) : Statement (.ldCopy P) := fun _ _ h => nomatch h
theorem ldCvt (P : TileId) : Statement (.ldCvt P) := fun _ _ h => nomatch h
theorem ldAlign (P : TileId) : Statement (.ldAlign P) := fun _ _ h => nomatch h
theorem ldGather (P : TileId) : Statement (.ldGather P) := fun _ _ h => nomatch h
theorem ldConv (P : TileId) : Statement (.ldConv P) := fun _ _ h => nomatch h
theorem ldFill (P : TileId) : Statement (.ldFill P) := fun _ _ h => nomatch h
theorem stCopy (P : TileId) : Statement (.stCopy P) := fun _ _ h => nomatch h
theorem stCvt (P : TileId) : Statement (.stCvt P) := fun _ _ h => nomatch h
theorem stScat (P : TileId) : Statement (.stScat P) := fun _ _ h => nomatch h
theorem stRed (P : TileId) : Statement (.stRed P) := fun _ _ h => nomatch h
theorem stMigr (P : TileId) : Statement (.stMigr P) := fun _ _ h => nomatch h
theorem mxWload (P : TileId) : Statement (.mxWload P) := fun _ _ h => nomatch h
theorem mxMma (P : TileId) : Statement (.mxMma P) := fun _ _ h => nomatch h
theorem mxMmb (P : TileId) : Statement (.mxMmb P) := fun _ _ h => nomatch h
theorem mxSacc (P : TileId) : Statement (.mxSacc P) := fun _ _ h => nomatch h
theorem mxAclr (P : TileId) : Statement (.mxAclr P) := fun _ _ h => nomatch h
theorem mxAdrn (P : TileId) : Statement (.mxAdrn P) := fun _ _ h => nomatch h
theorem grCfg (P : TileId) : Statement (.grCfg P) := fun _ _ h => nomatch h
theorem grRun (P : TileId) : Statement (.grRun P) := fun _ _ h => nomatch h
theorem grSwap (P : TileId) : Statement (.grSwap P) := fun _ _ h => nomatch h
theorem rtRoute (P : TileId) : Statement (.rtRoute P) := fun _ _ h => nomatch h
theorem rtApport (P : TileId) : Statement (.rtApport P) := fun _ _ h => nomatch h
theorem rtLists (P : TileId) : Statement (.rtLists P) := fun _ _ h => nomatch h
theorem fadd (f : FeAt) (o : SlotArgs) : Statement (.fadd f o) := fun _ _ h => nomatch h
theorem fsub (f : FeAt) (o : SlotArgs) : Statement (.fsub f o) := fun _ _ h => nomatch h
theorem fmul (f : FeAt) (o : SlotArgs) : Statement (.fmul f o) := fun _ _ h => nomatch h
theorem fma (f : FeAt) (o : SlotArgs) : Statement (.fma f o) := fun _ _ h => nomatch h
theorem fms (f : FeAt) (o : SlotArgs) : Statement (.fms f o) := fun _ _ h => nomatch h
theorem fnma (f : FeAt) (o : SlotArgs) : Statement (.fnma f o) := fun _ _ h => nomatch h
theorem fmax (f : FeAt) (o : SlotArgs) : Statement (.fmax f o) := fun _ _ h => nomatch h
theorem fmin (f : FeAt) (o : SlotArgs) : Statement (.fmin f o) := fun _ _ h => nomatch h
theorem fmaxa (f : FeAt) (o : SlotArgs) : Statement (.fmaxa f o) := fun _ _ h => nomatch h
theorem frcp (f : FeAt) (o : SlotArgs) : Statement (.frcp f o) := fun _ _ h => nomatch h
theorem frsq (f : FeAt) (o : SlotArgs) : Statement (.frsq f o) := fun _ _ h => nomatch h
theorem fex2 (f : FeAt) (o : SlotArgs) : Statement (.fex2 f o) := fun _ _ h => nomatch h
theorem flg2 (f : FeAt) (o : SlotArgs) : Statement (.flg2 f o) := fun _ _ h => nomatch h
theorem iadd (f : FeAt) (o : SlotArgs) : Statement (.iadd f o) := fun _ _ h => nomatch h
theorem isub (f : FeAt) (o : SlotArgs) : Statement (.isub f o) := fun _ _ h => nomatch h
theorem imul (f : FeAt) (o : SlotArgs) : Statement (.imul f o) := fun _ _ h => nomatch h
theorem imad (f : FeAt) (o : SlotArgs) : Statement (.imad f o) := fun _ _ h => nomatch h
theorem imulh (f : FeAt) (o : SlotArgs) : Statement (.imulh f o) := fun _ _ h => nomatch h
theorem imin (f : FeAt) (o : SlotArgs) : Statement (.imin f o) := fun _ _ h => nomatch h
theorem imax (f : FeAt) (o : SlotArgs) : Statement (.imax f o) := fun _ _ h => nomatch h
theorem iabs (f : FeAt) (o : SlotArgs) : Statement (.iabs f o) := fun _ _ h => nomatch h
theorem dot4 (f : FeAt) (o : SlotArgs) : Statement (.dot4 f o) := fun _ _ h => nomatch h
theorem fdot2 (f : FeAt) (o : SlotArgs) : Statement (.fdot2 f o) := fun _ _ h => nomatch h
theorem feAnd (f : FeAt) (o : SlotArgs) : Statement (.feAnd f o) := fun _ _ h => nomatch h
theorem feOr (f : FeAt) (o : SlotArgs) : Statement (.feOr f o) := fun _ _ h => nomatch h
theorem feXor (f : FeAt) (o : SlotArgs) : Statement (.feXor f o) := fun _ _ h => nomatch h
theorem shl (f : FeAt) (o : SlotArgs) : Statement (.shl f o) := fun _ _ h => nomatch h
theorem shr (f : FeAt) (o : SlotArgs) : Statement (.shr f o) := fun _ _ h => nomatch h
theorem sar (f : FeAt) (o : SlotArgs) : Statement (.sar f o) := fun _ _ h => nomatch h
theorem fcmp (f : FeAt) (o : SlotArgs) : Statement (.fcmp f o) := fun _ _ h => nomatch h
theorem icmp (f : FeAt) (o : SlotArgs) : Statement (.icmp f o) := fun _ _ h => nomatch h
theorem feSel (f : FeAt) (o : SlotArgs) : Statement (.feSel f o) := fun _ _ h => nomatch h
theorem mov (f : FeAt) (o : SlotArgs) : Statement (.mov f o) := fun _ _ h => nomatch h
theorem movi (f : FeAt) (o : SlotArgs) : Statement (.movi f o) := fun _ _ h => nomatch h
theorem cvt (f : FeAt) (o : SlotArgs) : Statement (.cvt f o) := fun _ _ h => nomatch h
theorem cvtsr (f : FeAt) (o : SlotArgs) : Statement (.cvtsr f o) := fun _ _ h => nomatch h
theorem qnt (f : FeAt) (o : SlotArgs) : Statement (.qnt f o) := fun _ _ h => nomatch h
theorem expo (f : FeAt) (o : SlotArgs) : Statement (.expo f o) := fun _ _ h => nomatch h
theorem scalb (f : FeAt) (o : SlotArgs) : Statement (.scalb f o) := fun _ _ h => nomatch h
theorem feClass (f : FeAt) (o : SlotArgs) : Statement (.feClass f o) := fun _ _ h => nomatch h
theorem plog (f : FeAt) (o : SlotArgs) : Statement (.plog f o) := fun _ _ h => nomatch h
theorem lane (f : FeAt) (o : SlotArgs) : Statement (.lane f o) := fun _ _ h => nomatch h
theorem rng (f : FeAt) (o : SlotArgs) : Statement (.rng f o) := fun _ _ h => nomatch h
theorem lvl (f : FeAt) (o : SlotArgs) : Statement (.lvl f o) := fun _ _ h => nomatch h
theorem send (f : FeAt) (o : SlotArgs) : Statement (.send f o) := fun _ _ h => nomatch h
theorem recv (f : FeAt) (o : SlotArgs) : Statement (.recv f o) := fun _ _ h => nomatch h
theorem feIn (f : FeAt) (o : SlotArgs) : Statement (.feIn f o) := fun _ _ h => nomatch h
theorem feOut (f : FeAt) (o : SlotArgs) : Statement (.feOut f o) := fun _ _ h => nomatch h
theorem red (f : FeAt) (o : SlotArgs) : Statement (.red f o) := fun _ _ h => nomatch h
theorem shuf (f : FeAt) (o : SlotArgs) : Statement (.shuf f o) := fun _ _ h => nomatch h
theorem bcst (f : FeAt) (o : SlotArgs) : Statement (.bcst f o) := fun _ _ h => nomatch h
theorem accin (f : FeAt) (o : SlotArgs) : Statement (.accin f o) := fun _ _ h => nomatch h
theorem scan (f : FeAt) (o : SlotArgs) : Statement (.scan f o) := fun _ _ h => nomatch h
theorem get (f : FeAt) (o : SlotArgs) : Statement (.get f o) := fun _ _ h => nomatch h
theorem put (f : FeAt) (o : SlotArgs) : Statement (.put f o) := fun _ _ h => nomatch h
theorem cbFetch (P : TileId) (e : Eng) : Statement (.cbFetch P e) := fun _ _ h => nomatch h
theorem timedStart (P : TileId) (e : Eng) : Statement (.timedStart P e) := fun _ _ h => nomatch h
theorem patchList (P : TileId) (e : Eng) : Statement (.patchList P e) := fun _ _ h => nomatch h
theorem headerSignal (P : TileId) (e : Eng) : Statement (.headerSignal P e) := fun _ _ h => nomatch h
theorem semSignal (P : TileId) (n : BitVec 6) (c : BitVec 32) (reach : Bool) : Statement (.semSignal P n c reach) := fun _ _ h => nomatch h
theorem semWaitGrant (P : TileId) (n : BitVec 6) : Statement (.semWaitGrant P n) := fun _ _ h => nomatch h
theorem remoteWriteArrival (k : Nat) : Statement (.remoteWriteArrival k) := fun _ _ h => nomatch h
theorem remoteWriteAck (k : Nat) : Statement (.remoteWriteAck k) := fun _ _ h => nomatch h
theorem barrierRelease (u : BarKey) : Statement (.barrierRelease u) := fun _ _ h => nomatch h
theorem leaseRequest (P : TileId) : Statement (.leaseRequest P) := fun _ _ h => nomatch h
theorem leaseEnd (g : BitVec 8) : Statement (.leaseEnd g) := fun _ _ h => nomatch h
theorem leaseTimeout (g : BitVec 8) : Statement (.leaseTimeout g) := fun _ _ h => nomatch h
theorem leaseHandover (g : BitVec 8) : Statement (.leaseHandover g) := fun _ _ h => nomatch h
theorem tailUpdate (q : BitVec 11) : Statement (.tailUpdate q) := fun _ _ h => nomatch h
theorem queueEntry (q : BitVec 11) : Statement (.queueEntry q) := fun _ _ h => nomatch h
theorem drainComplete (q : BitVec 11) : Statement (.drainComplete q) := fun _ _ h => nomatch h
theorem cancelComplete (q : BitVec 11) (seq : BitVec 16) : Statement (.cancelComplete q seq) := fun _ _ h => nomatch h
theorem predecessorComplete (q : BitVec 11) (seq : BitVec 16) : Statement (.predecessorComplete q seq) := fun _ _ h => nomatch h
theorem qcmdEnable (q : BitVec 10) : Statement (.qcmdEnable q) := fun _ _ h => nomatch h
theorem qcmdDisable (q : BitVec 10) : Statement (.qcmdDisable q) := fun _ _ h => nomatch h
theorem qcmdComplete : Statement .qcmdComplete := fun _ _ h => nomatch h
theorem supqEnable (q : BitVec 4) : Statement (.supqEnable q) := fun _ _ h => nomatch h
theorem supqDisable (q : BitVec 4) : Statement (.supqDisable q) := fun _ _ h => nomatch h
theorem ptpfreqWrite (v : BitVec 32) : Statement (.ptpfreqWrite v) := fun _ _ h => nomatch h
theorem ptpstepWrite (v : Word) : Statement (.ptpstepWrite v) := fun _ _ h => nomatch h
theorem ptptimeRead (high : Bool) : Statement (.ptptimeRead high) := fun _ _ h => nomatch h
theorem bar0Write (off : BitVec 32) (v : Word) : Statement (.bar0Write off v) := fun _ _ h => nomatch h
theorem placeTask (d : BitVec 2) : Statement (.placeTask d) := fun _ _ h => nomatch h
theorem quantumExpiry (t : Nat) : Statement (.quantumExpiry t) := fun _ _ h => nomatch h
theorem preemptArrival (P : TileId) : Statement (.preemptArrival P) := fun _ _ h => nomatch h
theorem tileStopped (P : TileId) : Statement (.tileStopped P) := fun _ _ h => nomatch h
theorem saveComplete (t : Nat) : Statement (.saveComplete t) := fun _ _ h => nomatch h
theorem loadingComplete (t : Nat) : Statement (.loadingComplete t) := fun _ _ h => nomatch h
theorem retire (t : Nat) : Statement (.retire t) := fun _ _ h => nomatch h
theorem taskTeardown (t : Nat) : Statement (.taskTeardown t) := fun _ _ h => nomatch h
theorem eventRecord (P : TileId) (src : BitVec 3) : Statement (.eventRecord P src) := fun _ _ h => nomatch h
theorem actionResume (P : TileId) (src : BitVec 3) : Statement (.actionResume P src) := fun _ _ h => nomatch h
theorem actionSkip (P : TileId) (src : BitVec 3) : Statement (.actionSkip P src) := fun _ _ h => nomatch h
theorem actionElastic (P : TileId) (src : BitVec 3) : Statement (.actionElastic P src) := fun _ _ h => nomatch h
theorem actionRollback (P : TileId) (src : BitVec 3) : Statement (.actionRollback P src) := fun _ _ h => nomatch h
theorem actionEnd (P : TileId) (src : BitVec 3) (ecause : Byte) : Statement (.actionEnd P src ecause) := fun _ _ h => nomatch h
theorem yield (P : TileId) : Statement (.yield P) := fun _ _ h => nomatch h
theorem galloc (P : TileId) : Statement (.galloc P) := fun _ _ h => nomatch h
theorem gfree (P : TileId) : Statement (.gfree P) := fun _ _ h => nomatch h
theorem rxring (P : TileId) : Statement (.rxring P) := fun _ _ h => nomatch h
theorem netwin (P : TileId) : Statement (.netwin P) := fun _ _ h => nomatch h
theorem sliprd (P : TileId) : Statement (.sliprd P) := fun _ _ h => nomatch h
theorem txring (P : TileId) : Statement (.txring P) := fun _ _ h => nomatch h
theorem unknownService (P : TileId) : Statement (.unknownService P) := fun _ _ h => nomatch h
theorem refetchRequest (P : TileId) (e : Eng) : Statement (.refetchRequest P e) := fun _ _ h => nomatch h
theorem rollbackTimeout (P : TileId) (e : Eng) : Statement (.rollbackTimeout P e) := fun _ _ h => nomatch h
theorem slipHoldTimeout (t : Nat) : Statement (.slipHoldTimeout t) := fun _ _ h => nomatch h
theorem ownerRequest (P : TileId) : Statement (.ownerRequest P) := fun _ _ h => nomatch h
theorem pageWalk (d : BitVec 2) (ctx : BitVec 12) (va : Word) (kind : AccKind) (pkr : Word) : Statement (.pageWalk d ctx va kind pkr) := fun _ _ h => nomatch h
theorem reencryptPage (d : BitVec 2) (page : BitVec 36) (key : Byte) : Statement (.reencryptPage d page key) := fun _ _ h => nomatch h
theorem rlcUpdate (h : BitVec 2) (k : Nat) : Statement (.rlcUpdate h k) := fun _ _ h => nomatch h
theorem atsInvalidate (ctx : BitVec 12) (va : Word) : Statement (.atsInvalidate ctx va) := fun _ _ h => nomatch h
theorem priResponse (ctx : BitVec 12) (va : Word) (ok : Bool) : Statement (.priResponse ctx va ok) := fun _ _ h => nomatch h
theorem hdmAccess (write : Bool) (hpa : Word) (size : Nat) (data : List Byte) : Statement (.hdmAccess write hpa size data) := fun _ _ h => nomatch h
theorem roceInbound (r : RoceReq) : Statement (.roceInbound r) := fun _ _ h => nomatch h
theorem frameReceive (port : BitVec 2) (frame : List Byte) : Statement (.frameReceive port frame) := fun _ _ h => nomatch h
theorem civaStore (ring : Byte) : Statement (.civaStore ring) := fun _ _ h => nomatch h
theorem pivaStore (ring : Byte) : Statement (.pivaStore ring) := fun _ _ h => nomatch h
theorem frameTransmit (ring : Byte) : Statement (.frameTransmit ring) := fun _ _ h => nomatch h
theorem linkRetrain (a : BitVec 3) (b : BitVec 3) : Statement (.linkRetrain a b) := fun _ _ h => nomatch h
theorem flitRetry (a : BitVec 3) (b : BitVec 3) : Statement (.flitRetry a b) := fun _ _ h => nomatch h
theorem voteDisagree (u : VotedUnit) (majority : Bool) : Statement (.voteDisagree u majority) := fun _ _ h => nomatch h
theorem stateCrcCompare (u : VotedUnit) (a : Word) (b : Word) (c : Word) : Statement (.stateCrcCompare u a b c) := fun _ _ h => nomatch h
theorem resyncComplete (u : VotedUnit) (agree : Bool) : Statement (.resyncComplete u agree) := fun _ _ h => nomatch h
theorem pairCompareTimeout (P : TileId) : Statement (.pairCompareTimeout P) := fun _ _ h => nomatch h
theorem twinEventTimeout (t : Nat) : Statement (.twinEventTimeout t) := fun _ _ h => nomatch h
theorem replayDivergence (t : Nat) (loc : Word) : Statement (.replayDivergence t loc) := fun _ _ h => nomatch h
theorem logAppend (ctx : BitVec 12) : Statement (.logAppend ctx) := fun _ _ h => nomatch h
theorem rccFreeze (c : FreezeCause) : Statement (.rccFreeze c) := fun _ _ h => nomatch h
theorem rccThaw (c : FreezeCause) : Statement (.rccThaw c) := fun _ _ h => nomatch h
theorem patrolScrub (line : Nat) (ok : Bool) : Statement (.patrolScrub line ok) := fun _ _ h => nomatch h
theorem thermalStep (d : BitVec 2) (up : Bool) : Statement (.thermalStep d up) := fun _ _ h => nomatch h
theorem thermalTrip (d : BitVec 2) : Statement (.thermalTrip d) := fun _ _ h => nomatch h
theorem coldReset : Statement .coldReset := fun _ _ h => nomatch h
theorem warmReset : Statement .warmReset := fun _ _ h => nomatch h
theorem resetStage (ok : Bool) : Statement (.resetStage ok) := fun _ _ h => nomatch h
theorem getVersion : Statement .getVersion := fun _ _ h => nomatch h
theorem getCapabilities : Statement .getCapabilities := fun _ _ h => nomatch h
theorem negotiateAlgorithms (algs : List Byte) : Statement (.negotiateAlgorithms algs) := fun _ _ h => nomatch h
theorem getDigests : Statement .getDigests := fun _ _ h => nomatch h
theorem getCertificate (slot : BitVec 4) (off : BitVec 16) (len : BitVec 16) : Statement (.getCertificate slot off len) := fun _ _ h => nomatch h
theorem challenge (slot : BitVec 4) (nonce : List Byte) : Statement (.challenge slot nonce) := fun _ _ h => nomatch h
theorem getMeasurements (index : Byte) (nonce : List Byte) : Statement (.getMeasurements index nonce) := fun _ _ h => nomatch h
theorem firmwareUpdate (image : List Byte) : Statement (.firmwareUpdate image) := fun _ _ h => nomatch h
theorem pldmMonitor (d : BitVec 3) : Statement (.pldmMonitor d) := fun _ _ h => nomatch h
theorem pgreqAnswer (P : TileId) (ans : BitVec 2) : Statement (.pgreqAnswer P ans) := fun _ _ h => nomatch h
theorem replyAcknowledgement (owner : BitVec 3) (src : ReqSrc) (tag : BitVec 16) : Statement (.replyAcknowledgement owner src tag) := fun _ _ h => nomatch h

end Agree

end Sys2Proof.Laws
end

