-- ==== Sys2Proof/Laws/Requests.lean ====
section
/-! SUPPORT. What a request of a control core comes to: how it is sent, and what each outcome of its target does to the core that
made it. -/
namespace Sys2Proof.Machine

/-- What an access changes at its target leaves a tile's redundancy as it was. -/
theorem Behind.isPair {s t : State} (h : Behind s t) (P : TileId) : t.isPair P = s.isPair P := by
  obtain ⟨f, hf⟩ := h.taskOf P
  simp only [State.isPair, hf]
  cases s.taskOf P <;> rfl

/-! ### Sending -/

theorem pairGate_unpaired {s : State} {P : TileId} (h : s.isPair P = false) (path : Nat) (what : List Nat) :
    s.pairGate P path what = (s, .go P) := by
  unfold State.isPair at h
  unfold State.pairGate
  split
  · rfl
  · next k e =>
    rw [e] at h
    have hk : k.redun ≠ .pair := by simpa using h
    simp [hk]

/-- A request that nothing holds back goes through the tag choice and is sent. -/
theorem issueReq_sends {s : State} {r : Request} (h : s.sends r.ea) (i : Instr) :
    issueReq s i r =
      .next ((((s.tagFor s.cur r).1.sendReq s.cur i (s.tagFor s.cur r).2).1).occupy s.cur
        ((s.tagFor s.cur r).1.sendReq s.cur i (s.tagFor s.cur r).2).2) := by
  have g : (if s.outbound s.cur r.ea then s.pairGate s.cur 0 r.image else (s, .go s.cur)) = (s, PairGo.go s.cur) := by
    split
    · next ho => exact pairGate_unpaired (h.2 ho) _ _
    · rfl
  unfold issueReq
  simp only [g]
  simp

/-- A request that needs no tag keeps the one it has. -/
theorem tagFor_plain {s : State} {P : TileId} {r : Request} (h1 : r.op.once = false)
    (h2 : (s.crosses P r.ea && !(s.tile P).trailing && !s.nearLoad P r) = false) : s.tagFor P r = (s, r) := by
  unfold State.tagFor
  simp only [h1, h2]
  simp

/-- A request that writes nothing is held back only by the fabric. -/
theorem heldBack_reads {s : State} {P : TileId} {r : Request} (h1 : r.op.once = false) (h2 : r.op.writes = false) :
    s.heldBack P r = s.holds := by
  simp [State.heldBack, State.mustWait, h1, h2]

/-- A write to the own tile or within its die's memory is held back only by the fabric. -/
theorem heldBack_near {s : State} {P : TileId} {r : Request} (h1 : r.op.once = false) (h2 : s.crosses P r.ea = false)
    (h3 : s.remoteTo P r.ea = false) : s.heldBack P r = s.holds := by
  simp [State.heldBack, State.mustWait, h1, h2, h3]

/-- With no compare buffer in the way, an outcome reaches only the core that asked. -/
theorem deliver_alone {s : State} {P : TileId} {i : Instr} {r : Request} {out : AccOut} {n : Nat}
    (h : s.outbound P r.ea = true → s.isPair P = false) (hk : (s.answer P i r out).taskOf P = s.taskOf P) :
    s.deliver P i r out n = s.answer P i r out := by
  have g : (if s.outbound P r.ea then (s.answer P i r out).follower P else none) = none := by
    split
    · next ho =>
      have : (s.answer P i r out).isPair P = false := by
        unfold State.isPair at *; rw [hk]; exact h ho
      simp [State.follower, this]
    · rfl
  unfold State.deliver
  simp only [g]
  split <;> simp_all

/-! ### Outcomes -/

theorem landReq_onlyCore (s : State) (P : TileId) : OnlyCore P s (s.landReq P) := modCore_onlyCore ..

/-- A request that returns a value to `rd`. -/
theorem landed_loadsOnly (s : State) (rd : BitVec 5) (v : Word) (n : Nat) :
    LoadsOnly rd v s (((s.landReq s.cur).completeAt s.cur rd v).occupy s.cur n) := by
  refine ⟨(landReq_onlyCore s s.cur).trans ((modCore_onlyCore _ _ _).trans (modCore_onlyCore _ _ _)), ?_, fun r => ?_⟩
  · simp only [LandsAt, State.landReq, State.completeAt, occupy_eq, State.core_modCore, if_pos]
    rw [Core.wr_eq]; rfl
  · rw [← Core.rd_wr]
    apply Core.rd_congr
    simp only [State.landReq, State.completeAt, occupy_eq, State.core_modCore, if_pos, Core.goto]
    refine Core.wr_regs_congr ?_ rd v
    rfl

end Sys2Proof.Machine
end

