-- ==== Sys2Proof/Tests/Slice0.lean ====
section
/-! SUPPORT. The model's own tests: ill-formed terms that the check refuses, words written out from the manual's encodings, one step
of an instruction on a small state with a result that the manual gives, and states and operands that meet the hypotheses of the
statements together. -/
namespace Sys2Proof.Tests
open Sys2Proof.Machine

/-! ### Small states -/

/-- Registers with the values of a list. -/
def regsOf (l : List (Nat × Word)) : Vector Word 32 :=
  l.foldl (fun (v : Vector Word 32) p => if h : p.1 < 32 then v.set p.1 p.2 h else v) (Vector.replicate 32 0)

/-- A core that runs at 0x100 with the registers of a list. -/
def coreAt (l : List (Nat × Word)) : Core := { Core.reset with run := .running, pc := 0x100, regs := regsOf l }

/-- A device whose tile 0 is the tile `t`, in a task `k`. -/
def device (k : Task) (t : Tile) : State :=
  { State.reset with tasks := [(0, k)], nextTask := 1, tiles := [(0, { t with task := some 0 })] }

/-- A device with one task of one tile, whose core is `c`. -/
def single (c : Core) : State := device (Task.one 0 0) { Tile.reset with core := c }

/-- A device with one task, whose core runs with the registers of a list. -/
def regs (l : List (Nat × Word)) : State := single (coreAt l)

/-- An operation answers a state of which `p` holds. -/
def gives (r : Res) (p : State → Bool) : Bool :=
  match r with
  | .next t => p t
  | _ => false

/-- Register `rd` of tile 0 holds `v`, and the core stands at PC + 4. -/
def holds (rd : BitVec 5) (v : Word) (t : State) : Bool := t.reg rd == v && t.pc == 0x104

/-- Tile 0 has raised a cause with a value at its core. -/
def raised (c : Cause) (v : Word) (t : State) : Bool :=
  (t.tile 0).events.map (fun e => (e.src, e.cause, e.val)) == [(0, c, v)] && decide ((t.core 0).run = .event)

/-- The core of tile 0 waits. -/
def waits (k : WaitKind) (t : State) : Bool :=
  match (t.core 0).run with
  | .waiting _ j _ => decide (j = k)
  | _ => false

/-- A word decodes to an instruction. -/
def reads (w : InstrWord) (i : Instr) : Bool :=
  match decode w with
  | .ok j => decide (j = i)
  | .error _ => false

/-- A word is rejected for a reason. -/
def rejects (w : InstrWord) (r : Reject) : Bool :=
  match decode w with
  | .ok _ => false
  | .error x => decide (x = r)

/-! ### Ill-formed terms -/

theorem test_wf_refuses_wide_field : (Instr.xtz 1 2 63 1).wf = false ∧ (Instr.xts 1 2 0 63).wf = true := by decide
theorem test_wf_refuses_wide_insert : (Instr.ins 1 2 32 32).wf = false ∧ (Instr.ins 1 2 31 32).wf = true := by decide
theorem test_wf_refuses_lease_source : (Instr.mxlease 1 2 0 0).wf = false ∧ (Instr.mxlease 1 2 0 1).wf = true := by decide
theorem test_wf_refuses_scope : (Instr.tlbinv 1 0 3).wf = false ∧ (Instr.tlbinv 1 1 2).wf = false ∧ (Instr.tlbinv 1 0 2).wf = true := by
  decide
theorem test_wf_refuses_index : (Instr.mfs 1 0x004).wf = false ∧ (Instr.mts 1 0x032).wf = false ∧ (Instr.mfs 1 0x031).wf = true := by
  decide
theorem test_wf_refuses_selector : (Instr.rdid 1 4).wf = false ∧ (Instr.rdid 1 3).wf = true := by decide

/-! ### Decoding: words of the manual, and words written field by field -/

-- R121, R158, R161 to R163, R166: words that the manual gives.
theorem test_decode_add : reads 0x04853000 (.add 4 5 6) = true := by decide
theorem test_decode_addi : reads 0x08C0FFFE (.addi 6 0 0xFFFE) = true := by decide
theorem test_decode_beq : reads 0x8085FFFD (.beq 4 5 0xFFFD) = true := by decide
theorem test_decode_jal : reads 0x9BE00040 (.jal 31 64) = true := by decide
theorem test_decode_jalr : reads 0x9C1F0000 (.jalr 0 31 0) = true := by decide
theorem test_decode_ldacq : reads 0x70E40200 (.ldAcq 7 4 0b010000) = true := by decide
theorem test_decode_mfs : reads 0xC0A00110 (.mfs 5 0x011) = true := by decide
theorem test_decode_madd : reads 0x34853007 (.madd 4 5 6 7) = true := by decide
theorem test_decode_shi : reads 0x20850003 (.slli 4 5 3) = true ∧ reads 0x208500BF (.srai 4 5 63) = true := by decide
theorem test_decode_xts : reads 0x2CC712C8 (.xts 6 7 11 8) = true := by decide
theorem test_decode_lea : reads 0x30853003 (.lea 4 5 6 3) = true := by decide
-- R113, R116 to R120: fields at 1, all ones, or a boundary.
theorem test_decode_std : reads (0b011011#6 ++ 0b00011#5 ++ 0b00100#5 ++ 0b1000000000000000#16) (.std 3 4 0x8000) = true := by decide
theorem test_decode_ldbu : reads (0b010001#6 ++ 0b00011#5 ++ 0b00100#5 ++ 0b0000000000000001#16) (.ldbu 3 4 1) = true := by decide
theorem test_decode_amocas :
    reads (0b011100#6 ++ 0b00011#5 ++ 0b00100#5 ++ 0b00101#5 ++ 0b000001#6 ++ 0b01111#5) (.amoCas 3 4 5 1) = true := by decide
theorem test_decode_fredmax :
    reads (0b011100#6 ++ 0b00011#5 ++ 0b00100#5 ++ 0b00101#5 ++ 0b100000#6 ++ 0b10010#5) (.fredMax 3 4 5 0x20) = true := by decide
theorem test_decode_semp :
    reads (0b101000#6 ++ 0b00011#5 ++ 0b00100#5 ++ 0b00000#5 ++ 0b0111111#7 ++ 0b0001#4) (.semp 3 4 63) = true := by decide
theorem test_decode_baraw :
    reads (0b101001#6 ++ 0b00011#5 ++ 0b00000#5 ++ 0b00000#5 ++ 0b0001111#7 ++ 0b0011#4) (.baraw 3 15) = true := by decide
theorem test_decode_chain :
    reads (0b101010#6 ++ 0b00011#5 ++ 0b00100#5 ++ 0b00000#5 ++ 0b0000100#7 ++ 0b0000#4) (.chain 3 4 .rt) = true := by decide
theorem test_decode_tlbinv :
    reads (0b101011#6 ++ 0b00000#5 ++ 0b00100#5 ++ 0b00101#5 ++ 0b0000001#7 ++ 0b0101#4) (.tlbinv 4 5 1) = true := by decide
theorem test_decode_waitt :
    reads (0b101100#6 ++ 0b00011#5 ++ 0b00100#5 ++ 0b00000#5 ++ 0b0000001#7 ++ 0b0010#4) (.waitt 3 4 1) = true := by decide
theorem test_decode_mts :
    reads (0b110000#6 ++ 0b00000#5 ++ 0b00100#5 ++ 0b00000#5 ++ 0b0010001#7 ++ 0b0001#4) (.mts 4 0x011) = true := by decide
theorem test_decode_trap :
    reads (0b110000#6 ++ 0b00000#5 ++ 0b00000#5 ++ 0b11111#5 ++ 0b1111111#7 ++ 0b0010#4) (.trap 0xFFF) = true := by decide
-- R116, R117, R120, R192, R219: words that trap.
theorem test_decode_refuses_zero : rejects 0 .unassignedMajor = true := by decide
theorem test_decode_refuses_fn : rejects 0x048507FF .unassignedFunction = true := by decide
theorem test_decode_refuses_shi : rejects 0x208501BF .badSplit = true ∧ rejects 0x20000100 .badSplit = true := by decide
theorem test_decode_refuses_engine :
    rejects (0b101010#6 ++ 0b00011#5 ++ 0b00100#5 ++ 0b00000#5 ++ 0b0000101#7 ++ 0b0000#4) .badEngine = true := by decide
theorem test_decode_refuses_rdid :
    rejects (0b110000#6 ++ 0b00011#5 ++ 0b00000#5 ++ 0b00000#5 ++ 0b0000100#7 ++ 0b1000#4) .badSelector = true := by decide
-- R124: a slot of the X family, FADD v1, v2, v3 without a predicate.
theorem test_slot : slotOf (0x01#8 ++ 1#4 ++ 2#4 ++ 3#4 ++ 0#4 ++ 7#3 ++ 0#3 ++ 0x801#12) =
    (0x01, { dst := 1, a := 2, b := 3, c := 0, pred := 7, typ := 0, imm := 0x801 }) := by decide
theorem test_encode_round : encode (.mxlease 1 2 1 1) = some 0xA8220035 ∧ reads 0xA8220035 (.mxlease 1 2 1 1) = true := by decide

/-! ### Fetching, decoding and running -/

/-- A line whose first word is `add s4, s5, s6`, whose second is an unassigned word, and whose third reads s9. -/
def line0 : List Byte := [0x00, 0x30, 0x85, 0x04, 0xFF, 0x07, 0x85, 0x04, 0x00, 0x48, 0x09, 0x04] ++ List.replicate 52 0
/-- A core at 0x100 + `o` that holds that line. -/
def fetching (o : Word) : State :=
  single { coreAt [(5, 7), (6, 8), (9, 1)] with pc := 0x100 + o, icache := [(4, line0)], ready := [(9, 5)] }

theorem test_witness_steps_decode : (fetching 0).coreRuns 0 = true ∧ (fetching 0).dark = false ∧
    kfind ((fetching 0).core 0).icache 4 = some line0 ∧ line0.take 4 = [0x00, 0x30, 0x85, 0x04] ∧
    (fetching 0).readyFor (.add 4 5 6) ≤ (fetching 0).tick ∧ gives (step (fetching 0)) (fun t => holds 4 15 t && t.turn == 1) := by decide
theorem test_witness_steps_illegal : (line0.drop 4).take 4 = [0xFF, 0x07, 0x85, 0x04] ∧
    gives (step (fetching 4)) (raised .illop 0x048507FF) := by decide
theorem test_witness_steps_interlock : reads 0x04094800 (.add 0 9 9) = true ∧
    (fetching 8).tick < (fetching 8).readyFor (.add 0 9 9) ∧
    gives (step (fetching 8)) (fun t => t.pc == 0x108 && decide ((t.core 0).busy = 5)) := by decide
theorem test_witness_steps_fetch : ((fetching 0x40).core 0).cached (fetching 0x40).pc = none ∧
    gives (step (fetching 0x40)) (fun t => t.turn == 1) := by decide
theorem test_witness_steps_agenda :
    gives (step { regs [(5, 1)] with agenda := [.op (.addi 4 5 0xFFFF)] }) (holds 4 0) := by decide
theorem test_witness_reset_steps : gives (step State.reset) (fun t => Memory.wf t.mem) := by decide
theorem test_witness_memory : Memory.wf [(3, 1), (9, 255)] = true ∧ Memory.wf [(3, 0)] = false ∧ Memory.wf [(9, 1), (3, 1)] = false := by
  decide
theorem test_witness_pkr : encode (.add 1 2 3) ≠ none ∧ gives (exec (.add 1 2 3) (regs [])) (fun t => (t.core 0).pkr == 0) ∧
    (regs []).taskOf 0 ≠ none := by decide

/-! ### Scalar instructions -/

theorem test_addw_sign : gives (exec (.addw 4 5 6) (regs [(5, 0x7FFFFFFF), (6, 1)])) (holds 4 0xFFFFFFFF80000000) := by decide
theorem test_sra : gives (exec (.sra 4 5 6) (regs [(5, 0x8000000000000000), (6, 0x43)])) (holds 4 0xF000000000000000) := by decide
theorem test_sub_wraps : gives (exec (.sub 5 5 6) (regs [(5, 1), (6, 2)])) (holds 5 0xFFFFFFFFFFFFFFFF) := by decide
theorem test_mulh : gives (exec (.mulh 4 5 6) (regs [(5, 0xFFFFFFFFFFFFFFFF), (6, 2)])) (holds 4 0xFFFFFFFFFFFFFFFF) := by decide
theorem test_mulhu : gives (exec (.mulhu 4 5 6) (regs [(5, 0xFFFFFFFFFFFFFFFF), (6, 2)])) (holds 4 1) := by decide
-- R155: the quotient rounds towards zero, and its corners.
theorem test_div_rounds : gives (exec (.div 4 5 6) (regs [(5, 0xFFFFFFFFFFFFFFF9), (6, 2)])) (holds 4 0xFFFFFFFFFFFFFFFD) := by decide
theorem test_div_overflow :
    gives (exec (.div 4 5 6) (regs [(5, 0x8000000000000000), (6, 0xFFFFFFFFFFFFFFFF)])) (holds 4 0x8000000000000000) := by decide
theorem test_rem_zero : gives (exec (.rem 4 5 0) (regs [(5, 0x8000000000000001)])) (holds 4 0x8000000000000001) := by decide
theorem test_divu_zero : gives (exec (.divu 4 5 0) (regs [(5, 3)])) (holds 4 0xFFFFFFFFFFFFFFFF) := by decide
theorem test_clz_zero : gives (exec (.clz 4 5) (regs [])) (holds 4 64) := by decide
theorem test_ctz : gives (exec (.ctz 4 5) (regs [(5, 0x80)])) (holds 4 7) := by decide
theorem test_popc : gives (exec (.popc 4 5) (regs [(5, 0xFFFFFFFFFFFFFFFF)])) (holds 4 64) := by decide
theorem test_bswap : gives (exec (.bswap 4 5) (regs [(5, 0x0102030405060708)])) (holds 4 0x0807060504030201) := by decide
theorem test_cmovz_keeps : gives (exec (.cmovz 4 5 6) (regs [(4, 9), (5, 1), (6, 1)])) (holds 4 9) := by decide
theorem test_writes_to_s0 : gives (exec (.addi 0 5 1) (regs [(5, 1)])) (holds 0 0) := by decide
theorem test_rori : gives (exec (.rori 4 5 4) (regs [(5, 0x1F)])) (holds 4 0xF000000000000001) := by decide
-- R157: sltiu with -1 gives 1 for every value but the greatest.
theorem test_sltiu : gives (exec (.sltiu 4 5 0xFFFF) (regs [(5, 0xFFFFFFFFFFFFFFFE)])) (holds 4 1) ∧
    gives (exec (.sltiu 4 5 0xFFFF) (regs [(5, 0xFFFFFFFFFFFFFFFF)])) (holds 4 0) := by decide
theorem test_lih : gives (exec (.lih 4 5 0xBEEF) (regs [(5, 0xFFFF000000000001)])) (holds 4 0x000000000001BEEF) := by decide
theorem test_adpc : gives (exec (.adpc 4 0xFFFF) (regs [])) (holds 4 0xFFFFFFFFFFFF0100) := by decide
-- The worked example of R161.
theorem test_xts : gives (exec (.xts 6 7 11 8) (regs [(7, 0xABCDEF)])) (holds 6 0xFFFFFFFFFFFFFBCD) := by decide
theorem test_xtz : gives (exec (.xtz 6 7 11 8) (regs [(7, 0xABCDEF)])) (holds 6 0xBCD) := by decide
theorem test_ins : gives (exec (.ins 6 7 11 8) (regs [(6, 0x1111111111111111), (7, 0xABCDEF)])) (holds 6 0x11111111111DEF11) := by decide
theorem test_lea : gives (exec (.lea 4 5 6 7) (regs [(5, 1), (6, 0x0200000000000001)])) (holds 4 129) := by decide
theorem test_madd : gives (exec (.madd 4 5 6 7) (regs [(5, 0xFFFFFFFFFFFFFFFF), (6, 2), (7, 3)])) (holds 4 1) := by decide
theorem test_witness_immediates : bfxFits 63 0 = true ∧ bfxFits 0 63 = true ∧ bfxFits 1 63 = false ∧
    (0x00C3#16).extractLsb' 8 8 = 0#8 ∧ (0x0100#16).extractLsb' 8 8 ≠ 0#8 ∧ (0x3000#16).extractLsb' 12 2 = 3#2 ∧
    (0x4000#16).extractLsb' 14 2 ≠ 0#2 := by decide
theorem test_branch_taken : gives (exec (.bltu 5 6 0xFFFF) (regs [(6, 1)])) (fun t => t.pc == 0xFC) ∧
    gives (exec (.blt 5 6 0xFFFF) (regs [(5, 1)])) (fun t => t.pc == 0x104) := by decide
theorem test_branch_badaddr : gives (exec (.beq 0 0 0x8000) (regs [])) (raised .badaddr 0xFFFFFFFFFFFE0100) ∧
    tagOf (0xFFFFFFFFFFFE0100 : Word) ≠ 0 ∧ gives (exec (.bne 0 0 0x8000) (regs [])) (fun t => t.pc == 0x104) := by decide
theorem test_jal : gives (exec (.jal 31 64) (regs [])) (fun t => t.pc == 0x200 && t.reg 31 == 0x104) ∧
    gives (exec (.jal 31 0x100000) (regs [])) (raised .badaddr 0xFFFFFFFFFFC00100) := by decide
theorem test_jalr_old_link : gives (exec (.jalr 31 31 0) (regs [(31, 0x400)])) (fun t => t.pc == 0x400 && t.reg 31 == 0x104) := by decide
theorem test_jalr_traps : gives (exec (.jalr 31 5 2) (regs [(5, 0x400)])) (raised .align 0x402) ∧
    gives (exec (.jalr 31 5 2) (regs [(5, 0xF000000000000000)])) (raised .badaddr 0xF000000000000002) := by decide

/-! ### Loads, stores and the MEMO group -/

/-- The address of an offset of the own tile memory. -/
def own (o : Nat) : Word := BitVec.ofNat 64 (0xF0 * 2 ^ 56 + o)

/-- A device with one task, registers, and bytes at an offset of tile 0's memory. -/
def withBytes (l : List (Nat × Word)) (o : Nat) (b : List Byte) : State := (regs l).putBytes (gTile 0 o) b

theorem sends_of {s : State} {ea : Word} (h : s.holds = false) (h' : s.outbound s.cur ea = false ∨ s.isPair s.cur = false) :
    s.sends ea := by
  refine ⟨h, fun o => ?_⟩
  cases h' with
  | inl x => rw [x] at o; exact absurd o (by decide)
  | inr x => exact x

theorem outside_of {s : State} {ea : Word} {n : Nat}
    (h : ∀ Q, s.tileAt s.cur ea = some Q → ∀ r : Fin 32, (s.tile Q).regions[r] = none) : s.outsideByteRegions ea n := by
  intro Q hq r g hg
  rw [h Q hq r] at hg
  exact absurd hg (by simp)

/-- s5 = the address of offset 8, where the byte 0x80 and then ones stand. -/
def loads : State := withBytes [(5, own 8), (6, 0x1122334455667788)] 8 [0x80, 0xFF, 0xFF, 0xFF, 0xFF, 0xFF, 0xFF, 0x7F]

theorem test_ldb_extends : gives (exec (.ldb 4 5 0) loads) (holds 4 0xFFFFFFFFFFFFFF80) := by decide
theorem test_ldbu : gives (exec (.ldbu 4 5 0) loads) (holds 4 0x80) := by decide
theorem test_ldh : gives (exec (.ldh 4 5 6) loads) (holds 4 0x7FFF) := by decide
theorem test_ldd_little_endian : gives (exec (.ldd 4 5 0) loads) (holds 4 0x7FFFFFFFFFFFFF80) := by decide
theorem test_std : gives (exec (.std 6 5 8) loads) (fun t => t.bytes (gTile 0 16) 8 == [0x88, 0x77, 0x66, 0x55, 0x44, 0x33, 0x22, 0x11] &&
    t.bytes (gTile 0 8) 8 == loads.bytes (gTile 0 8) 8 && t.pc == 0x104) := by decide
theorem test_stb_one_byte : gives (exec (.stb 6 5 0) loads) (fun t => t.bytes (gTile 0 8) 2 == [0x88, 0xFF]) := by decide
theorem test_load_poison : gives (exec (.ldd 4 5 0) { loads with poison := [lineOf (gTile 0 8)] }) (raised .poison (own 8)) := by decide

theorem test_witness_loads : loads.localCheck 0 (own 8) 8 = none ∧ loads.localAt (own 8) = some (gTile 0 8) ∧ loads.sends (own 8) ∧
    loads.poisonIn (gTile 0 8) 8 = false ∧ ({ loads with poison := [lineOf (gTile 0 8)] }).poisonIn (gTile 0 8) 8 = true ∧
    Memory.wf loads.mem = true ∧ tagOf (own 8) ≠ 0xF1 ∧ loads.outsideByteRegions (own 8) 8 :=
  ⟨by decide, by decide, sends_of (by decide) (by decide), by decide, by decide, by decide, by decide,
   outside_of (by intro Q h; cases h; decide)⟩
theorem test_witness_loads_acc : loads.localCheck 0 0xF20000000000FFF8 8 = none ∧
    loads.localAt 0xF20000000000FFF8 = some (gAcc 0 0xFFF8) ∧ loads.sends 0xF20000000000FFF8 :=
  ⟨by decide, by decide, sends_of (by decide) (by decide)⟩
theorem test_witness_loads_other : loads.localCheck 0 0xF100000000000010 8 = none ∧
    loads.localAt 0xF100000000000010 = some (gTile 0 0x10) := by decide
/-- What `s` reads for a load of 8 bytes at `ea`. -/
def read8 (s : State) (ea : Word) : Got := (s.readVa s.me ea 8 .read true true).2.1
theorem test_witness_outcomes : loads.localCheck 0 0x10 8 = none ∧ loads.sends 0x10 ∧
    (match read8 loads (own 8) with | .bytes _ => true | _ => false) = true ∧
    (match read8 loads 0x10 with | .trap .badaddr => true | _ => false) = true ∧
    (match read8 { loads with poison := [lineOf (gTile 0 8)] } (own 8) with | .poison _ => true | _ => false) = true :=
  ⟨by decide, sends_of (by decide) (by decide), by decide, by decide, by decide⟩
/-- A device in which the leaf of the page at 0 of die 0 has the low bits `b` and is not resident. -/
def away (b : Nat) : State :=
  (loads.mapPage 0 0 0).putBytes (gDie 0 (loadTable 3)) (leBytes 8 (loadPage / 4096 * 2 ^ 22 + b))
theorem test_load_parks : read8 (away 0x06) 0x10 = .park 0 ∧ gives (exec (.ldd 4 0 0x10) (away 0x06)) (waits .parked) := by decide
theorem test_load_zero_fill : read8 (away 0x26) 0x10 = .zero ∧
    gives (exec (.ldd 5 0 0x10) (away 0x26)) (fun t => holds 5 0 t && (t.core 0).resf == 1) := by decide

/-- LDD at an address raises a cause with it. -/
def lddRaises (c : Cause) (ea : Word) : Bool := gives (exec (.ldd 4 5 0) (regs [(5, ea)])) (raised c ea)
-- R170: each check at a boundary of its range.
theorem test_check_tag : lddRaises .badaddr 0xF300000000000000 ∧ tagOf (0xF300000000000000 : Word) = 0xF3 := by decide
theorem test_check_spans : lddRaises .badaddr (own 0x80000) ∧ lddRaises .badaddr 0xF200000000010000 ∧
    lddRaises .badaddr 0xF104000000000000 ∧ lddRaises .badaddr 0xF100000000080000 ∧
    (own 0x80000).extractLsb' 19 37 ≠ 0 ∧ (0xF200000000010000 : Word).extractLsb' 16 40 ≠ 0 ∧
    (0xF104000000000000 : Word).extractLsb' 50 6 ≠ 0 ∧ (0xF100000000080000 : Word).extractLsb' 19 21 ≠ 0 := by decide
theorem test_check_align : lddRaises .align (own 4) ∧ tagKnown (own 4) = true ∧ spansZero (own 4) = true := by decide
theorem test_check_tile : lddRaises .badaddr 0xF100010000000000 ∧ (regs []).mapTile 0 1 = none ∧
    spansZero 0xF100010000000000 = true := by decide
theorem test_check_owner : lddRaises .badaddr 0x00C0000000000000 ∧ ownerOf (0x00C0000000000000 : Word) = 6 := by decide
theorem test_check_memo : gives (exec (.ldAcq 4 5 0) (regs [(5, 0xF200000000000000)])) (raised .badaddr 0xF200000000000000) ∧
    gives (exec (.amoAdd 4 5 6 0) (regs [(5, own 1)])) (raised .align (own 1)) ∧
    gives (exec (.waitEq 4 5 6 0) (regs [(5, 0x0500000000000000)])) (raised .badaddr 0x0500000000000000) := by decide
theorem test_check_peer : gives (exec (.amoMin 4 5 6 0) (regs [(5, 0x00A0000000000000)])) (raised .badaddr 0x00A0000000000000) ∧
    ownerOf (0x00A0000000000000 : Word) = 5 := by decide

/-- s5 names the doubleword at 8, which is `v`, s6 is 5, s4 is 7. -/
def atomics (v : Nat) : State := withBytes [(4, 7), (5, own 8), (6, 5)] 8 (leBytes 8 v)
theorem test_amocas : gives (exec (.amoCas 4 5 6 0) (atomics 7)) (fun t => holds 4 7 t && t.num (gTile 0 8) 8 == 5) ∧
    gives (exec (.amoCas 4 5 6 0) (atomics 9)) (fun t => holds 4 9 t && t.num (gTile 0 8) 8 == 9) := by decide
theorem test_amomin_signed : gives (exec (.amoMin 4 5 6 0) (atomics (2 ^ 63))) (fun t => t.num (gTile 0 8) 8 == 2 ^ 63) ∧
    gives (exec (.amoMinu 4 5 6 0) (atomics (2 ^ 63))) (fun t => t.num (gTile 0 8) 8 == 5) := by decide
theorem test_amo_same_register : gives (exec (.amoSwap 6 5 6 0) (atomics 3)) (fun t => holds 6 3 t && t.num (gTile 0 8) 8 == 5) := by
  decide
theorem test_fred_adds : fredBytes 0 = 4 ∧
    gives (exec (.fredAdd 0 5 6 0) (withBytes [(5, own 8), (6, 0x3F800000)] 8 (leBytes 4 0x40000000)))
      (fun t => t.num (gTile 0 8) 4 == 0x40400000 && t.pc == 0x104) := by decide
theorem test_strel : gives (exec (.stRel 6 5 1) (atomics 0)) (fun t => t.num (gTile 0 8) 8 == 5 && t.pc == 0x104) := by decide
theorem test_fence_nothing : gives (exec (.fence 0) (regs [])) (holds 4 0) ∧ gives (exec (.fence 0x3F) (regs [])) (holds 4 0) := by
  decide
theorem test_witness_memo : tagOf (own 8) = 0xF0 ∧ (atomics 7).localCheck 0 (own 8) 8 = none ∧ (atomics 7).sends (own 8) ∧
    (atomics 7).recMode 0 = 0 ∧ (atomics 7).poisonIn (gTile 0 8) 8 = false ∧ Memory.wf (atomics 7).mem = true ∧
    (atomics 7).outsideByteRegions (own 8) 8 ∧ (atomics 7).freshSource (own 8) :=
  ⟨by decide, by decide, sends_of (by decide) (by decide), by decide, by decide, by decide,
   outside_of (by intro Q h; cases h; decide), ⟨by decide, by decide⟩⟩
theorem test_witness_memo_poison : ({ atomics 7 with poison := [lineOf (gTile 0 8)] }).poisonIn (gTile 0 8) 8 = true ∧
    gives (exec (.amoAdd 4 5 6 0) { atomics 7 with poison := [lineOf (gTile 0 8)] }) (raised .poison (own 8)) := by decide
theorem test_wait_met : gives (exec (.waitGe 4 5 6 0) (atomics 5)) (holds 4 5) ∧
    gives (exec (.waitGe 4 5 6 0) (atomics 4)) (waits .memChange) := by decide
/-- A core whose WTO is `w`, at tick `n`, and whose WAIT.EQ waits since tick 0. -/
def timed (w : Word) (n : Nat) : State :=
  { (atomics 4).modCore 0 fun c => { c with wto := w, run := .waiting (.waitEq 4 5 6 0) .memChange 0 } with tick := n }
theorem test_wait_expires : (timed 3 3).waitSince 0 = 0 ∧ ((timed 3 3).core 0).wtoTicks = 3 ∧
    ((timed 3 3).core 0).wtoTraps = false ∧ ((timed 0x8000000000000003 3).core 0).wtoTraps = true ∧
    gives (exec (.waitEq 4 5 6 0) (timed 3 2)) (waits .memChange) ∧ gives (exec (.waitEq 4 5 6 0) (timed 3 3)) (holds 4 4) ∧
    gives (exec (.waitEq 4 5 6 0) (timed 0x8000000000000003 3)) (raised .waitto (own 8)) := by decide

/-! ### Semaphores, regions, barriers, chains -/

/-- Tile 0 with the semaphore values of a list and the registers of another. -/
def sems (v : List (Nat × BitVec 32)) (l : List (Nat × Word)) : State :=
  device (Task.one 0 0) { Tile.reset with core := coreAt l, sems := v.foldl (fun (x : Vector (BitVec 32) 64) p =>
    if h : p.1 < 64 then x.set p.1 p.2 h else x) (Vector.replicate 64 0) }
theorem test_semp : gives (exec (.semp 4 5 63) (sems [(63, 3)] [(5, 3)])) (fun t => holds 4 1 t && t.sem 0 63 == 0) ∧
    gives (exec (.semp 4 5 63) (sems [(63, 2)] [(5, 3)])) (fun t => waits .sem t && t.sem 0 63 == 2) := by decide
theorem test_semtry : gives (exec (.semtry 4 5 0) (sems [(0, 2)] [(5, 3)])) (holds 4 0) := by decide
theorem test_semv_saturates : gives (exec (.semv 5 0 2) (sems [(2, 0xFFFFFFFE)] [(5, 1)]))
      (fun t => t.sem 0 2 == 0xFFFFFFFF && (t.core 0).semov == 0) ∧
    gives (exec (.semv 5 0 2) (sems [(2, 0xFFFFFFFF)] [(5, 1)]))
      (fun t => t.sem 0 2 == 0xFFFFFFFF && (t.core 0).semov == 4) := by decide
theorem test_semrd : gives (exec (.semrd 4 2) (sems [(2, 9)] [])) (holds 4 9) := by decide
theorem test_semset : gives (exec (.semset 5 2) (sems [(2, 9)] [(5, 0x100000007)])) (fun t => t.sem 0 2 == 7) := by decide

/-- A descriptor: BASE 64, SLOTB 64, NSLOT 16, FULL 1, FREE 2, OBS 1, GEN 5, RFL.INIT. -/
def regionBytes (nslot : Byte) : List Byte :=
  leBytes 4 64 ++ leBytes 4 64 ++ [nslot, 1, 2, 1] ++ leBytes 4 5 ++ leBytes 2 2 ++ List.replicate 14 0
/-- s5 names such a descriptor at offset 0x1000. -/
def binding (nslot : Byte) : State := withBytes [(5, own 0x1000)] 0x1000 (regionBytes nslot)
theorem test_semdef : (regionOf (regionBytes 16)).map (fun r => (r.nslot.toNat, r.init)) = some (16, true) ∧
    gives (exec (.semdef 5 31) (binding 16)) (fun t => t.sem 0 2 == 16 && t.sem 0 1 == 0 && t.pc == 0x104 &&
      (t.region 0 31).map (fun g => (g.f, g.c, g.tags[0])) == some (5, 5, 4)) := by decide
theorem test_semdef_refuses : regionOf (regionBytes 17) = none ∧
    gives (exec (.semdef 5 31) (binding 17)) (raised .cbformat (own 0x1000)) ∧
    gives (exec (.semdef 5 31) (regs [(5, own 16)])) (raised .align (own 16)) ∧
    gives (exec (.semdef 5 31) (regs [(5, own 0x80000)])) (raised .badaddr (own 0x80000)) ∧
    gives (exec (.semdef 5 31) (regs [(5, 0xF100000000000000)])) (raised .badaddr 0xF100000000000000) := by decide
theorem test_witness_semdef_poison : ({ binding 16 with poison := [lineOf (gTile 0 0x1000)] }).poisonIn (gTile 0 0x1000) 32 = true ∧
    (binding 16).poisonIn (gTile 0 0x1000) 32 = false := by decide
/-- A bound region one of whose slots is held. -/
def heldRegion : Region :=
  { desc := { base := 64, slotb := 64, nslot := 16, full := 1, free := 2, obs := 1, gen := 5, byteMode := false, init := true },
    f := 6, c := 5, tags := Vector.replicate 16 4, pending := 0,
    holds := [{ slot := 5, tile := 0, eng := .ld, cb := 0, fill := 5, producer := true }] }
theorem test_semdef_held : ((binding 16).setRegion 0 31 heldRegion).region 0 31 = some heldRegion ∧
    gives (exec (.semdef 5 31) ((binding 16).setRegion 0 31 heldRegion)) (raised .cbformat (own 0x1000)) := by decide

/-- BARDEF's word: a cluster-scope unit 3 with a COUNT. -/
def barWord (count : Nat) : Word := BitVec.ofNat 64 (count * 2 ^ 16 + 3 * 2 ^ 8)
theorem test_bardef : gives (exec (.bardef 5 15) (regs [(5, barWord 16)])) (fun t =>
      (t.handle 0 15).map (fun h => (h.unit, h.count, h.arrived)) == some (.cluster 0 0 3, 16, false)) ∧
    gives (exec (.bardef 5 15) (regs [(5, barWord 17)])) (raised .cbformat (barWord 17)) ∧
    gives (exec (.bardef 5 15) (regs [(5, barWord 0)])) (raised .cbformat (barWord 0)) := by decide
/-- A handle of unit u with `n` of `m` arrivals, whose tile has arrived or not. -/
def arrivals (u : BarKey) (home : BitVec 2) (n m : Nat) (arrived : Bool) : State :=
  let k := { Task.one 0 0 with home, bars := [(u, { count := BitVec.ofNat 11 m, arrivals := n, next := 0, epoch := 4, pending := 0, clock := Clock.zero })] }
  (device k { Tile.reset with core := coreAt [(5, barWord 8)] }).setHandle 0 2
    { unit := u, count := BitVec.ofNat 11 m, arrived, epoch := 4 }
theorem test_bardef_count : gives (exec (.bardef 5 15) (arrivals (.cluster 0 0 3) 0 1 2 false)) (raised .cbformat (barWord 8)) := by decide
theorem test_bara : gives (exec (.bara 4 2) (arrivals (.cluster 0 0 3) 0 1 2 false)) (fun t => holds 4 4 t &&
      ((t.task? 0).map fun k => (k.barUnit (.cluster 0 0 3)).arrivals) == some 2) ∧
    gives (exec (.bara 4 2) (arrivals (.cluster 0 0 3) 0 2 2 false)) (fun t => holds 4 5 t &&
      ((t.task? 0).map fun k => ((k.barUnit (.cluster 0 0 3)).arrivals, (k.barUnit (.cluster 0 0 3)).next)) == some (2, 1)) := by decide
theorem test_bara_twice : gives (exec (.bara 4 2) (arrivals (.cluster 0 0 3) 0 1 2 true)) (fun t => holds 4 4 t &&
    ((t.task? 0).map fun k => (k.barUnit (.cluster 0 0 3)).arrivals) == some 1) := by decide
theorem test_bara_away : gives (exec (.bara 4 2) (arrivals (.die 0 3) 1 1 2 false)) (raised .badaddr 2) ∧
    gives (exec (.bara 4 3) (arrivals (.die 0 3) 0 1 2 false)) (raised .illop 0xA4800031) ∧
    encode (.bara 4 3) = some 0xA4800031 := by decide
theorem test_barw : gives (exec (.barw 4 2) (arrivals (.cluster 0 0 3) 0 1 2 true)) (waits .bar) ∧
    gives (exec (.barw 4 2) (arrivals (.cluster 0 0 3) 0 1 2 false)) (holds 4 1) := by decide
theorem test_baraw_again : gives (exec (.baraw 4 2) ((arrivals (.cluster 0 0 3) 0 1 2 false).modCore 0 fun c => { c with barw := true }))
    (holds 4 1) := by decide

/-- An engine with chains queued. -/
def chained (nums : List Nat) (l : List (Nat × Word)) : State :=
  (regs l).modEngine 0 .ld fun x => { x with issued := 20, queue := nums.map fun n =>
    { num := BitVec.ofNat 32 n, head := own 0x100, next := own 0x100, last := false, patch := 0, mode := 0, pkr := 0, gen := 0,
      image := none, modes := 0, need := Clock.zero } }
theorem test_chain : gives (exec (.chain 4 5 .ld) (chained [] [(5, own 0x100)])) (fun t => holds 4 20 t &&
      (t.engine 0 .ld).issued == 21 && ((t.engine 0 .ld).queue.map fun c => c.head) == [own 0x100]) ∧
    gives (exec (.chain 4 5 .ld) (chained ((List.range 16).map (· + 4)) [(5, own 0x100)])) (waits .queue) := by decide
theorem test_chain_checks : gives (exec (.chain 4 5 .ld) (chained [] [(5, own 0x80)])) (raised .align (own 0x80)) ∧
    gives (exec (.chain 4 5 .ld) (chained [] [(5, 0xF200000000000000)])) (raised .badaddr 0xF200000000000000) ∧
    gives (exec (.gcfg 4 5 1) (chained [] [(5, own 0x20)])) (raised .align (own 0x20)) ∧
    gives (exec (.gcfg 4 5 1) (chained [] [(5, 0xF200000000000020)])) (raised .badaddr 0xF200000000000020) ∧
    gives (exec (.gcfg 4 5 1) (chained [] [(5, own 0x80040)])) (fun t => decide ((t.core 0).run = .running)) := by decide
theorem test_chwait : gives (exec (.chwait 4 5 .ld) (chained [18, 19] [(5, 20)])) (holds 4 2) ∧
    gives (exec (.chwait 4 5 .ld) (chained [18, 19] [(5, 18)])) (waits .chain) ∧
    gives (exec (.chwait 4 5 .ld) (chained [18, 19] [(5, 17)])) (holds 4 0) ∧
    gives (exec (.chwait 4 5 .ld) ((chained [18, 19] [(5, 17)]).modEngine 0 .ld fun x => { x with killed := [17] })) (holds 4 1) := by decide
theorem test_chkill : gives (exec (.chkill 4 5 .ld) (chained [18, 19] [(5, 19)])) (fun t => holds 4 1 t &&
      ((t.engine 0 .ld).queue.map fun c => c.num) == [18]) ∧
    gives (exec (.chkill 4 5 .ld) (chained [18, 19] [(5, 20)])) (holds 4 0) := by decide
theorem test_chstat : gives (exec (.chstat 4 .ld) (chained [18, 19] [])) (holds 4 0x0000001200010002) := by decide
theorem test_mxlease : gives (exec (.mxlease 4 5 0 1) (regs [(5, 65)])) (fun t => holds 4 16 t && (t.core 0).leaseq == 16) ∧
    gives (exec (.mxlease 4 5 0 1) (regs [(5, 64)])) (fun t => holds 4 16 t && (t.core 0).leaseq == 64) ∧
    gives (exec (.mxlease 4 5 0 0) (regs [])) (raised .illop 0xA8850005) := by decide
/-- The quad of tile 0 is leased to it since tick 0, with `n` CBs done. -/
def leased (n : Nat) (s : State) : State := s.modQuad 0 fun q => { q with lease := .held 0 0 n }
theorem test_mxlease_yield : (leased 0 (regs [])).hasLease 0 = true ∧ (regs []).hasLease 0 = false ∧
    gives (exec (.mxlease 4 0 1 0) (leased 0 (regs []))) (fun t => (t.quad 0).yield) := by decide

/-- A task with two size classes and a phase record for each phase of a list; the core of tile 0 is in phase 1. -/
def phases (l : List (BitVec 32 × BitVec 8)) (sizeva : Word) : State :=
  let k := Task.one 0 0
  device { k with image := { k.image with sizemax := [16, 64], sizeva },
                  phases := l.map fun p => { phase := p.1, cls := BitVec.ofNat 8 p.2.toNat, ovr := false } }
    { Tile.reset with core := { coreAt [(5, 64)] with phase := 1 } }
theorem test_chsel_probe : gives (exec (.chselProbe 4 5) (phases [(1, 0)] 0)) (holds 4 0x0000000100000001) ∧
    gives (exec (.chselProbe 4 6) (phases [(1, 0)] 0)) (holds 4 0x0000000100000000) ∧
    gives (exec (.chselProbe 4 5) ((phases [(1, 0)] 0).modCore 0 fun c => { c with regs := regsOf [(5, 65)] }))
      (holds 4 0x0000000100000101) := by decide
theorem test_chsel_cur : gives (exec (.chselCur 4) (phases [(1, 1)] 0)) (holds 4 0x0000000100000001) := by decide
theorem test_chsel_adv : gives (exec (.chselAdv 4) (phases [(1, 1), (2, 0)] 0)) (fun t => holds 4 0x0000000200000000 t &&
      (t.core 0).phase == 2) ∧
    gives (exec (.chselAdv 4) (phases [(1, 1)] 0)) (holds 4 0x0000000200000001) ∧
    gives (exec (.chselAdv 4) (phases [(1, 1)] (own 4))) (raised .align (own 4)) ∧
    gives (exec (.chselAdv 4) (phases [(1, 1)] (own 8))) (holds 4 0x0000000200000000) := by decide

/-- As `phases`, with the core three phases ahead of another tile of its task. -/
def ahead : State :=
  let s := (phases [(3, 1)] 0).modTask 0 fun k => { k with tileMap := [(0, 0x8000), (1, 0x8001)] }
  s.modCore 0 fun c => { c with phase := 3 }
theorem test_chsel_waits : ((ahead.task? 0).map fun k => ahead.phaseLag k 3) = some 3 ∧
    gives (exec (.chselAdv 4) ahead) (waits .phase) := by decide

/-! ### Pages, keys, time, system registers, traps -/

/-- Registers, with the page at 0 of die 0 mapped: s5 = 0x40. -/
def paged : State := (regs [(5, 0x40)]).mapPage 0 0 0
/-- As `paged`, in K mode. -/
def kernel (s : State) : State := s.modTask 0 fun k => { k with image := { k.image with kmode := true } }
theorem test_pgreq : gives (exec (.pgreq 4 5) paged) (holds 4 0) ∧ gives (exec (.pgreq 4 0) (away 6)) (waits .pgreq) ∧
    gives (exec (.pgreq 4 5) (regs [(5, own 0)])) (raised .badaddr (own 0)) ∧
    gives (exec (.pgreq 4 5) (regs [(5, 0x0001000000000000)])) (waits .pgreq) := by decide
/-- R207: V, R, W, ZF in bits 0 to 3, SIZE in 5:4, PKEY in 10:6. -/
theorem test_resq : gives (exec (.resq 4 5) paged) (holds 4 7) ∧ gives (exec (.resq 4 5) (regs [(5, 0x40)])) (holds 4 0) := by decide
theorem test_witness_resq_poison : (({ paged with poison := [lineOf (gDie 0 (loadTable 2))] }).resqFind 0 0x40).1 = .poisoned ∧
    gives (exec (.resq 4 5) { paged with poison := [lineOf (gDie 0 (loadTable 2))] }) (raised .poison 0x40) := by decide
theorem test_pkrw : gives (exec (.pkrw 5 5) (regs [(5, 9)])) (fun t => holds 5 0 t && (t.core 0).pkr == 9) := by decide
theorem test_pkrr : gives (exec (.pkrr 5) ((regs []).modCore 0 fun c => { c with pkr := 3 })) (holds 5 3) := by decide
theorem test_rply_modes : (regs []).kmode = false ∧ (kernel (regs [])).kmode = true ∧
    gives (exec .rply (regs [])) (raised .illop 0xAC000004) ∧ gives (exec .rply (kernel (regs []))) (holds 4 0) := by decide
theorem test_tlbinv : gives (exec (.tlbinv 5 6 0) (regs [(5, 0x40)])) (raised .illop 0xAC053005) ∧
    gives (exec (.tlbinv 5 6 1) (kernel (regs [(5, 0x40)]))) (holds 4 0) ∧
    gives (exec (.tlbinv 5 6 1) (kernel (regs [(5, own 0)]))) (raised .badaddr (own 0)) ∧
    gives (exec (.tlbinv 5 6 3) (kernel (regs []))) (raised .illop 0xAC053035) ∧
    encode (.tlbinv 5 6 3) = some 0xAC053035 := by decide
theorem test_rdtime : gives (exec (.rdtime 4) { regs [] with timeNs := 77 }) (holds 4 77) := by decide
theorem test_rdtick : gives (exec (.rdtick 4) { regs [] with tick := 9 }) (holds 4 9) := by decide
/-- A static task whose counter stands at 100. -/
def static : State := (regs [(5, 90), (6, 101)]).modTask 0 fun k => { k with static := true, rccBase := 100 }
theorem test_rdrcc : gives (exec (.rdrcc 4) static) (holds 4 100) ∧ gives (exec (.rdrcc 4) (regs [])) (holds 4 0) := by decide
theorem test_waitt : gives (exec (.waitt 4 5 1) static) (holds 4 10) ∧ gives (exec (.waitt 4 6 1) static) (waits .time) ∧
    gives (exec (.waitt 4 5 1) (regs [])) (raised .illop 0xB0850012) ∧
    gives (exec (.waitt 4 5 0) { regs [(5, 90)] with timeNs := 90 }) (holds 4 0) ∧
    gives (exec (.waitt 4 5 0) { regs [(5, 90)] with timeNs := 89 }) (waits .time) := by decide
theorem test_mfs : gives (exec (.mfs 4 0x030) (regs [])) (holds 4 16) ∧ gives (exec (.mfs 4 0x004) (regs [])) (raised .illop 0xC0800040) ∧
    encode (.mfs 4 0x004) = some 0xC0800040 := by decide
theorem test_mts_wto : gives (exec (.mts 5 0x011) (regs [(5, 0xFFFFFFFFFFFFFFFF)])) (fun t => (t.core 0).wto == 0x80000000FFFFFFFF) ∧
    gives (exec (.mts 5 0x000) (regs [(5, 0x203)])) (fun t => (t.core 0).trapvec == 0x200) := by decide
theorem test_mts_refused : gives (exec (.mts 5 0x010) (regs [(5, 6)])) (raised .illop 0xC0050101) ∧
    gives (exec (.mts 5 0x010) (regs [(5, 0x25)])) (fun t => (t.core 0).fmode == 0x25) ∧
    gives (exec (.mts 5 0x020) (regs [])) (raised .illop 0xC0050201) ∧ encode (.mts 5 0x010) = some 0xC0050101 := by decide
theorem test_mts_clears : gives (exec (.mts 5 0x013) ((regs [(5, 5)]).modCore 0 fun c => { c with semov := 7 }))
    (fun t => (t.core 0).semov == 2) := by decide
theorem test_trap_enters : gives (exec (.trap 0xFFF) ((regs []).modCore 0 fun c => { c with trapvec := 0x800 })) (fun t =>
    t.pc == 0x800 && (t.core 0).trappc == 0x100 && (t.core 0).trapcause == 0x10 && (t.core 0).trapval == 0xFFF) := by decide
theorem test_trap_without_vector : gives (exec (.trap 7) (regs [])) (raised .trap 7) ∧
    gives (exec (.brk 7) (regs [])) (raised .brk 7) := by decide
theorem test_brk_enters : gives (exec (.brk 0x7F) ((regs []).modCore 0 fun c => { c with trapvec := 0x800 })) (fun t =>
    t.pc == 0x800 && (t.core 0).trapcause == 0x11 && (t.core 0).trapval == 0x7F) := by decide
theorem test_svc : gives (exec (.svc 5) (regs [])) (raised .svc 5) := by decide
theorem test_tret : gives (exec .tret (kernel ((regs []).modCore 0 fun c => { c with trappc := 0x44, trapcause := 16, trapval := 3 })))
      (fun t => t.pc == 0x44 && (t.core 0).trapcause == 0 && (t.core 0).trapval == 0) ∧
    gives (exec .tret (regs [])) (raised .illop 0xC0000004) := by decide
theorem test_halt : gives (exec .halt (regs [])) (fun t => decide ((t.core 0).run = .halted) && t.pc == 0x100) := by decide
theorem test_idle : gives (exec .idle (regs [])) (waits .idle) := by decide
theorem test_rdid : gives (exec (.rdid 4 3) (regs [])) (holds 4 0x4C59038400000001) ∧
    gives (exec (.rdid 4 4) (regs [])) (raised .illop 0xC0800048) ∧ encode (.rdid 4 4) = some 0xC0800048 := by decide
theorem test_illegal : gives (exec (.illegalEncoding 0x048507FF) (regs [(4, 9)])) (fun t => raised .illop 0x048507FF t && t.reg 4 == 9) := by
  decide

/-! ### A core between its instructions -/

/-- A core that waits at an instruction. -/
def waitingAt (i : Instr) (k : WaitKind) (since : Nat) (l : List (Nat × Word)) : State :=
  (regs l).modCore 0 fun c => { c with run := .waiting i k since }
theorem test_waitt_ends : gives (exec (.waittTarget 0) { waitingAt (.waitt 4 5 0) .time 0 [(5, 90)] with timeNs := 95 }) (holds 4 5) := by
  decide
theorem test_idle_ends : gives (exec (.idleWake 0) ((waitingAt .idle .idle 0 []).modTile 0 fun t => { t with wake := true })) (holds 4 0) ∧
    gives (exec (.idleTimeout 0) { waitingAt .idle .idle 0 [] with tick := 65536 }) (holds 4 0) ∧
    gives (exec (.idleTimeout 0) { waitingAt .idle .idle 0 [] with tick := 65535 }) (fun _ => true) = false := by decide
theorem test_pgreq_ends : gives (exec (.pgreqAnswer 0 2) (waitingAt (.pgreq 4 5) .pgreq 0 [])) (holds 4 2) ∧
    (waitingAt (.pgreq 4 5) .pgreq 0 []).follower 0 = none := by decide
/-- A core that waits since tick 0 with a WTO. -/
def expiring (i : Instr) (k : WaitKind) (w : Word) : State :=
  { (waitingAt i k 0 [(5, 3)]).modCore 0 fun c => { c with wto := w } with tick := 9 }
theorem test_wait_timeout : gives (exec (.waitTimeout 0) (expiring (.barw 4 2) .bar 8)) (holds 4 0) ∧
    gives (exec (.waitTimeout 0) (expiring (.barw 4 2) .bar 0x8000000000000008)) (raised .waitto 2) ∧
    gives (exec (.waitTimeout 0) (expiring (.barw 4 2) .bar 9)) (fun _ => true) = false := by decide
theorem test_semp_timeout : gives (exec (.waitTimeout 0) ((expiring (.semp 4 5 1) .sem 8).modTile 0 fun t =>
      { t with waiters := [{ sem := 1, who := .core, count := 3 }] })) (fun t => holds 4 0 t && (t.tile 0).waiters.isEmpty) ∧
    gives (exec (.waitTimeout 0) ((expiring (.semp 4 5 1) .sem 0x8000000000000008).modTile 0 fun t =>
      { t with waiters := [{ sem := 1, who := .core, count := 3 }] })) (raised .waitto 1) := by decide
/-- A core with a request in flight. -/
def flying (i : Instr) (k : WaitKind) (op : ReqOp) (ea : Word) (reply : Option AccOut) (w : Word) : State :=
  (atomics 9).modCore 0 fun c =>
    { c with run := .waiting i k 0, wto := w, flight := some { req := { rd := 4, ea, op, obs := 0, pkr := 0, tag := none }, reply } }
theorem test_wait_reads_again : gives (exec (.waitForChange 0) (flying (.waitEq 4 5 6 0) .memChange (.wait 1 9) (own 8) none 0)) (holds 4 9) ∧
    gives (exec (.waitForChange 0) (flying (.waitEq 4 5 6 0) .memChange (.wait 1 8) (own 8) none 0)) (waits .memChange) ∧
    gives (exec (.waitForChange 0) { flying (.waitEq 4 5 6 0) .memChange (.wait 1 8) (own 8) none 0x8000000000000005 with tick := 5 })
      (raised .waitto (own 8)) := by decide
theorem test_owner_request : gives (exec (.ownerRequest 0) (flying (.ldd 4 5 0) .flight (.load 8 false) (own 8) none 0))
    (fun t => ((t.core 0).flight.bind fun f => f.reply) == some (.value 9)) := by decide
theorem test_memory_reply : gives (exec (.memoryReply 0) (flying (.ldb 4 5 0) .flight (.load 1 true) (own 8) (some (.value 0x80)) 0))
      (holds 4 0xFFFFFFFFFFFFFF80) ∧
    gives (exec (.memoryReply 0) (flying (.std 6 5 0) .flight (.store 8 5) (own 8) (some .done) 0)) (holds 4 7) ∧
    gives (exec (.memoryReply 0) (flying (.ldd 4 5 0) .flight (.load 8 false) (own 8) (some (.trap .prot)) 0)) (raised .prot (own 8)) := by
  decide
theorem test_acknowledgement : gives (exec (.replyAcknowledgement 1 (.tile 0 0 false) 7)
      ((regs []).setDone 1 [{ src := .tile 0 0 false, trailing := false, tag := 7, vt := none, reply := .done }])) (fun t => (t.doneTable 1).isEmpty) ∧
    (regs []).tagNeeded (.tile 0 0 false) 7 = false := by decide
/-- The page at 0 of die 0 is mapped and the core has an empty instruction cache. -/
def fetchFrom (pc : Word) : State := ((regs []).mapPage 0 0 0).modCore 0 fun c => { c with pc }
theorem test_fetch : gives (exec .instructionFetch (fetchFrom 0x100)) (fun t => ((t.core 0).icache.map fun l => l.1) == [4]) ∧
    gives (exec .instructionFetch (fetchFrom 0x102)) (raised .align 0x102) ∧
    gives (exec .instructionFetch (fetchFrom (own 0))) (raised .badaddr (own 0)) ∧
    gives (exec .instructionFetch (fetchFrom 0x0080000000000000)) (raised .badaddr 0x0080000000000000) ∧
    gives (exec .instructionFetch (fetchFrom 0x0020000000000000)) (raised .badaddr 0x0020000000000000) ∧
    gives (exec .instructionFetch { fetchFrom 0x100 with poison := [lineOf (gDie 0 0x110100)] }) (raised .poison 0x100) := by decide

/-! ### Control blocks -/

/-- A window of bytes without strides. -/
def win (base : Word) (fmt : Byte) : Window :=
  { base, str := Vector.replicate 6 0, fmt, wfl := 0, rgn := 0xFFFF, ext := Vector.replicate 4 0, pad := 0 }
/-- No window. -/
def noWin : Window := { win 0 0 with rgn := 0 }
/-- A CB of one iteration whose windows are W0 = 0x2000, W1 = 0x3000 and W2 = 0x4000 of tile memory, all INT32. -/
def block (op : Byte) : CB :=
  { op, flg := 0x10, wsem := 0xFF, ssem := 0xFF, wcnt := 0, scnt := 0, rwin := 0xFF, rlvl := 0, rrole := 0, genx := 0, pcnt := 0,
    opa := 0, tstart := 0, sobs := 0, opb := 0, bnd := (Vector.replicate 6 0).set 0 1, depth := 1, ii := 0, rsv3a := 0, opc := 0,
    w0 := win (own 0x2000) 0x14, w1 := win (own 0x3000) 0x14, w2 := win (own 0x4000) 0x14,
    w3 := { base := 0, kstr := 0, rowstr := 0 }, w4 := { base := 0, kstr := 0, rowstr := 0 }, plist := 0, parm := 0 }
/-- A chain that has fetched its last CB. -/
def chain0 : Chain :=
  { num := 0, head := own 0x100, next := own 0x200, last := true, patch := 0, mode := 0, pkr := 0, gen := 0, image := none, modes := 0, need := Clock.zero }
/-- Engine e of tile 0 is at a stage of a CB; W0, W1 and W2 hold the bytes of `a`, `b` and `c`. -/
def at_ (e : Eng) (x : CB) (st : Stage) (a b c : List Byte) : State :=
  ((((regs []).putBytes (gTile 0 0x2000) a).putBytes (gTile 0 0x3000) b).putBytes (gTile 0 0x4000) c).modEngine 0 e fun y =>
    { y with queue := [chain0], issued := 1, cur := some { addr := own 0x100, cb := x, shape := [], fault := none }, stage := st }
/-- The job of such an engine. -/
def jobAt (e : Eng) (x : CB) : Job :=
  { P := 0, e, cb := x, addr := own 0x100, idx := [0, 0, 0, 0, 0, 0], mode := Mode.of 0, pkr := 0, mute := false, gather := false }
/-- The CB of engine e of tile 0 has ended its loop nest with a result word. -/
def ended (e : Eng) (r : Word) (t : State) : Bool := (t.engine 0 e).result == r && decide ((t.engine 0 e).stage = .signal)
/-- Engine e of tile 0 has raised a cause with a value. -/
def engRaised (e : Eng) (c : Cause) (v : Word) (t : State) : Bool :=
  (t.tile 0).events.map (fun x => (x.src, x.cause, x.val)) == [(engSrc e, c, v)]

theorem lastStep_of {s : State} {P : TileId} {e : Eng} {op : Nat} {j : Job} (h : s.inBody P e op = some j)
    (a : j.mute = false ∧ j.gather = false ∧ s.isPair P = false ∧ (s.engine P e).tail = false)
    (b : (s.engine P e).partIn = [] ∧ (s.engine P e).redo = 0 ∧ (s.engine P e).ring = none ∧ (s.engine P e).slotOver = false ∧
      (s.engine P e).rowDone = 0)
    (d : (s.engine P e).rowIdx = none ∧ (s.engine P e).sending = false ∧ (s.engine P e).lines = [] ∧ s.unacked P e = false)
    (c : j.cb.rwin = 0xFF ∧ j.cb.kat = false ∧ j.cb.hz = false ∧ nextTuple j.cb.bounds j.idx = none) :
    s.lastStep P e op j :=
  ⟨⟨h, a.1, a.2.1, a.2.2.1, a.2.2.2, b.2.2.2.1, fun _ => by rw [b.1]; decide, .inl ⟨c.1, b.2.2.1⟩⟩, c.1, c.2.1, c.2.2.1, b.1, b.2.1,
   b.2.2.2.2, d.1, d.2.1, d.2.2.1, d.2.2.2, c.2.2.2⟩

theorem reaches_of {j : Job} {s : State} {w : Window} {x : Int} {n : Nat} {a : Word} (h : j.winAddr s w x n = .ok a)
    (t : tagOf a = 0xF0) : j.reaches s w x n (gTile j.P.toNat (offOf a)) := ⟨a, h, .inl ⟨t, rfl⟩⟩

/-- Four bytes of W0. -/
def four : List Byte := [1, 2, 3, 4]
theorem test_witness_ld_copy : (at_ .ld (block 0x10) .body four [] []).lastStep 0 .ld 0x10 (jobAt .ld (block 0x10)) ∧
    (jobAt .ld (block 0x10)).reaches (at_ .ld (block 0x10) .body four [] []) (block 0x10).w0 0 4 (gTile 0 0x2000) ∧
    (jobAt .ld (block 0x10)).reaches (at_ .ld (block 0x10) .body four [] []) (block 0x10).w1 0 4 (gTile 0 0x3000) ∧
    Memory.wf (at_ .ld (block 0x10) .body four [] []).mem = true ∧ (block 0x10).port = 0 :=
  ⟨lastStep_of (by decide) (by decide) (by decide) (by decide) (by decide), reaches_of (a := own 0x2000) (by rfl) (by decide),
   reaches_of (a := own 0x3000) (by rfl) (by decide), by decide, by decide⟩
theorem test_ld_copy : gives (exec (.ldCopy 0) (at_ .ld (block 0x10) .body four [] []))
    (fun t => t.bytes (gTile 0 0x3000) 4 == four && ended .ld 1 t) := by decide
theorem test_st_copy : (at_ .st (block 0x20) .body four [] []).inBody 0 .st 0x20 = some (jobAt .st (block 0x20)) ∧
    gives (exec (.stCopy 0) (at_ .st (block 0x20) .body four [] [])) (fun t => t.bytes (gTile 0 0x3000) 4 == four && ended .st 1 t) := by
  decide
/-- A conversion from INT32 to INT8. -/
def cvt (op : Byte) : CB := { block op with w1 := win (own 0x3000) 0x12 }
theorem test_ld_cvt : (convertBytes 0x14 0x12 (Mode.of 0) 0 (leBytes 4 300)).1.length = (cvt 0x11).cvtOut ∧
    gives (exec (.ldCvt 0) (at_ .ld (cvt 0x11) .body (leBytes 4 5) [] [])) (fun t => t.bytes (gTile 0 0x3000) 1 == [5] && ended .ld 1 t) := by
  decide
theorem test_st_cvt : gives (exec (.stCvt 0) (at_ .st (cvt 0x21) .body (leBytes 4 (2 ^ 32 - 1)) [] []))
    (fun t => t.bytes (gTile 0 0x3000) 1 == [0xFF] && ended .st 1 t) := by decide
/-- LD.ALIGN of 48 FP16 values. -/
def align : CB := { block 0x12 with w0 := win (own 0x2000) 0x03, w1 := win (own 0x3000) 0x0E, w2 := win (own 0x4000) 0x0A }
set_option exponentiation.threshold 900 in
set_option maxRecDepth 4000 in
theorem test_ld_align : (alignValues 0x03 (List.replicate 96 0)).length = 48 ∧
    (at_ .ld align .body (List.replicate 96 0) [] []).inBody 0 .ld 0x12 = some (jobAt .ld align) ∧
    gives (exec (.ldAlign 0) (at_ .ld align .body (List.replicate 96 0) [] [])) (fun t => t.bytes (gTile 0 0x3000) 96 == List.replicate 96 0 &&
      ended .ld 1 t) := by decide
/-- LD.GATHER of rows of one unit, from a table of two rows of 4 bytes, with OPA `opa`. -/
def gather (opa : BitVec 16) : CB :=
  { block 0x13 with opa, opb := 2, opc := 4, parm := 1, w0 := { win (own 0x2000) 0x14 with wfl := 2, pad := 0x7F } }
-- R298: an index at the end of the range, and one past it under OPA[3] 0 and 1.
theorem test_ld_gather : (gather 0).inRows 1 = true ∧ (gather 0).inRows 2 = false ∧ (gather 0).rowBytes 0x14 = 4 ∧
    gives (exec (.ldGather 0) (at_ .ld (gather 0) .body ([0, 0, 0, 0] ++ four) [] (leBytes 4 1)))
      (fun t => t.bytes (gTile 0 0x3000) 4 == four && ended .ld 0 t) ∧
    gives (exec (.ldGather 0) (at_ .ld (gather 0) .body [] [] (leBytes 4 2))) (engRaised .ld .badaddr 2) := by decide
theorem test_ld_gather_pads : (List.replicate ((gather 8).parm.extractLsb' 0 16).toNat (gather 8).w0.padUnit).flatten.length = 4 ∧
    gives (exec (.ldGather 0) (at_ .ld (gather 8) .body [] [] (leBytes 4 2)))
      (fun t => t.bytes (gTile 0 0x3000) 4 == [0x7F, 0, 0, 0] && ended .ld 1 t) := by decide
/-- LD.CONV of the first tap of R299's example, at axis 0 = `o`. -/
def conv (o : BitVec 32) : CB :=
  { block 0x14 with
      opb := o, opc := 4, w0 := { win (own 0x2000) 0x12 with wfl := 2, pad := 0x7F, ext := (Vector.replicate 4 0).set 0 4 },
      w1 := win (own 0x3000) 0x12, w2 := noWin, w3 := { base := 0, kstr := 1, rowstr := 0 } }
theorem test_ld_conv : (jobAt .ld (conv 0xFF)).convPads = true ∧ (jobAt .ld (conv 3)).convPads = false ∧
    gives (exec (.ldConv 0) (at_ .ld (conv 0xFF) .body [0x10, 0x11, 0x12, 0x13] [] []))
      (fun t => t.bytes (gTile 0 0x3000) 1 == [0x7F] && ended .ld 1 t) ∧
    gives (exec (.ldConv 0) (at_ .ld (conv 3) .body [0x10, 0x11, 0x12, 0x13] [] []))
      (fun t => t.bytes (gTile 0 0x3000) 1 == [0x13] && ended .ld 0 t) := by decide
theorem test_ld_fill : ({ block 0x15 with parm := 0x01020304 }).fillUnit.length = 4 ∧
    gives (exec (.ldFill 0) (at_ .ld { block 0x15 with parm := 0x04030201 } .body [] [] []))
      (fun t => t.bytes (gTile 0 0x3000) 4 == four && ended .ld 1 t) := by decide
/-- ST.SCAT of rows of one unit to a table at W2 of two rows of 4 bytes, with OPA `opa`. -/
def scat (opa : BitVec 16) : CB := { block 0x22 with opa, opb := 2, opc := 4, parm := 1 }
theorem test_st_scat : gives (exec (.stScat 0) (at_ .st (scat 0) .body four (leBytes 4 1) []))
      (fun t => t.bytes (gTile 0 0x4004) 4 == four && ended .st 0 t) ∧
    gives (exec (.stScat 0) (at_ .st (scat 0) .body four (leBytes 4 (2 ^ 32 - 1)) [])) (engRaised .st .badaddr 0xFFFFFFFFFFFFFFFF) ∧
    gives (exec (.stScat 0) (at_ .st (scat 8) .body four (leBytes 4 2) [])) (fun t => t.bytes (gTile 0 0x4000) 16 == List.replicate 16 0 &&
      ended .st 1 t) := by decide
set_option exponentiation.threshold 400 in
theorem test_st_red : gives (exec (.stRed 0) (at_ .st (block 0x23) .body (leBytes 4 7) (leBytes 4 (2 ^ 32 - 2)) []))
      (fun t => t.num (gTile 0 0x3000) 4 == 5 && ended .st 0 t) ∧
    scalarFmt 0x14 = some (.int 32 true) ∧ gTile 0 0x3000 % 64 + 4 ≤ 64 := by decide
/-- The last line of ST.MIGR of the frame at 0x10000 of die 0 to the one at 0x20000. -/
def migr : State :=
  let x : CB := { block 0x24 with w0 := { win 0x10000 0x13 with str := (Vector.replicate 6 0).set 0 64 },
                                  w1 := { win 0x20000 0x13 with str := (Vector.replicate 6 0).set 0 64 },
                                  bnd := (Vector.replicate 6 0).set 0 1024 }
  ((at_ .st x .body [] [] []).putBytes (gDie 0 0x1FFC0) four).modEngine 0 .st fun y => { y with idx := (Vector.replicate 6 0).set 0 1023 }
theorem test_st_migr : gives (exec (.stMigr 0) migr) (fun t => t.bytes (gDie 0 0x2FFC0) 4 == four && ended .st 1024 t) ∧
    gives (exec (.stMigr 0) { migr with poison := [lineOf (gDie 0 0x1FFC0)] }) (fun t => ended .st 0x80000000000003FF t &&
      (t.die 0).reports.map (fun r => r.1.val) == [0x80000005000003FF]) := by decide
/-- A fill whose destination is input port 4. -/
def toPort : CB := { block 0x15 with opa := 4, parm := 0x04030201, w1 := win 0 0x14 }
theorem test_fill_port : gives (exec (.ldFill 0) (at_ .ld toPort .body [] [] [])) (fun t => ((t.engine 0 .ld).partIn.map fun x => x.1) == four) ∧
    toPort.port = 4 ∧ (at_ .ld toPort .body [] [] []).inBody 0 .ld 0x15 = some (jobAt .ld toPort) := by decide
-- R44, R288, R289: result words, the mode and the seed of a chain.
theorem test_cb_nop : gives (exec (.cbNop 0 .st) (at_ .st { block 0x01 with opc := 77 } .body [] [] [])) (ended .st 77) := by decide
theorem test_cb_mode : gives (exec (.cbMode 0 .st) (at_ .st { block 0x02 with opa := 0x5A, opb := 7, opc := 9 } .body [] [] [])) (fun t =>
    ended .st 0 t && (t.engine 0 .st).queue.map (fun c => (c.mode, c.gen, c.modes)) == [(0x1A, 0x0000000900000007, 1)]) := by decide
theorem test_cb_mode_grid : gives (exec (.cbMode 0 .gr) (at_ .gr { block 0x02 with opa := 0x40, opb := 0, opc := 0 } .body [] [] []))
    (fun t => ((t.tile 0).grid.fes[0]).gen[0] == 0x9E3779B97F4A7C15) := by decide
theorem test_patch : gives (exec (.patch 0 .mx) (at_ .mx (block 0x03) .body [] [] [])) (ended .mx 0) := by decide
theorem test_crys : gives (exec (.crys 0 .st) (at_ .st { block 0x04 with opa := 0x1212 } .body [] [] [])) (fun t =>
    decide ((t.engine 0 .st).stage = .signal)) := by decide

/-! ### The matrix array and the grid -/

/-- Tile 0 holds the lease of its quad's array. -/
def leasing (s : State) : State := s.modQuad 0 fun q => { q with lease := .held 0 0 0 }
/-- A product of 48 rows of INT8 with the first `nc` columns of the home plane. -/
def product (op : Byte) (nc : Nat) : CB :=
  { block op with opb := 48, opc := BitVec.ofNat 32 (nc * 2 ^ 12), opa := 8, w0 := win (own 0x2000) 0x12, w2 := win 0 0x12 }
/-- A product in its last iteration: A is 1, 2, 0, …; column 0 of the plane is 5, -1, 0, …; the entries are `acc`. -/
def products (x : CB) (acc : List Byte) : State :=
  (leasing ((at_ .mx x .body [1, 2] acc []).putBytes (gPlane 0 0 0) [5])).modPlane 0 0 (fun p => { p with record := some (0, 0x12, 48) })
    |>.putBytes (gPlane 0 0 512) [0xFF]
set_option exponentiation.threshold 400 in
set_option maxRecDepth 4000 in
theorem test_mx_mma : (products (product 0x31 1) (leBytes 4 7)).unitReady 0 .mx = true ∧
    (jobAt .mx (product 0x31 1)).planeFault (products (product 0x31 1) []) = none ∧
    gives (exec (.mxMma 0) (products (product 0x31 1) (leBytes 4 7)))
      (fun t => t.num (gTile 0 0x3000) 4 == 10 && ended .mx 1 t && !(t.tile 0).sat) ∧
    gives (exec (.mxMma 0) (products (product 0x31 1) (leBytes 4 (2 ^ 31 - 2))))
      (fun t => t.num (gTile 0 0x3000) 4 == 2 ^ 31 - 1 && ended .mx 0x8000000000000001 t && (t.tile 0).sat) := by decide
set_option exponentiation.threshold 400 in
set_option maxRecDepth 4000 in
theorem test_mx_mmb : gives (exec (.mxMmb 0) (products (product 0x32 2) (leBytes 4 7 ++ leBytes 4 9)))
    (fun t => t.num (gTile 0 0x3000) 4 == 10 && t.num (gTile 0 0x3004) 4 == 9 && ended .mx 1 t) := by decide
theorem test_witness_product :
    (products (product 0x31 1) []).lastStep 0 .mx 0x31 (jobAt .mx (product 0x31 1)) ∧
    (products (product 0x32 1) []).lastStep 0 .mx 0x32 (jobAt .mx (product 0x32 1)) ∧
    mxFmt 0x12 = some ⟨.tensor, 8, 0, 0, 1, 8⟩ ∧ (product 0x31 1).fuse = false ∧ (product 0x31 1).planesOf (posOf 0) = [0] ∧
    (products (product 0x31 1) []).planeBusy 0 (product 0x31 1) = false ∧
    ((products (product 0x31 1) []).plane 0 0).upset = [] :=
  ⟨lastStep_of (by decide) (by decide) (by decide) (by decide) (by decide), lastStep_of (by decide) (by decide) (by decide) (by decide) (by decide),
   by decide, by decide, by decide, by decide, by decide⟩
theorem test_witness_product_reaches (s : State) :
    (jobAt .mx (product 0x31 1)).reaches s (product 0x31 1).w0 0 48 (gTile 0 0x2000) ∧
    (jobAt .mx (product 0x31 1)).reaches s (product 0x31 1).w1 0 4 (gTile 0 0x3000) :=
  ⟨reaches_of (a := own 0x2000) (by rfl) (by decide), reaches_of (a := own 0x3000) (by rfl) (by decide)⟩
/-- The second unit of an MX.WLOAD of one INT4 column of 4 rows at column 1. -/
def wload : State :=
  (leasing (at_ .mx { block 0x30 with opb := 4, opc := 1, w0 := win (own 0x2000) 0x11 } .body [0x7F] [] [])).modEngine 0 .mx
    fun x => { x with started := true, count := 2 }
theorem test_mx_wload : gives (exec (.mxWload 0) wload) (fun t => ended .mx 4 t &&
    memGet t.mem (gPlane 0 0 1024) == 0xF0 && memGet t.mem (gPlane 0 0 1536) == 0x70 &&
    decide ((t.plane 0 0).record = some (own 0x100, 0x11, 4))) := by decide
theorem test_mx_aclr : gives (exec (.mxAclr 0) ((leasing (at_ .mx { block 0x34 with parm := 0x04030201, opa := 1 } .body [] [] [])).modTile 0
      fun t => { t with sat := true }))
    (fun t => t.bytes (gTile 0 0x3000) 4 == four && ended .mx 1 t && !(t.tile 0).sat) := by decide
theorem test_mx_adrn : gives (exec (.mxAdrn 0) (leasing (at_ .mx { block 0x35 with opa := 1 } .body four [] [])))
    (fun t => t.bytes (gTile 0 0x3000) 4 == four && t.num (gTile 0 0x2000) 4 == 0 && ended .mx 1 t) := by decide

/-- A device whose tile 0 has the grid `g` and whose grid engine is at a CB. -/
def gridAt (x : CB) (g : Grid) : State := (at_ .gr x .body [] [] []).modTile 0 fun t => { t with grid := g }
/-- An image without elements. -/
def bare : Image := { femask := 0, bundles := [], redmask := 0, edge := 0, porten := 0, shuftab := Vector.replicate 32 0 }
/-- A run of one iteration that has started. -/
def run0 : GridRun :=
  { cb := { block 0x41 with ii := 1, w2 := noWin }, slot := 0, orphan := false, cycle := 2, base := 0, begun := 1, drain := false, fault := none,
    mode := 0, landings := [], links := Vector.replicate 16 (Vector.replicate 4 0), sends := [], inp := Vector.replicate 4 [],
    outp := Vector.replicate 2 [], inHeld := Vector.replicate 4 [],
    outHeld := Vector.replicate 2 0, result := 0, hash := 0 }
theorem test_gr_swap : gives (exec (.grSwap 0) (gridAt { block 0x42 with opa := 6 } { Grid.reset with
      fes := Vector.replicate 16 { Fe.reset with q := Vector.replicate 4 1, gen := Vector.replicate 8 3 } }))
    (fun t => (t.tile 0).grid.active == 1 && ((t.tile 0).grid.fes[15]).q[0] == 0 && ((t.tile 0).grid.fes[15]).gen[7] == 3 &&
      ended .gr 1 t) := by decide
theorem test_gr_run_starts : bare.runOk run0.cb = true ∧
    gives (exec (.grRun 0) (gridAt run0.cb { Grid.reset with slot0 := some bare }))
      (fun t => decide ((t.tile 0).grid.run = some { run0 with cycle := 0, begun := 0 })) ∧
    gives (exec (.grRun 0) (gridAt run0.cb Grid.reset)) (engRaised .gr .cbformat (own 0x100)) := by decide
theorem test_gr_run_ends : run0.ovr bare = true ∧
    gives (exec (.grRun 0) (gridAt run0.cb { Grid.reset with slot0 := some bare, run := some run0 }))
      (fun t => (t.tile 0).grid.run.isNone && ended .gr 0 t) := by decide
theorem test_gr_run_cycles : { run0 with cycle := 2, begun := 0 }.ovr bare = false ∧ { run0 with cycle := 2, begun := 0 }.starts = true ∧
    (gridAt run0.cb { Grid.reset with slot0 := some bare }).reservable 0 { run0 with cycle := 2, begun := 0 } bare = true ∧
    gives (exec (.grRun 0) (gridAt run0.cb { Grid.reset with slot0 := some bare, run := some { run0 with cycle := 2, begun := 0 } }))
      (fun t => decide ((t.tile 0).grid.run = some { run0 with cycle := 3 })) := by decide
-- R324: an image of zeros fails at its first byte.

theorem test_gr_cfg : gives (exec (.grCfg 0) (gridAt { block 0x40 with w0 := win (own 0x40000) 0x12 } Grid.reset))
    (engRaised .gr .cbformat (own 0x40000)) := by decide +kernel

/-! ### Fabric elements -/

/-- A register whose lanes all hold `x`. -/
def rep (x : Nat) : BitVec 256 := ofLanes (List.replicate 8 x)
/-- Tile 0's element 0 is `f`, in a run of one iteration that has started. -/
def elem (f : Fe) : State :=
  gridAt run0.cb { Grid.reset with slot0 := some bare, run := some run0, fes := Grid.reset.fes.set 0 f }
/-- Element 0 with v1, v2 and v3 given in every lane, and q1 = 0x0F. -/
def abc (a b c : Nat) : State :=
  elem { Fe.reset with v := ((Fe.reset.v.set 1 (rep a)).set 2 (rep b)).set 3 (rep c), q := Fe.reset.q.set 1 0x0F }
/-- Element 0 for iteration 0. -/
def fe0 : FeAt := { tile := 0, fe := 0, iter := 0 }
/-- v4 from v1 and v2 in all lanes, or also from v3. -/
def sl2 (typ : BitVec 3) (imm : BitVec 12) : SlotArgs := { dst := 4, a := 1, b := 2, c := 0, pred := 0, typ, imm }
/-- Also v3. -/
def sl3 (typ : BitVec 3) (imm : BitVec 12) : SlotArgs := { sl2 typ imm with c := 3 }
/-- v4 from v1. -/
def sl1 (typ : BitVec 3) (imm : BitVec 12) : SlotArgs := { sl2 typ imm with b := 0 }
/-- v4 from nothing. -/
def sl0 (typ : BitVec 3) (imm : BitVec 12) : SlotArgs := { sl1 typ imm with a := 0 }
/-- The slot's one result, `x` in every lane, lands after `lat` cycles. -/
def lands (lat x : Nat) (r : Res) : Bool :=
  gives r fun t => match (t.tile 0).grid.run with
    | some r => r.landings.map (fun l => (l.value, l.cycle, l.dest, l.lanes)) == [(rep x, 1 + lat, Dest.vec 4, 0xFF)]
    | none => false
/-- The slot's one result, the predicate q2 = `x`, lands after one cycle. -/
def landsPred (x : Byte) (r : Res) : Bool :=
  gives r fun t => match (t.tile 0).grid.run with
    | some r => r.landings.map (fun l => (l.value, l.cycle, l.dest)) == [(x.zeroExtend 256, 2, Dest.pred 2)]
    | none => false

theorem test_witness_slot : ∃ c, (abc 1 2 3).slotIssues fe0 (sl2 0 0) 0 1 c ∧ c.run = run0 ∧ c.reg 2 = rep 2 := ⟨_, ⟨by decide, rfl⟩, rfl, by decide⟩
theorem test_fadd : lands 4 0x40400000 (exec (.fadd fe0 (sl2 0 0)) (abc 0x3F800000 0x40000000 0)) := by decide
theorem test_fadd_fp16 : lands 4 0x42004200 (exec (.fadd fe0 (sl2 1 0)) (abc 0x3C003C00 0x40004000 0)) := by decide
theorem test_fsub_zero : lands 4 0 (exec (.fsub fe0 (sl2 0 0)) (abc 0x3F800000 0x3F800000 0)) := by decide
theorem test_fmul : lands 4 0xC0C00000 (exec (.fmul fe0 (sl2 0 0)) (abc 0xC0000000 0x40400000 0)) := by decide
theorem test_fma : lands 4 0x40E00000 (exec (.fma fe0 (sl3 0 0)) (abc 0x40000000 0x40400000 0x3F800000)) := by decide
theorem test_fms : lands 4 0x40A00000 (exec (.fms fe0 (sl3 0 0)) (abc 0x40000000 0x40400000 0x3F800000)) := by decide
theorem test_fnma : lands 4 0xC0A00000 (exec (.fnma fe0 (sl3 0 0)) (abc 0x40000000 0x40400000 0x3F800000)) := by decide
theorem test_fmax : lands 2 0x3F800000 (exec (.fmax fe0 (sl2 0 0)) (abc 0x3F800000 0xC0000000 0)) := by decide
theorem test_fmin : lands 2 0xC0000000 (exec (.fmin fe0 (sl2 0 0)) (abc 0x3F800000 0xC0000000 0)) := by decide
theorem test_fmaxa : lands 2 0x40000000 (exec (.fmaxa fe0 (sl2 0 0)) (abc 0x3F800000 0xC0000000 0)) := by decide
theorem test_frcp : lands 8 0x3E800000 (exec (.frcp fe0 (sl1 0 0)) (abc 0x40800000 0 0)) := by decide
set_option exponentiation.threshold 400 in
set_option maxRecDepth 20000 in
theorem test_frsq : lands 8 0x3F000000 (exec (.frsq fe0 (sl1 0 0)) (abc 0x40800000 0 0)) := by decide
theorem test_fex2 : lands 8 0x41000000 (exec (.fex2 fe0 (sl1 0 0)) (abc 0x40400000 0 0)) := by decide
theorem test_flg2 : lands 8 0x40400000 (exec (.flg2 fe0 (sl1 0 0)) (abc 0x41000000 0 0)) := by decide
theorem test_fdot2 : lands 4 0x41000000 (exec (.fdot2 fe0 (sl3 1 0)) (abc 0x3C004000 0x40004000 0x40000000)) := by decide
theorem test_iadd_wraps : lands 1 0x80000000 (exec (.iadd fe0 (sl2 3 0)) (abc 0x7FFFFFFF 1 0)) ∧
    lands 1 0x7FFFFFFF (exec (.iadd fe0 (sl2 3 1)) (abc 0x7FFFFFFF 1 0)) := by decide
theorem test_isub_unsigned : lands 1 0 (exec (.isub fe0 (sl2 3 0x801)) (abc 1 2 0)) := by decide
theorem test_imul : lands 3 0x00080006 (exec (.imul fe0 (sl2 4 0)) (abc 0x00020002 0x00040003 0)) := by decide
theorem test_imad : lands 3 0xFFFFFFFF (exec (.imad fe0 (sl3 3 0)) (abc 2 3 0xFFFFFFF9)) := by decide
theorem test_imulh : lands 3 0xFFFFFFFF (exec (.imulh fe0 (sl2 3 0)) (abc 0xFFFFFFFF 1 0)) := by decide
theorem test_imin_imax : lands 1 0x80FF7F00 (exec (.imin fe0 (sl2 5 0)) (abc 0x80FF7F01 0x7F007F00 0)) ∧
    lands 1 0xFF (exec (.imax fe0 (sl2 7 0)) (abc 0xFF 0x7F 0)) := by decide
theorem test_iabs : lands 1 0x7F (exec (.iabs fe0 (sl1 5 1)) (abc 0x80 0 0)) := by decide
theorem test_dot4 : lands 3 0xFFFFFFFA (exec (.dot4 fe0 (sl3 5 0)) (abc 0x01FF01FF 0x01020304 0xFFFFFFFC)) := by decide
theorem test_logic : lands 1 0x0C (exec (.feAnd fe0 (sl2 0 0)) (abc 0x0E 0x1C 0)) ∧ lands 1 0x1E (exec (.feOr fe0 (sl2 0 0)) (abc 0x0E 0x1C 0)) ∧
    lands 1 0x12 (exec (.feXor fe0 (sl2 0 0)) (abc 0x0E 0x1C 0)) := by decide
theorem test_shifts : lands 1 0x00100000 (exec (.shl fe0 (sl2 4 0)) (abc 0x80010001 0x00040010 0)) ∧
    lands 1 0x08000000 (exec (.shr fe0 (sl1 3 0x24)) (abc 0x80000000 0 0)) ∧
    lands 1 0xFFFFFFFF (exec (.sar fe0 (sl2 3 0)) (abc 0x80000000 99 0)) := by decide
theorem test_sel : gives (exec (.feSel fe0 { sl2 0 0 with c := 1 }) (abc 7 9 0)) (fun t => match (t.tile 0).grid.run with
    | some r => r.landings.map (fun l => l.value) == [ofLanes [7, 7, 7, 7, 9, 9, 9, 9]]
    | none => false) := by decide
theorem test_mov : lands 1 7 (exec (.mov fe0 (sl1 0 0)) (abc 7 0 0)) := by decide
theorem test_movi : lands 1 0xFFFFFFFF (exec (.movi fe0 (sl0 3 0x7FF)) (abc 0 0 0)) := by decide
theorem test_lane : gives (exec (.lane fe0 (sl0 3 0x7FF)) (abc 0 0 0)) (fun t => match (t.tile 0).grid.run with
    | some r => r.landings.map (fun l => l.value) == [ofLanes [0xFFFFFFFF, 0, 1, 2, 3, 4, 5, 6]]
    | none => false) := by decide
theorem test_fe_cvt : lands 2 0x42280000 (exec (.cvt fe0 (sl1 0 3)) (abc 42 0 0)) := by decide
theorem test_cvtsr_draws : gives (exec (.cvtsr fe0 (sl1 0 3)) (elem { Fe.reset with v := Fe.reset.v.set 1 (rep 42), gen := Vector.replicate 8 1 }))
    (fun t => (((t.tile 0).grid.fes[0]).gen[7] != 1) && (((t.tile 0).grid.fes[0]).gen[7] == genStep 1)) := by decide
theorem test_expo : lands 2 3 (exec (.expo fe0 (sl1 0 0)) (abc 0x41000000 0 0)) ∧ lands 2 0x80000000 (exec (.expo fe0 (sl1 0 0)) (abc 0 0 0)) ∧
    lands 2 0x7FFFFFFF (exec (.expo fe0 (sl1 0 0)) (abc 0x7F800000 0 0)) := by decide
theorem test_scalb : lands 2 0x3E800000 (exec (.scalb fe0 (sl2 0 0)) (abc 0x3F800000 0xFFFFFFFE 0)) := by decide
-- The worked example of R347.
theorem test_qnt : lands 3 0x00007F00 (exec (.qnt fe0 (sl2 0 0x08)) (abc 0x40FFC000 4 0)) := by decide
theorem test_rng : gives (exec (.rng fe0 (sl0 3 0x800)) (elem { Fe.reset with gen := Vector.replicate 8 1 })) (fun t =>
    ((t.tile 0).grid.fes[0]).gen[3] == genStep 1) := by decide
theorem test_fcmp : landsPred 0xFF (exec (.fcmp fe0 { sl2 0 2 with dst := 2 }) (abc 0xBF800000 0x3F800000 0)) ∧
    landsPred 0 (exec (.fcmp fe0 { sl2 0 5 with dst := 2 }) (abc 0x7FC00000 0x3F800000 0)) := by decide
theorem test_icmp_all : landsPred 0 (exec (.icmp fe0 { sl2 4 0x12 with dst := 2 }) (abc 0x00010005 0x00020004 0)) ∧
    landsPred 0xFF (exec (.icmp fe0 { sl2 4 0x1A with dst := 2 }) (abc 0x00010005 0x00020004 0)) := by decide
theorem test_plog : landsPred 0x0F (exec (.plog fe0 { sl2 0 8 with dst := 2, a := 1, b := 1 }) (abc 0 0 0)) := by decide
theorem test_lvl : landsPred 0xFF (exec (.lvl fe0 { sl0 0 8 with dst := 2 }) (abc 0 0 0)) := by decide
theorem test_class : landsPred 0 (exec (.feClass fe0 { sl1 0 0 with dst := 2 }) (abc 0x3F800000 0 0)) ∧
    landsPred 0xFF (exec (.feClass fe0 { sl1 0 0x3FF with dst := 2 }) (abc 0x3F800000 0 0)) := by decide

/-! ### Links, ports and exchanges -/

/-- The run of tile 0. -/
def runIs (p : GridRun → Bool) (t : State) : Bool := match (t.tile 0).grid.run with | some r => p r | none => false
theorem test_send_east : gives (exec (.send fe0 { sl1 0 2 with dst := 0 }) (abc 7 0 0)) (runIs fun r =>
    decide (r.sends = [(4 * 1 + 3, rep 7, 0xFF)])) := by decide
theorem test_recv : lands 1 0 (exec (.recv fe0 (sl0 0 1)) (abc 7 0 0)) := by decide
/-- An entry stands at port 0 and is reserved. -/
def inputs : State := (abc 0 0 0).modTile 0 fun t => { t with grid := { t.grid with
  run := some { run0 with inp := run0.inp.set 0 [{ data := rep 5, mask := 0x81 }], inHeld := run0.inHeld.set 0 [0] } } }
theorem test_in_mask : gives (exec (.feIn fe0 (sl0 0 6)) inputs) (fun t => runIs (fun r => r.inp[0] == [] &&
    r.landings.map (fun l => (l.dest, l.value)) == [(.vec 4, rep 5), (.pred 2, 0x81)] && r.inHeld[0] == []) t) := by decide
theorem test_out : gives (exec (.feOut { fe0 with fe := 3 } { sl1 0 0 with dst := 0 }) ((abc 0 0 0).modFe 0 3 fun x =>
      { x with v := x.v.set 1 (rep 9) }))
    (runIs fun r => r.outp[0] == [{ data := rep 9, mask := 0 }]) := by decide
theorem test_accin : lands 4 0x01010101 (exec (.accin fe0 (sl0 0 1)) (((abc 0 0 0).putBytes (gAcc 0 32) (List.replicate 32 1)).modRun 0 fun r =>
    { r with cb := { r.cb with w2 := win 0xF200000000000000 0x14 } })) := by decide
theorem test_shuf : lands 1 7 (exec (.shuf fe0 (sl2 0 0x20)) (abc 7 3 0)) := by decide
theorem test_bcst : lands 1 7 (exec (.bcst fe0 (sl1 0 5)) (abc 7 0 0)) := by decide
theorem test_scan : gives (exec (.scan fe0 (sl1 3 0)) (abc 2 0 0)) (runIs fun r =>
    r.landings.map (fun l => l.value) == [ofLanes [2, 4, 6, 8, 10, 12, 14, 16]]) := by decide
theorem test_get : lands 1 1 (exec (.get fe0 (sl0 0 10)) (abc 0 0 0)) := by decide
theorem test_put : gives (exec (.put fe0 { sl1 0 0x18 with dst := 0 }) ((abc 7 0 0).modRun 0 fun r => { r with result := 0x00000003FFFFFFFF }))
    (runIs fun r => r.result == 0x0000000AFFFFFFFF) := by decide
/-- An image in which element 0 alone reduces. -/
def reduces : Image := { bare with redmask := 1 }
theorem test_red : lands 6 16 (exec (.red fe0 (sl1 3 8)) ((abc 2 0 0).modTile 0 fun t => { t with grid := { t.grid with slot0 := some reduces } })) := by
  decide

/-! ### Engines: fetches, patches, starts and signals -/

/-- CB.NOP with result 5, the last CB of its chain. -/
def nopCb : CB := { gcfgCb 0 0 with op := 1, opa := 0, opc := 5, w0 := Window.zero }
/-- A chain whose next CB stands at `o` in the own tile memory. -/
def chainAt (o : Nat) : Chain := { chain0 with head := own o, next := own o, last := false }
/-- Engine ld has a chain whose next CB is `x` and no current CB. -/
def fetchable (x : CB) : State :=
  (withBytes [] 0x100 x.bytes).modEngine 0 .ld fun y => { y with queue := [chainAt 0x100], issued := 1 }
set_option maxRecDepth 4000 in
theorem test_cb_fetch : (fetchable nopCb).engGo 0 .ld = true ∧ nopCb.formOk .ld false false = true ∧
    cbOf nopCb.bytes = nopCb ∧
    gives (exec (.cbFetch 0 .ld) (fetchable nopCb)) (fun t => decide ((t.engine 0 .ld).stage = .body) &&
      decide ((t.engine 0 .ld).cur = some { addr := own 0x100, cb := nopCb, shape := [], fault := none }) &&
      (t.engine 0 .ld).queue.map (fun c => (c.next, c.last)) == [(own 0x200, true)]) := by decide
set_option maxRecDepth 4000 in
theorem test_cb_fetch_ahead : gives (exec (.cbFetch 0 .ld) ((fetchable nopCb).modEngine 0 .ld fun y =>
      { y with cur := some { addr := own 0, cb := nopCb, shape := [], fault := none }, stage := .body }))
    (fun t => (t.engine 0 .ld).ahead.map (fun f => f.addr) == [own 0x100]) := by decide
set_option maxRecDepth 4000 in
theorem test_cb_fetch_checks : gives (exec (.cbFetch 0 .ld) (fetchable { nopCb with depth := 7 })) (engRaised .ld .cbformat (own 0x100)) ∧
    gives (exec (.cbFetch 0 .ld) { fetchable nopCb with poison := [lineOf (gTile 0 0x140)] }) (engRaised .ld .poison (own 0x140)) := by decide

/-- A patch list of one descriptor: TOFF 1, FOFF 28, 4 bytes, an immediate source, MUL 3, ADD −1 and a MAX. -/
def patchBytes (clamp : Byte) (src max : Nat) : List Byte :=
  (List.replicate 8 0 ++ [1, 1] ++ List.replicate 22 0) ++
  (leBytes 2 1 ++ [28, 2, 0, clamp] ++ leBytes 2 3 ++ leBytes 8 src ++ leBytes 8 (2 ^ 64 - 1) ++ leBytes 4 max ++ leBytes 4 0)
/-- Engine st at the patch list of its CB, which stands at 0x100. -/
def patching (clamp : Byte) (src max : Nat) : State :=
  (at_ .st { block 0x01 with plist := own 0x5000 } .patch [] [] []).putBytes (gTile 0 0x5000) (patchBytes clamp src max)
theorem test_patch_list : patchHeader ((patchBytes 0 7 10).take 32) .st = some (0, .st, 1) ∧
    gives (exec (.patchList 0 .st) (patching 0 7 10)) (fun t => t.num (gTile 0 0x21C) 4 == 20 && decide ((t.engine 0 .st).stage = .signal) &&
      (t.engine 0 .st).queue.map (fun c => c.patch) == [1]) ∧
    gives (exec (.patchList 0 .st) (patching 1 77 10)) (fun t => t.num (gTile 0 0x21C) 4 == 29) ∧
    gives (exec (.patchList 0 .st) (patching 0 11 10)) (engRaised .st .patchoor (own 0x5020)) := by decide
theorem test_patch_list_empty : gives (exec (.patchList 0 .ld) (at_ .ld { block 0x01 with plist := own 0x5000 } .patch [] [] []))
    (fun t => (t.engine 0 .ld).queue.map (fun c => c.patch) == [1]) ∧
    patchHeader (List.replicate 32 0) .st = none ∧ patchHeader (List.replicate 32 0) .ld = some (0, .ld, 0) := by decide

/-- Engine st waits for the start tick 100 of a CB with FLG bits `flg`, WSEM 3 and WCNT 2, at tick `now`; semaphore 3 is 2. -/
def starting (flg : Byte) (now : Nat) (onTime : Bool) (v : BitVec 32) : State :=
  let s := (at_ .st { block 0x01 with flg, wsem := 3, wcnt := 2, tstart := 100 } .timed [] [] []).modEngine 0 .st fun x => { x with onTime }
  { s.modTile 0 fun t => { t with sems := t.sems.set 3 v } with timeNs := BitVec.ofNat 64 now }
theorem test_timed_start : gives (exec (.timedStart 0 .st) (starting 2 100 true 2)) (fun t => decide ((t.engine 0 .st).stage = .body) &&
      t.sem 0 3 == 0 && (t.engine 0 .st).lateCount == 0) ∧
    gives (exec (.timedStart 0 .st) (starting 2 99 true 2)) (fun _ => true) = false := by decide
theorem test_timed_start_late : (starting 2 107 false 2).headerReady 0 { block 0x01 with wsem := 3, wcnt := 2 } = true ∧
    gives (exec (.timedStart 0 .st) (starting 2 107 false 2)) (fun t => (t.engine 0 .st).lateCount == 1 && (t.engine 0 .st).lateSum == 7) := by
  decide
theorem test_timed_start_waits : gives (exec (.timedStart 0 .st) (starting 2 100 true 1)) (fun t =>
    decide ((t.engine 0 .st).stage = .header) && (t.tile 0).waiters == [{ sem := 3, who := .header .st, count := 2 }]) := by decide
theorem test_timed_start_slips : gives (exec (.timedStart 0 .st) (starting 0xA 101 false 2)) (fun t => engRaised .st .slip (own 0x100) t &&
    (t.taskOf 0).map (fun k => k.slips) == some 1) := by decide
/-- Engine st has a CB that is due to signal semaphore 4 by 3, whose value is `v`; FLG is `flg`. -/
def signalling (flg : Byte) (v : BitVec 32) : State :=
  (at_ .st { block 0x01 with flg, ssem := 4, scnt := 3 } .signal [] [] []).modTile 0 fun t => { t with sems := t.sems.set 4 v }
theorem test_header_signal : (signalling 0x10 2).unacked 0 .st = false ∧ (block 0x01).reports = false ∧
    gives (exec (.headerSignal 0 .st) (signalling 0x10 2)) (fun t => t.sem 0 4 == 5 && (t.engine 0 .st).cur.isNone &&
      (t.engine 0 .st).queue.isEmpty) ∧
    gives (exec (.headerSignal 0 .st) (signalling 0 0xFFFFFFFE)) (fun t => t.sem 0 4 == 0xFFFFFFFF && (t.core 0).semov == 16 &&
      (t.engine 0 .st).queue.length == 1) := by decide
theorem test_sem_signal : gives (exec (.semSignal 0 4 3 false) (sems [(4, 2)] [])) (fun t => t.sem 0 4 == 5) ∧
    gives (exec (.semSignal 0 4 1 false) (sems [(4, 0xFFFFFFFF)] [])) (fun t => t.sem 0 4 == 0xFFFFFFFF && (t.core 0).semov == 16) ∧
    gives (exec (.semSignal 0 4 3 true) (sems [(4, 2)] [])) (fun t => t.sem 0 4 == 5) := by decide
/-- The core waits at SEMP on semaphore 1 for 3; its value is `v`. -/
def queued (v : BitVec 32) : State := ((sems [(1, v)] []).modTile 0 fun t => { t with waiters := [{ sem := 1, who := .core, count := 3 }] }).modCore 0
  fun c => { c with run := .waiting (.semp 4 5 1) .sem 0 }
theorem test_sem_grant_core : ((queued 3).tile 0).semHead 1 = some { sem := 1, who := .core, count := 3 } ∧
    gives (exec (.semWaitGrant 0 1) (queued 3)) (fun t => holds 4 1 t && t.sem 0 1 == 0 && (t.tile 0).waiters.isEmpty) := by decide
/-- Engine st waits for its header. -/
def headed : State := ((at_ .st { block 0x01 with wsem := 3, wcnt := 2 } .header [] [] []).modTile 0 fun t =>
  { t with waiters := [{ sem := 3, who := .header .st, count := 2 }], sems := t.sems.set 3 2 })
theorem test_sem_grant_header : gives (exec (.semWaitGrant 0 3) headed) (fun t => decide ((t.engine 0 .st).stage = .body) &&
    (t.engine 0 .st).acquired && t.sem 0 3 == 0 && (t.tile 0).waiters.isEmpty) := by decide
/-- Engine ld waits for a slot of the ring that its W1 fills, in region 31 of its tile. -/
def ringed : State :=
  let x : CB := { block 0x10 with rwin := 1, rlvl := 1, w1 := { win (own 0) 0x14 with wfl := 1, rgn := 31 } }
  ((((at_ .ld x .body [] [] []).setRegion 0 31 { heldRegion with holds := [] }).modTile 0 fun t =>
    { t with waiters := [{ sem := 2, who := .ring 0 .ld, count := 1 }], sems := t.sems.set 2 1 }).modEngine 0 .ld fun y => { y with block := .ring })
theorem test_sem_grant_ring : ringed.slotFree 0 .ld = true ∧ (ringed.ringJob 0 .ld).isSome = true ∧
    gives (exec (.semWaitGrant 0 2) ringed) (fun t => t.sem 0 2 == 0 &&
      decide ((t.engine 0 .ld).ring = some { tile := 0, rid := 31, slot := 6, fill := 6, checked := false }) &&
      (t.region 0 31).map (fun g => (g.f, g.c)) == some (7, 5)) := by decide

/-- A write of engine ld of tile 0 on its way to tile 1. -/
def onWay (arrived : Bool) : State :=
  { (regs []).modTile 0 fun t => { t with pending := 4 } with
    transit := [{ tile := 0, eng := .ld, loc := own 0x100, line := 0xF100010000000000, target := 1,
                  pieces := [{ off := 8, data := four, lost := false, idx := Vector.replicate 6 0, gen := 0, rgn := 0xFFFF, home := 1 }],
                  tag := none, arrived, units := [] }] }
theorem test_remote_write : gives (exec (.remoteWriteArrival 0) (onWay false)) (fun t => t.bytes (gTile 1 8) 4 == four &&
      (t.tile 1).wake && t.transit.map (fun x => x.arrived) == [true]) ∧
    gives (exec (.remoteWriteAck 0) (onWay true)) (fun t => (t.tile 0).pending == 0 && t.transit.isEmpty) := by decide
theorem test_barrier_release : gives (exec (.barrierRelease (.cluster 0 0 3)) ((arrivals (.cluster 0 0 3) 0 2 2 true).modCore 0 fun c =>
      { c with run := .waiting (.barw 4 2) .bar 0 }))
    (fun t => holds 4 1 t && (t.task? 0).map (fun k => ((k.barUnit (.cluster 0 0 3)).epoch, (k.barUnit (.cluster 0 0 3)).arrivals)) == some (5, 0)) := by
  decide

/-- The mx engine of tile 0 has a ready CB; the lease of its quad is `l`, and the tiles in `w` want it. -/
def leases (l : Lease) (w : BitVec 4) : State :=
  { (at_ .mx (block 0x30) .body [] [] []).modQuad 0 fun q => { q with lease := l, wants := w } with tick := 5000 }
theorem test_lease_request : (leases .idle 0).leaseReady 0 = true ∧ (leases .idle 0).hasLease 0 = false ∧
    gives (exec (.leaseRequest 0) (leases .idle 0)) (fun t => decide ((t.quad 0).lease = .held 0 5001 0)) ∧
    gives (exec (.leaseRequest 0) (leases (.held 2 0 0) 0)) (fun t => (t.quad 0).wants == 1) := by decide
theorem test_lease_end : gives (exec (.leaseEnd 0) (leases (.held 0 0 16) 0b1010)) (fun t =>
      decide ((t.quad 0).lease = .switch 1 5000) && (t.quad 0).wantsBy 0) ∧
    gives (exec (.leaseEnd 0) (leases (.held 0 0 16) 0)) (fun t => decide ((t.quad 0).lease = .held 0 5000 0)) ∧
    gives (exec (.leaseEnd 0) (leases (.held 1 0 0) 0)) (fun t => decide ((t.quad 0).lease = .idle)) ∧
    gives (exec (.leaseEnd 0) (leases (.held 0 0 15) 0)) (fun _ => true) = false := by decide
-- R90, R322: at the tick limit a started MX.WLOAD keeps its place.
theorem test_lease_timeout : gives (exec (.leaseTimeout 0) { (leases (.held 0 0 0) 8).modEngine 0 .mx fun x => { x with started := true, count := 7 }
      with tick := 65536 }) (fun t => decide ((t.quad 0).lease = .switch 3 65536) && (t.engine 0 .mx).started && (t.engine 0 .mx).count == 7) ∧
    gives (exec (.leaseTimeout 0) (leases (.held 0 0 0) 8)) (fun _ => true) = false := by decide
theorem test_lease_handover : gives (exec (.leaseHandover 0) (leases (.switch 3 4992) 0b1001)) (fun t =>
      decide ((t.quad 0).lease = .held 3 5000 0) && (t.quad 0).wants == 1) ∧
    gives (exec (.leaseHandover 0) (leases (.switch 3 4992) 1)) (fun t => decide ((t.quad 0).lease = .switch 0 5000)) ∧
    gives (exec (.leaseHandover 0) (leases (.switch 3 4993) 8)) (fun _ => true) = false := by decide

/-! ### Tasks, events and services -/

/-- A task of one tile that is READY. -/
def ready1 : Task := { Task.one 0 0 with state := .ready, ranOnce := false, tileMap := [] }
/-- A device whose only task is `k`. -/
def tasked (k : Task) : State := { State.reset with tasks := [(0, k)], nextTask := 1 }
theorem test_place_task : ((tasked ready1).readyList 0).map (fun p => p.1) = [0] ∧
    gives (exec (.placeTask 0) (tasked ready1)) (fun t => match t.task? 0 with
      | some k => decide (k.state = .loading) && k.tileMap == [(0, 0x8000)] && (t.tile 0).task == some 0 && (t.tile 0).stopped
      | none => false) := by decide
theorem test_place_task_capped : gives (exec (.placeTask 0) (tasked { ready1 with tilecap := 0 })) (fun t => t.tasks.isEmpty) := by decide
/-- The task of tile 0 at tick `n`, with a READY rival of its rank or with none. -/
def rivalled (rival : Bool) (n : Nat) : State :=
  let s := regs []
  { s with tasks := s.tasks ++ (if rival then [(1, { ready1 with order := 1 })] else []), nextTask := 2, tick := n }
theorem test_quantum_expiry : gives (exec (.quantumExpiry 0) (rivalled true 1300000)) (fun t => (t.task? 0).map (fun k => k.quantDone) == some true) ∧
    gives (exec (.quantumExpiry 0) (rivalled false 1300000)) (fun t =>
      (t.task? 0).map (fun k => (k.quantDone, k.quantSince)) == some (false, 1300000)) ∧
    gives (exec (.quantumExpiry 0) (rivalled true 1299999)) (fun _ => true) = false := by decide
/-- The task of tile 0 is being saved. -/
def saving : State := (regs [(4, 7)]).modTask 0 fun k => { k with state := .saving }
theorem test_preempt_arrival : gives (exec (.preemptArrival 0) saving) (fun t => (t.tile 0).stopped && t.pc == 0x100 && t.reg 4 == 7) := by decide
theorem test_loading_complete : gives (exec (.loadingComplete 0) ((regs [(4, 7)]).modTask 0 fun k =>
      { k with state := .loading, ranOnce := false, save := 0x5000, image := { k.image with entry := 0x40 } }))
    (fun t => decide ((t.core 0).run = .running) && t.pc == 0x40 && t.reg 1 == 0xF000000000080000 && t.reg 2 == 0x5000 && t.reg 4 == 0 &&
      (t.core 0).leaseq == 16) := by decide
set_option maxRecDepth 4000 in
theorem test_retire : (regs []).retires (Task.one 0 0) = false ∧
    gives (exec (.retire 0) ((regs []).modCore 0 fun c => { c with run := .halted })) (fun t =>
      (t.task? 0).map (fun k => k.spentAt) == some (some 0) &&
      gives (exec (.retire 0) { t with tick := 1 }) (fun u => u.tasks.isEmpty && (u.tile 0).task == none)) := by
  decide
set_option maxRecDepth 4000 in
theorem test_teardown : gives (exec (.taskTeardown 0) (((regs []).modTask 0 fun k => { k with ending := some (0x0031, 5) }).modTile 0 fun t =>
      { t with stopped := true }))
    (fun t => t.tasks.isEmpty && (t.tile 0).task == none) := by decide
/-- Tile 0's save finds nothing mapped. -/
def unsaved : State := saving.modTile 0 fun t => { t with stopped := true }
theorem test_tile_stopped_fails : unsaved.quiet 0 = true ∧ gives (exec (.tileStopped 0) unsaved) (fun t =>
    ((t.task? 0).bind fun k => k.ending).map (fun e => e.1) == some 0x0031) := by decide
/-- Tile 0 is saved already, and the record of its task can be written. -/
def savedAll : State :=
  (unsaved.modDie 0 fun d => { d with tlb := [{ ctx := 0, page := 0x10000, leaf := BitVec.ofNat 64 (loadPage / 4096 * 2 ^ 22 + 31) }] }).modTask 0 fun k => { k with saved := [(0, Tile.reset)] }
set_option maxRecDepth 20000 in
theorem test_save_complete : gives (exec (.saveComplete 0) savedAll) (fun t => match t.task? 0 with
    | some k => decide (k.state = .ready) && k.tileMap.isEmpty && k.ctr.preempt == 1 && (t.tile 0).task == none
    | none => false) := by decide

/-- A source of tile 0 has raised a cause at tick 0. -/
def eventful (src : BitVec 3) (c : Cause) (recorded : Bool) (s : State) : State :=
  { (s.modTile 0 fun t => { t with events := [{ src, cause := c, val := 9, loc := 0x100, since := 0, recorded, ptile := 0, seqno := 0, action := 0, reply := none }] }) with tick := 2 }
/-- Its core has. -/
def trapped (c : Cause) (recorded : Bool) : State :=
  (eventful 0 c recorded (regs [(4, 7)])).modCore 0 fun x => { x with run := .event }
theorem test_event_record : ((trapped .align false).tile 0).newEvent 0 ≠ none ∧ (trapped .align false).twinTile 0 = none ∧
    gives (exec (.eventRecord 0 0) (trapped .align false)) (fun t => (t.cluster 0).seqno == 1 &&
      (t.cluster 0).queue.map (fun r => (r.cause, r.src, r.val, r.loc)) == [(0x02, 0, 9, 0x100)] &&
      (t.tile 0).events.map (fun v => v.recorded) == [true]) := by decide
theorem test_resume : gives (exec (.actionResume 0 0) (trapped .align true)) (fun t => decide ((t.core 0).run = .running) && t.pc == 0x100 &&
    (t.tile 0).events.isEmpty) := by decide
theorem test_skip : gives (exec (.actionSkip 0 0) (trapped .align true)) (holds 4 7) := by decide
/-- Engine ld has slipped at a CB with WSEM 3 and WCNT 2. -/
def slipped : State := (eventful 1 .slip true (at_ .ld { block 0x01 with wsem := 3, wcnt := 2 } .timed [] [] [])).modEngine 0 .ld fun x =>
  { x with block := .event }
theorem test_elastic : gives (exec (.actionElastic 0 1) slipped) (fun t => decide ((t.engine 0 .ld).stage = .header) && (t.engine 0 .ld).elastic &&
    (t.tile 0).waiters == [{ sem := 3, who := .header .ld, count := 2 }]) := by decide
theorem test_rollback_ends : slipped.live 0 ∧
    gives (exec (.actionRollback 0 1) ((eventful 1 .poison true (at_ .ld (block 0x10) .body [] [] [])).modEngine 0 .ld fun x => { x with block := .event }))
      (fun t => ((t.task? 0).bind fun k => k.ending) == some (0x0031, 0x05)) := ⟨⟨_, rfl, rfl, by decide⟩, by decide⟩
theorem test_end : gives (exec (.actionEnd 0 0 0x02) (trapped .align true)) (fun t =>
    ((t.task? 0).bind fun k => k.ending) == some (0x0031, 0x02)) := by decide

/-- Tile 0's core has called service e with s4 = `a`, and the supervisor has the record. -/
def calling (e : Nat) (a : Word) : State :=
  ((regs [(4, a)]).modTile 0 fun t => { t with events :=
    [{ src := 0, cause := .svc, val := BitVec.ofNat 64 e, loc := 0x100, since := 0, recorded := true, ptile := 0, seqno := 0, action := 0, reply := none }] }).modCore 0
    fun c => { c with run := .event }
/-- The call has been answered with s4 and s5. -/
def replied (a : Word) (b : Option Word) (t : State) : Bool := (t.tile 0).events.map (fun v => v.reply) == [some (a, b)]
theorem test_yield : ((calling 0 0).tile 0).call = some 0 ∧
    gives (exec (.yield 0) (calling 0 0)) (fun t => replied 0 none t && (t.task? 0).map (fun k => k.quantSince) == some 0) := by decide
theorem test_sliprd : gives (exec (.sliprd 0) ((calling 5 0).modTask 0 fun k => { k with slips := 3 })) (replied 0 (some 3)) := by decide
theorem test_unknown_service : gives (exec (.unknownService 0) (calling 7 0)) (replied 0xFFFFFFFFFFFFFFFF none) ∧
    gives (exec (.unknownService 0) (calling 6 0)) (fun _ => true) = false := by decide
theorem test_galloc_refuses : gives (exec (.galloc 0) (calling 1 0)) (replied 3 none) ∧ gives (exec (.galloc 0) (calling 1 65535)) (replied 3 none) ∧
    gives (exec (.galloc 0) (calling 1 0x810000)) (replied 3 none) ∧
    gives (exec (.galloc 0) ((calling 1 0x10000).modTask 0 fun k =>
      { k with path := [{ rcb := 0, place := none, bytes := [], tiles := none, galb := some 63, hbws := none, quant := none }] })) (replied 1 none) := by decide
set_option maxRecDepth 4000 in
theorem test_galloc : ((calling 1 0x10000).galleryRun 0 (galleryBase 0) 1) = some 0x2100000000 ∧
    gives (exec (.galloc 0) (calling 1 0x10000)) (fun t => replied 0 (some 0xFF0000000000) t &&
      (t.task? 0).map (fun k => k.allocs) == some [(0xFF0000000000, 0x10000)]) := by decide
theorem test_galloc_full : (calling 1 0x800000).galleryRun 0 (galleryBase 0) 128 ≠ none ∧
    gives (exec (.galloc 0) ((calling 1 0x800000).modTask 0 fun k => { k with allocs := [(0xFF0000000000, 0x10000)] })) (replied 2 none) := by decide
set_option maxRecDepth 4000 in
theorem test_gfree : gives (exec (.gfree 0) (calling 2 0xFF0000000000)) (replied 3 none) ∧
    gives (exec (.gfree 0) ((calling 2 0xFF0000000000).modTask 0 fun k => { k with allocs := [(0xFF0000000000, 0x10000)] }))
      (fun t => replied 0 none t && (t.task? 0).map (fun k => k.allocs) == some []) := by decide
/-- A call with its 64-byte argument at virtual address 0x40. -/
def arguing (e : Nat) (l : List Byte) : State := ((calling e 0x40).mapPage 0 0 0).putBytes (gDie 0 (loadPage + 0x40)) l
/-- A receive ring of 2 slots of 2 KiB for port 0 without a signal. -/
def ringBytes : List Byte :=
  leBytes 8 0x4000 ++ leBytes 4 2048 ++ leBytes 4 2 ++ leBytes 8 0x100 ++ leBytes 8 0x108 ++ [0, 0, 1, 0] ++ leBytes 2 0xFFFF ++ List.replicate 26 0
theorem test_rxring : (ringOf ringBytes false 0 0).isSome = true ∧ ringOf ringBytes true 0 0 = none ∧
    gives (exec (.rxring 0) (arguing 3 ringBytes)) (fun t => replied 0 (some 0) t && t.io.rxRings.map (fun x => x.1) == [0]) ∧
    gives (exec (.rxring 0) (calling 3 (own 0))) (replied 3 none) := by decide
theorem test_txring : gives (exec (.txring 0) (arguing 6 ringBytes)) (replied 3 none) := by decide
/-- A request for an inbound window. -/
def windowBytes (inbound : Byte) : List Byte :=
  inbound :: List.replicate 10 0 ++ [3] ++ List.replicate 20 0 ++ leBytes 8 7 ++ leBytes 8 0x1000 ++ leBytes 8 0x100 ++ List.replicate 8 0
theorem test_netwin : (windowReq (windowBytes 1) 0 0).map (fun x => x.1) = some true ∧ windowReq (windowBytes 2) 0 0 = none ∧
    gives (exec (.netwin 0) (arguing 4 (windowBytes 1))) (fun t => replied 0 (some 0) t && t.io.inWins.map (fun x => x.2.len) == [0x100]) ∧
    gives (exec (.netwin 0) (arguing 4 (windowBytes 0))) (fun t => replied 0 (some 0) t && t.io.outWins.length == 1) ∧
    gives (exec (.netwin 0) (arguing 4 (windowBytes 2))) (replied 3 none) := by decide

/-- Engine ld has rolled a slot back at tick 0. -/
def refetching (n : Nat) : State := { (at_ .ld (block 0x10) .body [] [] []).modEngine 0 .ld fun x => { x with block := .refetch } with tick := n }
theorem test_rollback_timeout : (refetching 513).live 0 ∧ gives (exec (.rollbackTimeout 0 .ld) (refetching 513)) (fun t =>
      ((t.task? 0).bind fun k => k.ending) == some (0x0031, 0x05)) ∧
    gives (exec (.rollbackTimeout 0 .ld) (refetching 512)) (fun _ => true) = false := ⟨⟨_, rfl, rfl, by decide⟩, by decide, by decide⟩
theorem test_slip_hold_timeout : gives (exec (.slipHoldTimeout 0) { (regs []).modTask 0 fun k => { k with slipHold := [(0, .ld)], slipSince := some 0 }
      with tick := 1300000 }) (fun t => ((t.task? 0).bind fun k => k.ending) == some (0x0031, 0x08)) := by decide
/-! ### Queues and the host -/

/-- Queue 0 of four entries, whose header lies at 0, serves a context whose first page is mapped; `l` stands at 0 there. -/
def queued0 (q : Queue) (l : List Byte) : State :=
  let s := (State.reset.mapPage 0 0 0).putBytes (gDie 0 loadPage) l
  { s with io := { s.io with ready := true, queues := [(0, q)] } }
/-- An active queue. -/
def active : Queue := { Queue.reset with state := .active, nent := 4, tail := 1 }
/-- A descriptor of such a queue. -/
def descriptor : List Byte := leBytes 8 0 ++ leBytes 4 4 ++ [0x02, 0] ++ leBytes 2 0 ++ leBytes 2 9 ++ List.replicate 14 0
/-- The descriptor stands in supervisor queue 1's table, and the TAIL at the header is `n`. -/
def described (n : Byte) : State :=
  let s := queued0 Queue.reset [n]
  { s with io := { s.io with suptable := [(1, descriptor)] } }
theorem test_supq_enable : (descOf true descriptor).map (fun x => (x.nent, x.expected)) = some (4, 9) ∧
    gives (exec (.supqEnable 1) (described 0)) (fun t => decide ((t.queue 1025).state = .active) && (t.queue 1025).expected == 9 &&
      t.io.supcmd == { op := 1, busy := true, res := 0, qidx := 1 }) ∧
    gives (exec (.supqEnable 1) (described 3)) (fun t => decide ((t.queue 1025).state = .error) && (t.queue 1025).err == 2 && t.io.supcmd.res == 2) ∧
    gives (exec (.supqEnable 2) (described 0)) (fun t => decide ((t.queue 1026).state = .disabled) && t.io.supcmd.res == 1) := by decide
theorem test_qcmd : gives (exec (.qcmdEnable 0) (queued0 active [])) (fun t => t.io.qcmd == { op := 1, busy := true, res := 3, qidx := 0 }) ∧
    gives (exec (.qcmdDisable 0) (queued0 active [])) (fun t => decide ((t.queue 0).state = .disabled) && t.io.qcmd.res == 0) ∧
    gives (exec (.qcmdDisable 1) (queued0 active [])) (fun t => t.io.qcmd.res == 3) ∧
    gives (exec (.qcmdEnable 0) State.reset) (fun t => t == State.reset) := by decide
theorem test_qcmd_complete : gives (exec .qcmdComplete { State.reset with io := { IoDie.reset with qcmd := { op := 1, busy := true, res := 3, qidx := 0 } } })
    (fun t => t.io.qcmd == { op := 1, busy := false, res := 3, qidx := 0 }) := by decide
theorem test_host_registers : gives (exec (.ptpfreqWrite 5) State.reset) (fun t => t.io.ptpfreq == 5) ∧
    gives (exec (.ptpstepWrite 5) { State.reset with timeNs := 0xFFFFFFFFFFFFFFFF }) (fun t => t.timeNs == 4) ∧
    gives (exec (.ptptimeRead false) { State.reset with timeNs := 0x100000002, io := { IoDie.reset with ready := true } })
      (fun t => t.io.ptpLatch == 1 && t.io.answers == [[2, 0, 0, 0]]) ∧
    gives (exec (.ptptimeRead false) { State.reset with timeNs := 0x100000002 }) (fun t => t.io.ptpLatch == 0 && t.io.answers == [[0, 0, 0, 0]]) ∧
    gives (exec (.bar0Write 0x300 5) State.reset) (fun t => t == State.reset) ∧
    gives (exec (.bar0Write 0x210 5) State.reset) (fun t => t.timeNs == 5) ∧
    gives (perform (.bar0Read 0x000) { State.reset with io := { IoDie.reset with qtbase := 5 } }) (fun t => t.io.answers == [[0, 0, 0, 0, 0, 0, 0, 0]]) ∧
    gives (perform (.bar0Read 0x000) { State.reset with io := { IoDie.reset with qtbase := 5, ready := true } }) (fun t => t.io.answers == [[5, 0, 0, 0, 0, 0, 0, 0]]) ∧
    gives (perform (.bar0Read 0x008) { State.reset with io := { IoDie.reset with ready := true } }) (fun t => t.io.answers == [[1, 0, 0, 0, 0, 0, 0, 0]]) := by
  decide
theorem test_tail_update : gives (exec (.tailUpdate 0) (queued0 active [4])) (fun t => (t.queue 0).tail == 4) ∧
    gives (exec (.tailUpdate 0) (queued0 active [5])) (fun t => decide ((t.queue 0).state = .error) && (t.queue 0).err == 2) := by decide
/-- The entry at index 0: a MARK with SEQ `seq` and its completion record at `compl`, NPRED 0. -/
def mark (seq : Byte) (compl : Nat) : State :=
  (queued0 active []).putBytes (gDie 0 (loadPage + 0x80)) ([2, 0, seq] ++ List.replicate 37 0 ++ leBytes 8 compl)
theorem test_queue_entry_mark : (mark 0 0x400).nextQueue = some 0 ∧
    gives (exec (.queueEntry 0) (mark 0 0x400)) (fun t => (t.queue 0).head == 1 && (t.queue 0).finished == [(0, 0, 0x0010)] &&
      (t.queue 0).expected == 1) := by decide
theorem test_queue_entry_refused : gives (exec (.queueEntry 0) (mark 1 0x400)) (fun t => decide ((t.queue 0).state = .error) && (t.queue 0).err == 1) ∧
    gives (exec (.queueEntry 0) (mark 0 0x410)) (fun t => (t.queue 0).err == 4) ∧
    gives (exec (.queueEntry 0) (mark 0 0)) (fun t => (t.queue 0).err == 4) ∧
    gives (exec (.queueEntry 0) ((queued0 active []).modDie 0 fun d => { d with crt := [] })) (fun t => (t.queue 0).err == 3) := by decide
theorem test_queue_entry_rejected : (packetOf ([3] ++ List.replicate 63 0)).wrong = true ∧
    gives (exec (.queueEntry 0) ((mark 0 0x400).putBytes (gDie 0 (loadPage + 0x84)) [3])) (fun t => (t.queue 0).finished == [(0, 0, 0x0020)]) := by
  decide
/-- An accepted entry. -/
def entry0 (kind : EntryKind) (waits : Bool) (preds : List Nat) : Entry :=
  { index := 0, seq := 5, era := 0, ord := 1, preds, ctx := 0, compl := 0x400, tacc := 0, kind, waits }
/-- It is the only one; entry 0 of its era ended with a status. -/
def accepted (e : Entry) (status : BitVec 16) : State := queued0 { active with entries := [e], finished := [(0, 0, status)], head := 1, count := 2 } []
theorem test_drain_complete : gives (exec (.drainComplete 0) (accepted (entry0 .drain false []) 0x0010)) (fun t =>
    (t.queue 0).finished.head? == some (0, 1, 0x0010)) := by decide
theorem test_cancel_complete : gives (exec (.cancelComplete 0 5) (accepted (entry0 (.cancel 0 (some [3])) false []) 0x0010)) (fun t =>
    (t.queue 0).finished.head? == some (0, 1, 0x0010)) := by decide
theorem test_predecessor : gives (exec (.predecessorComplete 0 5) (accepted (entry0 .mark true [0]) 0x0010)) (fun t =>
      (t.queue 0).finished.head? == some (0, 1, 0x0010)) ∧
    gives (exec (.predecessorComplete 0 5) (accepted (entry0 .mark true [0]) 0x0031)) (fun t =>
      (t.queue 0).finished.head? == some (0, 1, 0x0030)) := by decide

/-! ### Agents of the memory side, the host and the network -/

/-- The low bits of the leaf at 0 of die 0. -/
def leaf (b : Nat) : State := (State.reset.mapPage 0 0 0).putBytes (gDie 0 (loadTable 3)) (leBytes 8 (loadPage / 4096 * 2 ^ 22 + b))
theorem test_page_walk : gives (exec (.pageWalk 0 0 0x10 .write 0) (leaf 7)) (fun t => t.num (gDie 0 (loadTable 3)) 1 == 0x1F &&
      (t.die 0).tlb.length == 1) ∧
    gives (exec (.pageWalk 0 0 0x10 .read 0) (leaf 7)) (fun t => t.num (gDie 0 (loadTable 3)) 1 == 0x0F) ∧
    gives (exec (.pageWalk 0 0 0x10 .write 0) (leaf 3)) (fun t => t == leaf 3) := by decide
theorem test_witness_walk : ((leaf 7).die 0).tlbFind 0 0x10 .write = none ∧ ((leaf 7).findPte 0 0 0x10).2.1 = loadTable 3 ∧
    Memory.wf (leaf 7).mem = true := by decide
/-- A message from owner 1 to holder 0 with a new copy of the line 5, which holder 0 has at version `n`. -/
def updating (j n : Nat) : State := State.reset.modDie 0 fun d => { d with
  inbox := [{ owner := 1, stamp := #v[j, 1, 0, 0], upd := some (5, 0, List.replicate 64 7) }],
  rlc := [{ ctx := 0, line := 0, home := 5, view := none, key := 0, ver := n, r := true, pkey := 0, data := [] }] }
theorem test_rlc_update : gives (exec (.rlcUpdate 0 0) (updating 0 0)) (fun t =>
      (t.die 0).rlc.map (fun l => l.data) == [List.replicate 64 7] && (t.die 0).inbox.isEmpty && (t.die 0).a[1] == 1) ∧
    gives (exec (.rlcUpdate 0 0) (updating 0 1)) (fun t => (t.die 0).rlc.map (fun l => l.data) == [[]]) ∧
    gives (exec (.rlcUpdate 0 0) (updating 1 0)) (fun _ => true) = false := by decide
theorem test_ats_invalidate : gives (exec (.atsInvalidate 0 0x1FFF) { State.reset with io := { IoDie.reset with
      atc := [(0, 0x1000, true, true), (0, 0x2000, true, true)] } }) (fun t => t.io.atc == [(0, 0x2000, true, true)]) := by decide
/-- Engine ld of tile 0 has an access parked at the host. -/
def priParked : State :=
  let s := (at_ .ld (block 0x10) .body [] [] []).modEngine 0 .ld fun x => { x with block := .parked }
  { s with io := { s.io with pri := [{ token := 0, va := 0x0080000000000040, ctx := 0, kind := .read, src := 1, tile := 0, task := some 0, vt := 0, time := 0, host := none }] } }
theorem test_pri_response : gives (exec (.priResponse 0 0x0080000000000000 true) priParked) (fun t => decide ((t.engine 0 .ld).block = .none) &&
      t.io.pri.isEmpty) ∧
    gives (exec (.priResponse 0 0x0080000000000000 false) priParked) (engRaised .ld .badaddr 0x0080000000000040) := by decide
/-- The host reaches 64 KiB of die 0 from its address 0x8000_0000 on. -/
def hosted : State := { State.reset.putBytes (gDie 0 0x1040) four with io := { IoDie.reset with
  hdm := [{ hpa := 0x80000000, size := 0x10000, die := 0, pa := 0x1000, key := 0 }] } }
theorem test_hdm : oneRange 0x1040 4 = true ∧ gives (exec (.hdmAccess false 0x80000040 4 []) hosted) (fun t => t.io.answers == [0 :: four]) ∧
    gives (exec (.hdmAccess false 0x80000040 4 []) { hosted with poison := [lineOf (gDie 0 0x1040)] }) (fun t => t.io.answers == [[1]]) ∧
    gives (exec (.hdmAccess true 0x80000044 4 four) hosted) (fun t => t.bytes (gDie 0 0x1040) 8 == four ++ four && t.io.answers == [[0]]) := by decide
/-- A core of die 0 has a request to die 1 in flight, whose reply has come. -/
def across : State := flying (.ldd 4 5 0) .flight (.load 8 false) 0x0020000000000000 (some (.value 9)) 0
theorem test_links : gives (exec (.flitRetry 0 4) across) (fun t => (t.die 0).telemetry.flitRetries == 1) ∧
    across.overLink 0 0 1 0x0020000000000000 = true ∧
    gives (exec (.linkRetrain 0 1) across) (fun t => (t.die 1).telemetry.retrains == 1 && ((t.core 0).flight.map fun f => f.reply) == some none) := by
  decide

/-- A peer's window 7 of 256 bytes onto the first page of die 0. -/
def windowed : State :=
  let s := State.reset.mapPage 0 0 0
  { s with io := { s.io with inWins := [(0, { ctx := 0, owner := none, port := 0, gid := 0, qp := 0, rkey := 7, base := 0, len := 256,
                                              r := true, w := false, atomic := false, pkr := 0 })] } }
/-- A peer's request. -/
def request (rkey : BitVec 32) (va : Word) (op : RoceOp) : RoceReq := { port := 0, qp := 1, psn := 2, rkey, va, op }
theorem test_roce : gives (exec (.roceInbound (request 7 4 (.read 4))) (windowed.putBytes (gDie 0 (loadPage + 4)) four)) (fun t => t.io.answers == [0 :: four]) ∧
    gives (exec (.roceInbound (request 8 4 (.read 4))) windowed) (fun t => t.io.answers == [[1]]) ∧
    gives (exec (.roceInbound (request 7 253 (.read 4))) windowed) (fun t => t.io.answers == [[1]]) ∧
    gives (exec (.roceInbound (request 7 4 (.write four))) windowed) (fun t => t.io.answers == [[1]]) := by decide
theorem test_roce_again : gives (exec (.roceInbound (request 7 0 (.fetchAdd 1))) { windowed with io := { windowed.io with
    peerDone := [{ src := .peer 0 1, trailing := false, tag := 2, vt := none, reply := .value 5 }] } }) (fun t => t.io.answers == [[0, 5, 0, 0, 0, 0, 0, 0, 0]]) := by decide
/-- A frame of 16 bytes for the EtherType 0x1234. -/
def body16 : List Byte := List.replicate 12 1 ++ [0x12, 0x34, 5, 6]
/-- It with its FCS. -/
def frame16 : List Byte := body16 ++ leBytes 4 (fcs body16).toNat
/-- A ring for every frame of port 0 with two slots of `size` bytes from 0x1000 on. -/
def ring0 (pi ci : BitVec 32) : Ring :=
  { base := 0x1000, slotsz := 2048, nslot := 2, civa := 0x100, piva := 0x108, ctx := 0, ports := 1, obs := 0, vtile := 0xFFFF, sem := 0, etype := 0,
    vlan := 0xFFFF, udpp := 0, pi, ci, fseq := 0, drops := 0, owner := none }
/-- Die 4 has such a receive ring. -/
def receiving (r : Ring) : State := let s := State.reset.mapPage 0 0 0
  { s with io := { s.io with rxRings := [(0, r)] } }
set_option maxRecDepth 4000 in
theorem test_frame_receive : gives (exec (.frameReceive 0 frame16) (receiving (ring0 0 0))) (fun t =>
      t.io.rxRings.map (fun x => (x.2.pi, x.2.fseq)) == [(1, 1)] && t.bytes (gDie 0 (loadPage + 0x1020)) 16 == body16) ∧
    gives (exec (.frameReceive 0 (body16 ++ [0, 0, 0, 0])) (receiving (ring0 0 0))) (fun t => at4 t.io.portDrop 0 == 1) := by decide
set_option maxRecDepth 4000 in
theorem test_frame_no_room : gives (exec (.frameReceive 0 frame16) (receiving { ring0 0 0 with slotsz := 40 })) (fun t =>
      t.io.rxRings.map (fun x => (x.2.pi, x.2.drops)) == [(0, 1)]) ∧
    gives (exec (.frameReceive 1 frame16) (receiving (ring0 0 0))) (fun t => at4 t.io.portDrop 1 == 1) := by decide
theorem test_civa : gives (exec (.civaStore 0) ((receiving (ring0 2 0)).putBytes (gDie 0 (loadPage + 0x100)) [2])) (fun t =>
    t.io.rxRings.map (fun x => x.2.ci) == [2]) := by decide
/-- Die 4 has a transmit ring whose first slot holds a frame of `n` bytes that begins with 1, 2, 3, 4. -/
def transmitting (n : Nat) : State :=
  let s := ((State.reset.mapPage 0 0 0).putBytes (gDie 0 (loadPage + 0x100A)) (leBytes 2 n)).putBytes (gDie 0 (loadPage + 0x1020)) four
  { s with io := { s.io with txRings := [(0, ring0 1 0)] } }
theorem test_frame_transmit : gives (exec (.frameTransmit 0) (transmitting 4)) (fun t => t.io.sent.map (fun x => x.2) == [four] && t.io.txRings.map (fun x => x.2.ci) == [1]) ∧
    gives (exec (.frameTransmit 0) (transmitting 2017)) (fun t => t.io.sent == [] && t.io.txRings.map (fun x => x.2.ci) == [1]) := by decide
theorem test_piva : gives (exec (.pivaStore 0) ((transmitting 4).putBytes (gDie 0 (loadPage + 0x108)) [2])) (fun t =>
    t.io.txRings.map (fun x => x.2.pi) == [2]) := by decide

/-! ### Reliability, reset and management -/

set_option maxRecDepth 2000 in
theorem test_votes : gives (exec (.voteDisagree .commandProcessors true) State.reset) (fun t => t.resync == [.commandProcessors] && !t.io.lost) ∧
    gives (exec (.voteDisagree .commandProcessors false) State.reset) (fun t => t.io.lost) ∧
    gives (exec (.stateCrcCompare (.dieScheduler 0) 1 1 2) State.reset) (fun t => t.resync == [.dieScheduler 0]) ∧
    gives (exec (.stateCrcCompare (.dieScheduler 1) 1 2 3) (regs [])) (fun t => t.io.lost && (t.tile 0).stopped) := by decide
theorem test_resync : gives (exec (.resyncComplete (.dieScheduler 2) true) { State.reset with resync := [.dieScheduler 2] }) (fun t =>
      t.resync == [] && ((t.die 2).telemetry.resync[(kindIx (.dieScheduler 2))] == 1)) ∧
    gives (exec (.resyncComplete (.dieScheduler 2) false) { State.reset with resync := [.dieScheduler 2] }) (fun t => t.io.lost) := by decide
/-- Tile 0 is the leading tile of a PAIR, and its event waits since tick 0. -/
def paired (n : Nat) : State :=
  { (eventful 0 .align false (regs [])).modTask 0 fun k => { k with redun := .pair } with tick := n }
theorem test_pair_timeout : (paired 257).twinWait { Task.one 0 0 with redun := .pair } 0 = some 0 ∧
    gives (exec (.pairCompareTimeout 0) (paired 257)) (fun t => ((t.task? 0).bind fun k => k.ending) == some (0x0031, 0) && (t.cluster 0).suspect) ∧
    gives (exec (.pairCompareTimeout 0) (paired 256)) (fun _ => true) = false := by decide
theorem test_twin_timeout : gives (exec (.twinEventTimeout 0) { (eventful 0 .align false (regs [])).modTask 0 fun k => { k with redun := .twin }
    with tick := 65537 }) (fun t => ((t.task? 0).bind fun k => k.ending) == some (0x0034, 0)) := by decide
theorem test_freeze : gives (exec (.rccFreeze (.throttleStep 0)) static) (fun t => t.freezes == [.throttleStep 0] &&
      (t.task? 0).map (fun k => t.rcc k) == some 100) ∧
    gives (exec (.rccThaw (.throttleStep 0)) { static with freezes := [.throttleStep 0] }) (fun t => t.freezes == []) := by decide
theorem test_scrub : gives (exec (.patrolScrub 2 true) State.reset) (fun t => (t.die 0).telemetry.corrections == 1 && t.poison == []) ∧
    gives (exec (.patrolScrub 2 false) State.reset) (fun t => (t.die 0).telemetry.marks == 1 && t.poison == [2]) := by decide
theorem test_thermal : gives (exec (.thermalStep 1 true) (State.reset.modDie 1 fun d => { d with past := true })) (fun t => (t.die 1).throttle == 1) ∧
    gives (exec (.thermalStep 1 true) State.reset) (fun _ => true) = false ∧
    gives (exec (.thermalStep 1 false) State.reset) (fun _ => true) = false ∧
    gives (exec (.thermalTrip 1) (State.reset.modDie 1 fun d => { d with telemetry := { d.telemetry with temp := 1840 } }))
      (fun t => t.io.lost && !(t.die 1).powered) := by decide
theorem test_reset_stages : gives (exec (.resetStage true) State.reset) (fun t => t.io.stage == 1 && !t.io.ready) ∧
    gives (exec (.resetStage true) { State.reset with io := { IoDie.reset with stage := 6 } }) (fun t => t.io.stage == 7 && t.io.ready) ∧
    gives (exec (.resetStage false) { State.reset with io := { IoDie.reset with stage := 3 } }) (fun t => t.io.failed && t.io.mgmt == [[4, 1]]) := by decide
theorem test_cold_reset : gives (exec .coldReset ((regs []).putBytes (2 ^ 56) four)) (fun t => t.tiles.isEmpty && t.tasks.isEmpty &&
    t.bytes (2 ^ 56) 4 == four && t.bytes (gTile 0 0) 4 == [0, 0, 0, 0]) := by decide
theorem test_spdm : gives (exec .getVersion { State.reset with io := { IoDie.reset with stage := 2, spdm := [1] } }) (fun t => t.io.spdm.take 2 == [0x10, 0x84] &&
    t.io.mgmt.map (fun l => l.take 2) == [[0x10, 0x04]]) ∧
    gives ((State.reset.modIo fun io => { io with stage := 2 }).spdmOther [0x13, 0xE4, 0, 0]) (fun t => t.io.mgmt == [[0x13, 0x7F, 7, 0xE4]]) := by decide
theorem test_pldm : gives (exec (.pldmMonitor 0) { State.reset with io := { IoDie.reset with stage := 2 } }) (fun t => t.io.mgmt.length == 1) := by decide

/-! ### Whole chains of events -/

/-- The RCB of a BULK task with a cap of one tile, its save area at 0x2000. -/
def rcb0 : List Byte :=
  [2, 1] ++ leBytes 2 0x7FF ++ leBytes 4 2 ++ leBytes 2 0 ++ leBytes 2 1 ++ leBytes 2 1 ++ [0, 0] ++ leBytes 4 0 ++ leBytes 4 1024 ++ leBytes 8 0 ++
  leBytes 8 0 ++ leBytes 8 0 ++ leBytes 8 0 ++ leBytes 8 0x2000
/-- A kernel image of one tile with its entry point at 0x40 and one size class. -/
def image0 : List Byte :=
  leBytes 4 0x4E554B49 ++ leBytes 2 1 ++ leBytes 2 0 ++ leBytes 8 0x40 ++ leBytes 2 1 ++ [1, 0] ++ leBytes 4 0 ++ leBytes 8 0x3040 ++ leBytes 8 0 ++
  leBytes 24 0 ++ leBytes 8 100
/-- A launch packet. -/
def packet0 : List Byte := [1, 0, 0, 0, 0, 0, 0, 0] ++ leBytes 8 0x1000 ++ leBytes 8 0x3000 ++ leBytes 8 0 ++ leBytes 8 50 ++ leBytes 8 0x400
/-- Queue 0 holds it. -/
def launching : State :=
  ((((queued0 active []).putBytes (gDie 0 (loadPage + 0x80)) packet0).putBytes (gDie 0 (loadPage + 0x1000)) rcb0).putBytes
    (gDie 0 (loadPage + 0x3000)) image0)
set_option maxRecDepth 4000 in
theorem test_launch : gives (exec (.queueEntry 0) launching) (fun t => match t.task? 0 with
    | some k => decide (k.state = .ready) && k.image.entry == 0x40 && k.quantum == 1024 && k.save == 0x2000 && k.size == 50 &&
        t.bytes (gDie 0 (loadPage + 0x400)) 8 == [0, 0, 0, 0, 1, 0, 1, 0]
    | none => false) := by decide

/-- Two tasks, of which the one that runs has used its quantum; no tile of the ready one's quads is free. -/
def crowded : State :=
  { State.reset with
      tasks := [(0, { Task.one 0 0 with quantDone := true, path := [{ rcb := 8, place := none, bytes := [], tiles := some 1, galb := none, hbws := none, quant := none }] }),
                (1, { ready1 with order := 1, path := [{ rcb := 8, place := none, bytes := [], tiles := some 1, galb := none, hbws := none, quant := none }] })],
      nextTask := 2, tiles := [(0, { Tile.reset with task := some 0, core := coreAt [] })] }
theorem test_place_task_preempts : crowded.fitsWithout ready1 [] ≠ none ∧
    gives (exec (.placeTask 0) crowded) (fun t => (t.task? 0).map (fun k => k.state) == some .saving) := by decide

/-- The CB that fills the slots of region 31 of its tile. -/
def filler : CB :=
  { gcfgCb 0 0 with op := 0x15, opa := 0, parm := 0x04030201, w0 := Window.zero,
                    rwin := 1, w1 := { Window.zero with base := own 0, fmt := 0x14, wfl := 1, rgn := 31 } }
/-- It stands at 0x1000, slot 0 is pending since fill 5, engine ld holds its record, and engine st waits for it. -/
def lostSlot : State :=
  (((withBytes [] 0x1000 filler.bytes).setRegion 0 31 { heldRegion with pending := 1 }).modEngine 0 .ld fun x => { x with refetch :=
    [{ chain := 0, cbaddr := own 0x1000, rtile := 0, rid := 31, slot := 0, fill := 5, idx := Vector.replicate 6 0, gen := 0, pkr := 0, mode := 0 }] }).modEngine
    0 .st fun x => { x with block := .refetch, ring := some { tile := 0, rid := 31, slot := 0, fill := 5, checked := true } }
set_option maxRecDepth 4000 in
theorem test_refetch : filler.formOk .ld false true = true ∧ (lostSlot.pendingRecord 0 .ld).isSome = true ∧
    gives (exec (.refetchRequest 0 .ld) lostSlot) (fun t => (t.region 0 31).map (fun g => g.pending) == some 0 &&
      decide ((t.engine 0 .st).block = .none) && t.bytes (gTile 0 64) 4 == four) := by decide
set_option maxRecDepth 4000 in
theorem test_refetch_poisoned : gives (exec (.refetchRequest 0 .ld) { lostSlot with poison := [lineOf (gTile 0 0x1000)] }) (fun t =>
    ((t.task? 0).bind fun k => k.ending) == some (0x0031, 0x05)) := by decide

/-- A shape of two experts and one choice, without weights' normalisation. -/
def shape0 : List Byte := leBytes 2 2 ++ [1, 0] ++ leBytes 4 0 ++ leBytes 4 8 ++ leBytes 4 4 ++ leBytes 4 16 ++ List.replicate 44 0
/-- Engine rt of tile 0 has a CB with tables at 0x2000, 0x3000, 0x4000 and 0x5000; the Siphon serves it. -/
def routing (op : Byte) (opb opc : BitVec 32) (w0 w1 w3 : List Byte) : State :=
  let x : CB := { block op with opb, opc, w0 := win (own 0x2000) 0x02, w3 := { base := own 0x5000, kstr := 16, rowstr := 0 } }
  ((((at_ .rt x .body w0 w1 []).putBytes (gTile 0 0x5000) w3).modEngine 0 .rt fun y =>
    { y with cur := some { addr := own 0x100, cb := x, shape := shape0, fault := none } }).modDie 0 fun d =>
      { d with siphon := { serving := some 0, last := 0, need := Clock.zero } })
theorem test_shape : (shapeOf shape0 1).map (fun x => (x.nexp, x.topk, x.crow)) = some (2, 1, 16) ∧ (shapeOf shape0 16).isNone = true := by decide
-- R359: one token with scores 1.0 and 2.0 chooses expert 1.
theorem test_rt_route : gives (exec (.rtRoute 0) (routing 0x50 1 0 (leBytes 4 0x3F800000 ++ leBytes 4 0x40000000) [] [])) (fun t =>
    t.bytes (gTile 0 0x3000) 16 == [1, 0, 1, 0, 0, 0, 0, 0x40, 0, 0, 0, 0, 0, 0, 0, 0] && t.num (gTile 0 0x5010) 4 == 1 &&
    t.num (gTile 0 0x5000) 4 == 0 && t.num (gTile 0 0x501C) 4 == 1 && ended .rt 0 t) := by decide
-- R93, R361: three clusters for 1 and 3 tokens.
theorem test_rt_apport : gives (exec (.rtApport 0) (routing 0x51 3 0 [] [] (leBytes 16 1 ++ leBytes 16 3))) (fun t =>
    t.bytes (gTile 0 0x3000) 16 == [1, 0, 0, 0, 0, 0, 0, 0, 2, 0, 1, 0, 0, 0, 0, 0] && ended .rt 1 t) := by decide
theorem test_rt_lists : gives (exec (.rtLists 0) (routing 0x52 3 8 [] ([1, 0, 0, 0, 0, 0, 0, 0, 2, 0, 1, 0, 0, 0, 0, 0])
      (leBytes 16 1 ++ (leBytes 4 3 ++ leBytes 4 1 ++ leBytes 8 0)))) (fun t =>
    t.num (gTile 0 0x4000) 8 == 1 && t.num (gTile 0 0x4020) 8 == 2 && t.num (gTile 0 0x4040) 8 == 1 && t.num (gTile 0 0x4058) 8 == 3 && ended .rt 3 t) := by
  decide

/-- A context in record mode, whose log of 1,024 records lies at 0x1000 and whose indices lie at 0x800; the core waits for room. -/
def logging : State :=
  let s := ((waitingAt (.rdtime 4) .log 0 []).mapPage 0 0 0).modTask 0 fun k => { k with recMode := 1 }
  { s with timeNs := 77, io := { s.io with recTable := [(0, { mode := 1, logva := 0x1000, nrec := 1024, idxva := 0x800 })] } }
set_option maxRecDepth 4000 in
theorem test_log_append : logging.recMode 0 = 1 ∧ gives (exec (.logAppend 0) logging) (fun t => holds 4 77 t && (t.core 0).timeReads == 1 &&
    t.bytes (gDie 0 (loadPage + 0x1000)) 2 == [3, 0] && t.num (gDie 0 (loadPage + 0x1010)) 8 == 77 && t.num (gDie 0 (loadPage + 0x800)) 8 == 1) := by
  decide
/-- A combine of tile 0's core at a location whose log in replay mode is empty. -/
def replaying : State :=
  let s := ((flying (.amoAdd 4 5 6 0) .flight (.amo 0 1 0) 0x40 none 0).mapPage 0 0 0).modTask 0 fun k => { k with recMode := 2 }
  { s with io := { s.io with recTable := [(0, { mode := 2, logva := 0x1000, nrec := 1024, idxva := 0x800 })] } }
theorem test_divergence : replaying.tileDiverges 0 0x40 = true ∧ gives (exec (.replayDivergence 0 0x40) replaying) (fun t =>
    t.io.diverged == [(0, 0x40)] && (t.task? 0).map (fun k => k.ctr.diverg) == some 1) := by decide

/-- The W0 of engine ld's CB reads slot 5 of region 31, which it holds at fill 5. -/
def rolled : State :=
  let x : CB := { block 0x10 with rwin := 0, rrole := 1, w0 := { win (own 0) 0x14 with wfl := 1, rgn := 31 } }
  (((eventful 1 .poison true (at_ .ld x .body [] [] [])).setRegion 0 31 { heldRegion with f := 6, c := 6 }).modTile 0 fun t =>
    { t with events := t.events.map fun v => { v with val := own (64 + 5 * 64) } }).modEngine 0 .ld fun y =>
      { y with block := .event, ring := some { tile := 0, rid := 31, slot := 5, fill := 5, checked := true }, refetch :=
        [{ chain := 0, cbaddr := own 0x1000, rtile := 0, rid := 31, slot := 5, fill := 5, idx := Vector.replicate 6 0, gen := 0, pkr := 0, mode := 0 }] }
theorem test_rollback : (rolled.rollbackSlot 0 .ld (own (64 + 5 * 64))).isSome = true ∧
    gives (exec (.actionRollback 0 1) rolled) (fun t => decide ((t.engine 0 .ld).block = .refetch) && (t.engine 0 .ld).poisoned &&
      (t.region 0 31).map (fun g => g.pending) == some 32) := by decide

/-! ### Witnesses of the statements' hypotheses -/

/-- A load of the memory of a tile on die 1, which the task maps as virtual tile 1. -/
def far : State :=
  ((regs [(5, 0xF100010000000008)]).modTask 0 fun k => 
    { k with tileMap := [(0, 0x8000), (1, 0x8100)], image := { k.image with vgrid := 2 } }).putBytes (gTile 256 8) [9]
theorem test_witness_far : far.crosses 0 0xF100010000000008 = true ∧ far.localAt 0xF100010000000008 = some (gTile 256 8) ∧
    far.localCheck 0 0xF100010000000008 8 = none ∧ far.sends 0xF100010000000008 ∧
    gives (exec (.ldd 4 5 0) far) (holds 4 9) :=
  ⟨by decide, by decide, by decide, sends_of (by decide) (by decide), by decide⟩
theorem test_witness_near : loads.crosses 0 (own 8) = false ∧ loads.failing = [] ∧ (loads.tile 0).pending = 0 ∧ loads.clean :=
  ⟨by decide, by decide, by decide, by decide, by decide⟩
/-- Die 0 has yet to apply an update that the core's accesses come after. -/
def behind : State := ((regs []).modTile 0 fun t => { t with needK := #v[0, 1, 0, 0] }).modDie 0 fun d =>
  { d with inbox := [{ owner := 1, stamp := #v[0, 1, 0, 0], upd := none }] }
theorem test_fence_package : gives (exec (.fence 8) behind) (fun t => (t.die 0).inbox.isEmpty && t.pc == 0x104) ∧
    gives (exec (.fence 0) behind) (fun t => (t.die 0).inbox.length == 1) := by decide
theorem test_witness_chsel_size : (phases [(1, 1)] (own 8)).localCheck 0 (own 8) 8 = none ∧
    (match read8 (phases [(1, 1)] (own 8)) (own 8) with | .bytes _ => true | _ => false) = true := by decide
/-- Engine ld of tile 0 has parked at die 0. -/
def parkedLd : State := (((kernel (regs [])).modEngine 0 .ld fun x => { x with block := .parked }).modDie 0 fun d =>
  { d with park := [{ token := 1, va := 0x40, ctx := 0, kind := .read, src := 1, tile := 0, task := some 0, vt := 0, time := 0, host := none }] })
theorem test_rply_retries : gives (exec .rply parkedLd) (fun t => decide ((t.engine 0 .ld).block = .none) && t.pc == 0x104) := by decide

/-- The job of an engine that carries out a control block in its last iteration. -/
theorem loops_of {s : State} {P : TileId} {e : Eng} {op : Nat} {j : Job} (h : s.lastStep P e op j) : s.loops P e op j := h.1
/-- ST.RED at its last iteration. -/
theorem test_witness_st_red : (at_ .st (block 0x23) .body (leBytes 4 7) (leBytes 4 5) []).lastStep 0 .st 0x23 (jobAt .st (block 0x23)) ∧
    (jobAt .st (block 0x23)).reaches (at_ .st (block 0x23) .body (leBytes 4 7) (leBytes 4 5) []) (block 0x23).w0 0 4 (gTile 0 0x2000) ∧
    (jobAt .st (block 0x23)).reaches (at_ .st (block 0x23) .body (leBytes 4 7) (leBytes 4 5) []) (block 0x23).w1 0 4 (gTile 0 0x3000) ∧
    (block 0x23).opa.getLsbD 8 = false :=
  ⟨lastStep_of (by decide) (by decide) (by decide) (by decide) (by decide), reaches_of (a := own 0x2000) (by rfl) (by decide),
   reaches_of (a := own 0x3000) (by rfl) (by decide), by decide⟩
/-- CRYS with a crystal, of which `e` is the engine. -/
def crystal (e : Eng) : State :=
  (leasing (at_ e { block 0x04 with opa := 0x1212, flg := 0x50, plist := 7 } .body [] [] [])).modDie 0 fun d =>
    { d with siphon := { serving := some 0, last := 0, need := Clock.zero } }
theorem test_witness_crys : (crystal .rt).inBody 0 .rt 0x04 ≠ none ∧ (crystal .mx).inBody 0 .mx 0x04 ≠ none ∧
    (crystal .mx).unitReady 0 .mx = true ∧ (crystal .gr).inBody 0 .gr 0x04 ≠ none ∧
    ((crystal .rt).die 0).siphon.serving = some 0 ∧ { block 0x04 with opa := 0x1212, flg := 0x50 }.kat = true := by decide
set_option maxRecDepth 4000 in
theorem test_crys_crystal : gives (exec (.crys 0 .rt) (crystal .rt)) (fun t => decide ((t.engine 0 .rt).block = .event) &&
      (t.tile 0).events.map (fun v => (v.src, v.cause)) == [(5, .crystal)]) ∧
    gives (exec (.crys 0 .mx) (crystal .mx)) (fun t => decide ((t.engine 0 .mx).block = .event)) := by decide

/-- The Siphon of die 0 carries out a control block of engine rt with every hypothesis of its statement. -/
def siphonReady (s : State) (op : Byte) (x : CB) : Bool :=
  s.inBody 0 .rt op.toNat == some (jobAt .rt x) && (s.die 0).siphon.serving == some 0 && s.failing == [] && s.poison == [] &&
  x.siphonBases.all (fun a => !foreignBase 0 a) && (((s.engine 0 .rt).cur.bind fun c => shapeOf c.shape 1).isSome)
/-- The control block of `routing`. -/
def routed (op : Byte) (opb opc : BitVec 32) : CB :=
  { block op with opb, opc, w0 := win (own 0x2000) 0x02, w3 := { base := own 0x5000, kstr := 16, rowstr := 0 } }
theorem test_witness_siphon : siphonReady (routing 0x50 1 0 (leBytes 4 0x3F800000 ++ leBytes 4 0x40000000) [] []) 0x50 (routed 0x50 1 0) = true ∧
    siphonReady (routing 0x51 3 0 [] [] (leBytes 16 1 ++ leBytes 16 3)) 0x51 (routed 0x51 3 0) = true ∧
    siphonReady (routing 0x52 3 8 [] [1, 0, 0, 0, 0, 0, 0, 0, 2, 0, 1] (leBytes 16 1 ++ leBytes 16 3)) 0x52 (routed 0x52 3 8) = true := by decide
theorem test_witness_siphon_last : (routing 0x50 1 0 [] [] []).lastStep 0 .rt 0x50 (jobAt .rt (routed 0x50 1 0)) ∧
    (routing 0x51 3 0 [] [] []).lastStep 0 .rt 0x51 (jobAt .rt (routed 0x51 3 0)) ∧
    (routing 0x52 3 8 [] [] []).lastStep 0 .rt 0x52 (jobAt .rt (routed 0x52 3 8)) ∧
    ownSpan (own 0x2000) 0 ∧ ownSpan (own 0x3000) 16 ∧ ownSpan (own 0x4000) 256 ∧ ownSpan (own 0x5000) 32 ∧
    (∀ t k, t < 1 → k < 2 → (0 : Int) ≤ (0x2000 + 8 * t + 4 * k : Nat) ∧ (0x2000 + 8 * t + 4 * k : Nat) + (4 : Int) ≤ 2 ^ 19) :=
  ⟨lastStep_of (by decide) (by decide) (by decide) (by decide) (by decide), lastStep_of (by decide) (by decide) (by decide) (by decide) (by decide),
   lastStep_of (by decide) (by decide) (by decide) (by decide) (by decide), ⟨by decide, by decide, by decide⟩, ⟨by decide, by decide, by decide⟩,
   ⟨by decide, by decide, by decide⟩, ⟨by decide, by decide, by decide⟩, by omega⟩
-- R362: a record whose share does not fit the pool, a table of one record, and one that is long enough.
theorem test_rt_lists_faults : gives (exec (.rtLists 0) (routing 0x52 3 8 [] [9, 0, 1, 0, 0, 0, 0, 0, 2, 0, 1, 0, 0, 0, 0, 0]
      (leBytes 16 1 ++ leBytes 16 3))) (engRaised .rt .cbformat (own 0x3000)) ∧
    gives (exec (.rtLists 0) (routing 0x52 3 1 [] [1, 0, 0, 0, 0, 0, 0, 0, 2, 0, 1, 0, 0, 0, 0, 0]
      (leBytes 16 1 ++ leBytes 16 3))) (engRaised .rt .badaddr (own 0x4020)) := by decide

/-- As `product`, fused: the entry is FP32 and the scales are bytes at 0x5000 and 0x6000. -/
def fusedCb (op : Byte) : CB :=
  { product op 1 with opa := 0x18, w3 := { base := own 0x5000, kstr := 1, rowstr := 0 }, w4 := { base := own 0x6000, kstr := 1, rowstr := 0 } }
/-- It runs with scales of 2^0 and 2^1. -/
def fused (op : Byte) : State :=
  (((products (fusedCb op) (leBytes 4 0x3F800000)).putBytes (gTile 0 0x5000) [127]).putBytes (gTile 0 0x6000) [128])
theorem test_witness_fused : (fused 0x31).lastStep 0 .mx 0x31 (jobAt .mx (fusedCb 0x31)) ∧ (fusedCb 0x31).fuse = true ∧
    (jobAt .mx (fusedCb 0x31)).scaled (fusedCb 0x31).w3 0 1 (gTile 0 0x5000) ∧
    (jobAt .mx (fusedCb 0x31)).scaled (fusedCb 0x31).w4 0 1 (gTile 0 0x6000) ∧ (fused 0x31).clean ∧
    (fused 0x31).unitReady 0 .mx = true ∧ (fused 0x31).planeBusy 0 (fusedCb 0x31) = false ∧
    (jobAt .mx (fusedCb 0x31)).planeFault (fused 0x31) = none :=
  ⟨lastStep_of (by decide) (by decide) (by decide) (by decide) (by decide), by decide,
   ⟨⟨by decide, by decide, by decide⟩, by decide, by decide, by decide, by decide⟩,
   ⟨⟨by decide, by decide, by decide⟩, by decide, by decide, by decide, by decide⟩, ⟨by decide, by decide⟩, by decide, by decide, by decide⟩
-- R273, R315: 1 + (1·5 + 2·(−1))·2^0·2^1 = 7.
set_option exponentiation.threshold 400 in
set_option maxRecDepth 4000 in
theorem test_mx_fused : gives (exec (.mxMma 0) (fused 0x31)) (fun t => t.num (gTile 0 0x3000) 4 == 0x40E00000 && ended .mx 1 t) := by decide
/-- MX.SACC of one column of one block of INT8 partials. -/
def saccCb : CB :=
  { block 0x33 with opb := 0x11212, opc := 1 <<< 12, w0 := win (own 0x2000) 0x14, w1 := win (own 0x3000) 0x02,
                    w3 := { base := own 0x5000, kstr := 1, rowstr := 0 }, w4 := { base := own 0x6000, kstr := 1, rowstr := 0 } }
/-- Its partial is 3, its entry 1.0, and its scales 2^0 and 2^1. -/
def sacc : State :=
  ((leasing (at_ .mx saccCb .body (leBytes 4 3) (leBytes 4 0x3F800000) [])).putBytes (gTile 0 0x5000) [127]).putBytes (gTile 0 0x6000) [128]
theorem test_witness_sacc : sacc.lastStep 0 .mx 0x33 (jobAt .mx saccCb) ∧ saccCb.saccBlocks = 1 ∧ saccCb.nc = 1 ∧
    mxFmt saccCb.saccFmts.1 ≠ none ∧ mxFmt saccCb.saccFmts.2 ≠ none ∧ sacc.unitReady 0 .mx = true ∧ sacc.clean ∧
    (jobAt .mx saccCb).reaches sacc saccCb.w0 0 4 (gTile 0 0x2000) ∧ (jobAt .mx saccCb).reaches sacc saccCb.w1 0 4 (gTile 0 0x3000) :=
  ⟨lastStep_of (by decide) (by decide) (by decide) (by decide) (by decide), by decide, by decide, by decide, by decide, by decide,
   ⟨by decide, by decide⟩, reaches_of (a := own 0x2000) (by rfl) (by decide), reaches_of (a := own 0x3000) (by rfl) (by decide)⟩
set_option exponentiation.threshold 400 in
set_option maxRecDepth 4000 in
theorem test_mx_sacc : gives (exec (.mxSacc 0) sacc) (fun t => t.num (gTile 0 0x3000) 4 == 0x40E00000 && ended .mx 1 t) := by decide

set_option maxRecDepth 100000 in
theorem test_witness_image : (match parseImage ([0x46, 0x43, 0x55, 0x4E, 1, 0] ++ List.replicate 16698 0) with
    | .ok m => m.femask == 0 | .error _ => false) = true := by decide +kernel
/-- The descriptor of `patchBytes`. -/
def patch0 (clamp : Bool) (src max : Nat) : Patch :=
  { toff := 1, foff := 28, wid := 4, skind := 0, clamp, mult := 3, src := BitVec.ofNat 64 src, add := -1, max := max }
theorem test_witness_patch_list : ((patching 0 7 10).job 0 .st).isSome = true ∧ (patching 0 7 10).unacked 0 .st = false ∧
    patchOf true ((patchBytes 0 7 10).drop 32) = some (patch0 false 7 10) ∧ ownSpan (own 0x5000) 64 ∧
    ownSpan (own 0x100 + BitVec.ofInt 64 284) 4 ∧ (patching 0 7 10).clean ∧ ((patching 0 7 10).engine 0 .st).queue.head? ≠ none ∧
    (own 0x700 ≠ 0 ∧ ((patching 0 7 10).engine 0 .st).queue.find? (fun d => d.head == own 0x700) = none) :=
  ⟨by decide, by decide, by decide, ⟨by decide, by decide, by decide⟩, ⟨by decide, by decide, by decide⟩, ⟨by decide, by decide⟩, by decide,
   ⟨by decide, by decide⟩⟩
set_option maxRecDepth 4000 in
theorem test_witness_cb_fetch : (fetchable nopCb).clean ∧ ownSpan (own 0x100) 256 ∧ (fetchable nopCb).isPair 0 = false ∧
    ((fetchable nopCb).checkCb 0 .ld (own 0x100) nopCb) = none ∧ (fetchable nopCb).timedCb 0 nopCb = false ∧ nopCb.zeroTrip = false :=
  ⟨⟨by decide, by decide⟩, ⟨by decide, by decide, by decide⟩, by decide, by decide, by decide, by decide⟩
/-- Engine gr has the CB that GCFG forms for slot 1. -/
def imaged (a : Word) : State := (regs []).modEngine 0 .gr fun y =>
  { y with queue := [{ chain0 with head := a, next := a, last := false, image := some 1 }], issued := 1 }
theorem test_gcfg_starts : gives (exec (.cbFetch 0 .gr) (imaged (own 0x40))) (fun t => decide ((t.engine 0 .gr).stage = .body) &&
    (t.engine 0 .gr).cur.map (fun f => f.cb.op) == some 0x40) := by decide
/-- Engine st is due to store a RESW of 9 for a control block at 0x100 that reports residency. -/
def reporting : State :=
  (at_ .st { block 0x01 with w0 := { win (own 0x2000) 0x14 with wfl := 8 } } .signal [] [] []).modEngine 0 .st fun x => { x with resw := 9 }
theorem test_header_signal_resw : ({ block 0x01 with w0 := { win (own 0x2000) 0x14 with wfl := 8 } } : CB).reports = true ∧
    ownSpan (own 0x100 + 0xFC) 4 ∧
    gives (exec (.headerSignal 0 .st) reporting) (fun t => t.num (gTile 0 0x1FC) 4 == 9 && (t.engine 0 .st).cur.isNone) :=
  ⟨by decide, ⟨by decide, by decide, by decide⟩, by decide⟩
/-- The write of `onWay` names region 31 of a tile that has none. -/
def unbound : State := { onWay false with transit := (onWay false).transit.map fun x => { x with pieces := x.pieces.map fun p => { p with rgn := 31 } } }
theorem test_remote_write_unbound : (unbound.transit.map fun x => (unbound.strayPiece x).isSome) = [true] ∧
    gives (exec (.remoteWriteArrival 0) unbound) (fun t => engRaised .ld .badaddr 0xF100010000000008 t && t.transit.isEmpty &&
      t.bytes (gTile 1 8) 4 == [0, 0, 0, 0]) := by decide
/-- A task that no die can place comes before one that fits. -/
def passedOver : State :=
  { State.reset with
      tasks := [(0, { ready1 with prio := 7, path := [{ rcb := 8, place := none, bytes := [], tiles := some 0, galb := none, hbws := none, quant := none }] }), (1, { ready1 with order := 1 })],
      nextTask := 2, tiles := [(0, { Tile.reset with task := some 7 })] }
theorem test_place_task_passes : (passedOver.readyList 0).map (fun p => p.1) = [0, 1] ∧
    gives (exec (.placeTask 0) passedOver) (fun t => (t.task? 1).map (fun k => k.state) == some .loading) := by decide
/-- The lead of die 1 has a report of tick 0 to record. -/
def reported : State :=
  let r : EventRec := { seqno := 0, cause := 0, src := 7, ptile := 256, ctx := 0, val := 5, loc := 2 }
  { (State.reset.modDie 1 fun d => { d with reports := [(r, 0)] }) with tick := 2 }
theorem test_report_recorded : reported.arrives 16 (8 * 256 + 7) 0 = true ∧
    gives (exec (.eventRecord 256 7) reported) (fun t => (t.die 1).reports.isEmpty && (t.cluster 16).seqno == 1 &&
      (t.cluster 16).queue.map (fun r => r.val) == [5]) := by decide
theorem test_witness_events : (trapped .align false).arriving 0 = [(0, 0)] ∧
    ((trapped .align true).findSrc 0 0).map (fun x => x.1) = some 0 ∧ ((trapped .align true).tile 0).waitingEvent 0 ≠ none := by decide
-- R351: a run that has faulted is not resumed.
theorem test_resume_dead : gives (exec (.actionResume 0 3) ((eventful 3 .badaddr true (regs [])).modEngine 0 .gr fun x => { x with block := .dead }))
    (fun t => decide ((t.engine 0 .gr).block = .dead) && (t.tile 0).events.length == 1) := by decide
theorem test_end_context : gives (exec (.actionEnd 0 0 0x02) { (trapped .align true).modTask 0 fun k => { k with fdom := .context } with
      tasks := [(0, { Task.one 0 0 with fdom := .context }), (1, ready1)] })
    (fun t => ((t.task? 1).bind fun k => k.ending) == some (0x0032, 0x02)) := by decide
/-- A call whose argument lies in the caller's memory. -/
def arguing0 (e : Nat) (l : List Byte) : State := (calling e (own 0x40)).putBytes (gTile 0 0x40) l
theorem test_witness_arguments : (arguing0 3 ringBytes).clean ∧ ownSpan (own 0x40) 64 ∧ (arguing0 3 ringBytes).argParked (.live 0) 0 0 (own 0x40) = false ∧
    spansZero (own 0x40 + 63) = true ∧ tagOf (own 0x40 + 63) = tagOf (own 0x40) ∧
    gives (exec (.rxring 0) (arguing0 3 ringBytes)) (fun t => replied 0 (some 0) t && t.io.rxRings.length == 1) ∧
    tagKnown 0xF300000000000000 = false ∧ gives (exec (.netwin 0) (calling 4 0xF300000000000000)) (replied 3 none) ∧
    gives (exec (.txring 0) (calling 6 0x40)) (replied 3 none) :=
  ⟨⟨by decide, by decide⟩, ⟨by decide, by decide, by decide⟩, by decide, by decide, by decide, by decide, by decide, by decide, by decide⟩
set_option maxRecDepth 4000 in
theorem test_witness_refetch : lostSlot.clean ∧ ownSpan (own 0x1000) 256 ∧ (cbOf (lostSlot.bytes (gTile 0 0x1000) 256)) = filler ∧
    filler.port = 0 ∧ filler.w1.ring = true ∧ filler.hz = false ∧ lastBelow filler.bounds [0, 0, 0, 0, 0, 0] filler.rlvl.toNat = true ∧
    filler.fillUnit.length = 4 ∧ filler.trips = 1 ∧ (lostSlot.engine 0 .ld).block ≠ .parked ∧ lostSlot.parkedSrc 0 (engSrc .ld) = false :=
  ⟨⟨by decide, by decide⟩, ⟨by decide, by decide, by decide⟩, by decide, by decide, by decide, by decide, by decide, by decide, by decide, by decide,
   by decide⟩
-- R62: an entry of an earlier ENABLE holds a DRAIN back; R61: the predecessors of a launch have completed.
theorem test_drain_waits : gives (exec (.drainComplete 0) (queued0 { active with era := 1, entries := [{ entry0 .mark true [7] with era := 0 },
    { entry0 .drain false [] with era := 1, seq := 6 }] } [])) (fun _ => true) = false := by decide
theorem test_predecessor_launch : gives (exec (.predecessorComplete 0 5) { accepted (entry0 (.launch 3) true [0]) 0x0010 with
      tasks := [(3, { ready1 with state := .waiting })], nextTask := 4 }) (fun t => (t.task? 3).map (fun k => k.state) == some .ready) ∧
    gives (exec (.predecessorComplete 0 5) { accepted (entry0 (.launch 3) true [0]) 0x0010 with
      tasks := [(3, { ready1 with state := .waiting, ending := some (0x0033, 0) })], nextTask := 4 }) (fun _ => true) = false := by decide
theorem test_votes_entries : gives (exec (.voteDisagree .commandProcessors false) (accepted (entry0 (.launch 3) false []) 0x0010)) (fun t =>
      (t.queue 0).entries.isEmpty && (t.queue 0).finished.head? == some (0, 1, 0x00FF)) ∧
    gives (exec (.voteDisagree .commandProcessors false) (accepted (entry0 .drain true [0]) 0x0010)) (fun t =>
      (t.queue 0).entries.length == 1) := by decide
theorem test_roce_sequence : gives (exec (.roceInbound (request 7 4 (.read 4))) { windowed with io := { windowed.io with
      inPsn := [(qpKey 0 1, 1)] } }) (fun t => t.io.answers == [[3]]) ∧
    gives (exec (.roceInbound (request 7 4 (.read 4))) { windowed with io := { windowed.io with inPsn := [(qpKey 0 1, 2)] } })
      (fun t => t.io.inPsn == [(qpKey 0 1, 3)]) := by decide
/-- A store of tile 0's core to a page under key 7 of die 0, whose line has used all its minors, is on its way. -/
def overflowing : State :=
  (((flying (.std 6 5 0) .flight (.store 8 5) 0x40 none 0).mapPage 0 0 0).putBytes (gDie 0 (loadTable 3))
    (leBytes 8 (loadPage / 4096 * 2 ^ 22 + 7 * 2 ^ 12 + 31))).modDie 0 fun d =>
      { d with keys := [(7, 1)], ctrs := [(0x110, { major := 1, minors := [(1, 127)] })],
               metaCache := [0, 1, 2, 3].map fun l => treeKey l (ctrlOf 0x110000) (pageIx 0x110000 / 8 ^ l) }
set_option maxRecDepth 4000 in
theorem test_witness_reencrypt : overflowing.tiles.any (fun p => overflowing.overflows (BitVec.ofNat 10 p.1) 0 0x110 7) = true ∧
    kfind (overflowing.die 0).keys 7 = some 1 ∧ inHbm 0x110000 4096 = true ∧ ((overflowing.die 0).ctr 0x110).major = 1 ∧
    (overflowing.die 0).quarantined 0x110000 = false ∧ verifyWrite (overflowing.die 0) 0 0x110000 = none := by decide

/-! ### Accesses of virtual memory and of peers -/

/-- A store to 0x40, whose page is at 0x110000 of die 0, and the doubleword that stands there. -/
def virtual : State := ((regs [(4, 9), (5, 0x40), (6, 5)]).mapPage 0 0 0).putBytes (gDie 0 (loadPage + 0x40)) (leBytes 8 9)
/-- What stands at 0x40 of the page. -/
def virtualNum (n : Nat) (t : State) : Nat := t.num (gDie 0 (loadPage + 0x40)) n

theorem finds_of {s : State} {ea : Word} {kind : AccKind} {zf : Bool} {n g : Nat} {l : Word} (d pa : Nat) (m : g % n = 0)
    (h : (s.locate s.me ea kind zf).2.1 = .die d pa l) (hg : g = gDie d pa) (hk : pteKey l = 0)
    (hq : ((s.locate s.me ea kind zf).1.die d).quarantined pa = false) :
    s.finds ea kind zf n g (s.locate s.me ea kind zf).1 :=
  ⟨m, .inr ⟨(s.locate s.me ea kind zf).2.2, d, pa, l, by rw [← h], hg, hk, hq⟩⟩
/-- The place of an access of 8 bytes at 0x40. -/
def foundAt (s : State) (kind : AccKind) (zf : Bool) : Option (Nat × Nat × Byte) :=
  match (s.locate s.me 0x40 kind zf).2.1 with
  | .die d pa l => some (d, pa, pteKey l)
  | _ => none
theorem test_witness_virtual : foundAt virtual .write true = some (0, loadPage + 0x40, 0) ∧
    foundAt virtual .read true = some (0, loadPage + 0x40, 0) ∧ foundAt virtual .rmw false = some (0, loadPage + 0x40, 0) ∧
    gDie 0 (loadPage + 0x40) % 8 = 0 ∧ Memory.wf (virtual.locate virtual.me 0x40 .write true).1.mem = true ∧
    virtual.localCheck 0 0x40 8 = none ∧ virtual.sends 0x40 ∧ virtual.freshSource 0x40 ∧ (virtual.tile 0).pending = 0 ∧
    virtual.failing = [] ∧ virtual.recMode 0 = 0 ∧ virtual.tagged 0x40 false = virtual ∧ virtual.outsideByteRegions 0x40 8 :=
  ⟨by decide, by decide, by decide, by decide, by decide, by decide, sends_of (by decide) (by decide),
   ⟨by decide, by decide, by decide⟩, by decide, by decide, by decide, by decide,
   outside_of (by intro Q h; rw [show virtual.tileAt virtual.cur 0x40 = none by decide] at h; cases h)⟩
theorem test_virtual_store : gives (exec (.std 6 5 0) virtual) (fun t => virtualNum 8 t == 5 && t.pc == 0x104) ∧
    gives (exec (.stb 6 5 1) virtual) (fun t => virtualNum 8 t == 0x509) ∧
    gives (exec (.stRel 6 5 0x3F) virtual) (fun t => virtualNum 8 t == 5 && t.pc == 0x104) := by decide
theorem test_virtual_atomics : gives (exec (.amoAdd 4 5 6 0) virtual) (fun t => holds 4 9 t && virtualNum 8 t == 14) ∧
    gives (exec (.amoCas 4 5 6 0) virtual) (fun t => holds 4 9 t && virtualNum 8 t == 5) ∧
    gives (exec (.fredAdd 1 5 6 0) virtual) (fun t => t.pc == 0x104) ∧
    gives (exec (.ldAcq 3 5 8) virtual) (holds 3 9) ∧ gives (exec (.waitNe 3 5 6 0) virtual) (holds 3 9) := by decide
/-- What a store of 8 bytes at 0x40 comes to. -/
def stored (s : State) : Put := (s.writeVa s.me 0x40 (leBytes 8 5) true).2.1
/-- As `virtual`, with a leaf of low bits `b` that is not resident. -/
def gone (b : Nat) : State := virtual.putBytes (gDie 0 (loadTable 3)) (leBytes 8 (loadPage / 4096 * 2 ^ 22 + b))
theorem test_store_outcomes : stored virtual = .done ∧ stored (gone 6) = .park 0 ∧ stored (gone 0x26) = .zero ∧
    stored (gone 1) = .trap .prot ∧
    gives (exec (.std 6 5 0) (gone 6)) (waits .parked) ∧ gives (exec (.std 6 5 0) (gone 0x26)) (fun t => (t.core 0).resf == 1 && t.pc == 0x104) ∧
    gives (exec (.std 6 5 0) (gone 1)) (raised .prot 0x40) ∧
    gives (exec (.amoAdd 4 5 6 0) (gone 0x26)) (waits .parked) ∧ gives (exec (.ldAcq 4 5 0) (gone 0x26)) (holds 4 0) ∧
    gives (exec (.amoAdd 4 5 6 0) { virtual with poison := [lineOf (gDie 0 (loadPage + 0x40))] }) (raised .poison 0x40) := by decide
/-- s5 names owner 5, where context 0 has no window. -/
def peered : State := (regs [(4, 9), (5, 0x00A0000000000000), (6, 5)])
theorem test_peer_refused : gives (exec (.std 6 5 0) peered) (raised .badaddr 0x00A0000000000000) ∧
    gives (exec (.amoAdd 4 5 6 0) peered) (raised .badaddr 0x00A0000000000000) := by decide
/-- An atomic of the memory of another tile, on the same die. -/
def besideTile : State :=
  ((regs [(4, 7), (5, 0xF100010000000008), (6, 5)]).modTask 0 fun k =>
    { k with tileMap := [(0, 0x8000), (1, 0x8001)], image := { k.image with vgrid := 2 } }).putBytes (gTile 1 8) [9]
theorem test_atomic_other_tile : gives (exec (.amoSwap 4 5 6 0) besideTile) (fun t => holds 4 9 t && t.num (gTile 1 8) 8 == 5 && (t.tile 1).wake) ∧
    gives (exec (.amoCas 4 5 6 0) besideTile) (fun t => holds 4 9 t && t.num (gTile 1 8) 8 == 9 && !(t.tile 1).wake) := by decide

/-! ### Iterations before the last -/

/-- LD.COPY of four units from W0 to W1. -/
def copies : CB :=
  { block 0x10 with bnd := (Vector.replicate 6 0).set 0 4, w0 := { win (own 0x2000) 0x14 with str := (Vector.replicate 6 0).set 0 4 },
                    w1 := { win (own 0x3000) 0x14 with str := (Vector.replicate 6 0).set 0 8 } }
/-- Its source. -/
def copied : List Byte := [1, 2, 3, 4, 5, 6, 7, 8, 9, 10, 11, 12, 13, 14, 15, 16]
theorem test_ld_copy_shares : gives (exec (.ldCopy 0) (at_ .ld copies .body copied [] [])) (fun t =>
    t.bytes (gTile 0 0x3000) 4 == four && t.bytes (gTile 0 0x3018) 4 == [13, 14, 15, 16] && ended .ld 4 t) := by decide
theorem linesTrue_of {s : State} {P : TileId} {e : Eng} (h : (s.engine P e).lines = []) : s.linesTrue P e := by
  intro l hl; rw [h] at hl; exact absurd hl (by simp)
theorem test_witness_some_step : (at_ .ld copies .body copied [] []).someStep 0 .ld 0x10 (jobAt .ld copies) ∧
    (jobAt .ld copies).after 3 = some { jobAt .ld copies with idx := [3, 0, 0, 0, 0, 0] } ∧ (jobAt .ld copies).after 4 = none :=
  ⟨⟨⟨by decide, by decide, by decide, by decide, by decide, by decide, fun _ => by decide, .inl ⟨by decide, by decide⟩⟩, by decide, by decide,
    by decide, by decide, by decide, by decide, by decide, by decide, linesTrue_of (by decide), trivial, fun _ => by decide, by decide⟩,
   by decide, by decide⟩
theorem test_witness_moves (s : State) : (jobAt .ld copies).moves s [(gTile 0 0x3000, s.bytes (gTile 0 0x2000) 4)] 1 :=
  ⟨gTile 0 0x2000, gTile 0 0x3000, reaches_of (a := own 0x2000) (by rfl) (by decide), reaches_of (a := own 0x3000) (by rfl) (by decide), rfl, rfl⟩
/-- LD.FILL of a ring slot of 64 bytes whose slot is held. -/
def ringFill : CB :=
  { block 0x15 with bnd := ((Vector.replicate 6 0).set 0 16).set 1 2, depth := 2, rwin := 1, rlvl := 1, parm := 0x04030201,
                    w1 := { win (own 0) 0x14 with wfl := 1, rgn := 31, str := (Vector.replicate 6 0).set 0 4 } }
/-- Its engine at the first iteration of slot 5. -/
def ringFilling : State :=
  ((at_ .ld ringFill .body [] [] []).setRegion 0 31 heldRegion).modEngine 0 .ld fun y =>
    { y with ring := some { tile := 0, rid := 31, slot := 5, fill := 5, checked := false }, slots := 1 }
set_option maxRecDepth 4000 in
theorem test_ring_fill : gives (exec (.ldFill 0) ringFilling) (fun t => t.bytes (gTile 0 384) 64 == (List.replicate 16 four).flatten &&
    t.bytes (gTile 0 448) 4 == [0, 0, 0, 0]) := by decide
theorem test_witness_ring : ringFilling.loops 0 .ld 0x15 (jobAt .ld ringFill) ∧ (jobAt .ld ringFill).cb.consumes = false :=
  ⟨⟨by decide, by decide, by decide, by decide, by decide, by decide, fun _ => by decide,
    .inr ⟨{ tile := 0, rid := 31, slot := 5, fill := 5, checked := false }, by decide, by decide, .inl (by decide)⟩⟩, by decide⟩
/-- ST.MIGR at line 5. -/
def migrating : State := (migr.putBytes (gDie 0 0x10140) four).modEngine 0 .st fun y => { y with idx := (Vector.replicate 6 0).set 0 5 }
theorem test_st_migr_goes_on : gives (exec (.stMigr 0) migrating) (fun t => t.bytes (gDie 0 0x20140) 4 == four &&
    (t.engine 0 .st).idx[0] == 6 && decide ((t.engine 0 .st).stage = .body)) := by decide

/-! ### Conditions of one tick, of throttling and of pairs -/

/-- A signal of another agent reached semaphore 2 in this tick, when it was 9. -/
def signalled : State := (sems [(2, 9)] [(5, 7)]).semArrive 0 2 3
-- R103: the core comes first.
theorem test_same_tick : (signalled.semRecent 0 2).map (fun e => (e.base, e.adds)) = some (9, [3]) ∧ signalled.sem 0 2 = 12 ∧
    gives (exec (.semrd 4 2) signalled) (holds 4 9) ∧ gives (exec (.semset 5 2) signalled) (fun t => t.sem 0 2 == 10) ∧
    gives (exec (.semset 5 2) { signalled with tick := 1 }) (fun t => t.sem 0 2 == 7) := by decide
-- R467: die 0 is held in the first tick of 16 at level 1; R468: nothing happens on a die without power.
theorem test_held_die : ((regs []).modDie 0 fun d => { d with throttle := 1 }).heldOp (.cbNop 0 .st) = true ∧
    ({ (regs []).modDie 0 fun d => { d with throttle := 1 } with tick := 1 }).heldOp (.cbNop 0 .st) = false ∧
    ({ (regs []).modDie 0 fun d => { d with throttle := 1 } with tick := 1 }).coreRuns 0 = true ∧
    ((regs []).modDie 0 fun d => { d with throttle := 1 }).coreRuns 0 = false ∧
    ([0, 1, 2, 3].foldl (fun (s : State) d => s.modDie d fun x => { x with powered := false }) (regs [])).dark = true ∧
    offDie .coldReset = true := by decide
theorem test_ticks_between : (State.reset.modDie 0 fun d => { d with steps := [(16, 1)] }).between 0 0 48 = 46 ∧
    State.reset.between 0 3 48 = 45 ∧
    ({ State.reset.modDie 0 fun d => { d with steps := [(0, 1)] } with tick := 65536 }).passed 0 0 65536 = false := by decide
theorem test_throttle_down : gives (exec (.thermalStep 1 false) { State.reset.modDie 1 fun d =>
      { d with throttle := 2, coolFrom := some 0 } with tick := 13000000 }) (fun t => (t.die 1).throttle == 1) ∧
    gives (exec (.thermalStep 1 false) { State.reset.modDie 1 fun d => { d with throttle := 2, coolFrom := some 0 } with tick := 12999999 })
      (fun _ => true) = false := by decide
-- R458: the order comes too late.
theorem test_order_dropped : (saving.modCore 0 fun c => { c with run := .halted }).allHalted ((Task.one 0 0)) = true ∧
    gives (exec (.preemptArrival 0) (saving.modCore 0 fun c => { c with run := .halted })) (fun t =>
      (t.task? 0).map (fun k => k.state) == some .running && !(t.tile 0).stopped) := by decide
-- R87: another tile's read of the size is parked.
theorem test_chsel_asked : gives (exec (.chselAdv 4) (((phases [(1, 1)] (own 8)).modTask 0 fun k => { k with tileMap := [(0, 0x8000), (1, 0x8001)] }).modCore 1
      fun c => { c with phase := 1, run := .waiting (.chselAdv 4) .parked 0 })) (waits .phase) := by decide
-- R435: requests have differed.
theorem test_mismatch : gives (exec (.pairCompareTimeout 0) ((paired 0).modTask 0 fun k => { k with mismatch := some 0 })) (fun t =>
    ((t.task? 0).bind fun k => k.ending) == some (0x0031, 0)) := by decide
-- R461: a block that has raised SLIP adds nothing to its tile's lateness.
theorem test_slipped_counts_nothing : gives (exec (.timedStart 0 .st) ((starting 2 107 false 2).modEngine 0 .st fun x => { x with slipped := true }))
    (fun t => (t.engine 0 .st).lateCount == 0 && (t.engine 0 .st).lateSum == 0 && decide ((t.engine 0 .st).stage = .body)) := by decide
-- R91: the eight ticks of a hand-over, and the 65,536 of a lease, are ticks that are not held.
theorem test_lease_held_ticks : (leases (.switch 3 4992) 8).passed 0 4992 8 = true ∧ (leases (.switch 3 4993) 8).passed 0 4993 8 = false := by decide
-- R395: BARA over a link waits while the unit's die holds 4,096 requests of the source.
theorem test_cross_full : (arrivals (.cluster 0 0 3) 0 1 2 false).crossFull 0 ((arrivals (.cluster 0 0 3) 0 1 2 false).unitDie 0 (.cluster 0 0 3)) = false ∧
    State.crossFull (regs []) 0 0 = false := by decide
-- R471: stage 2 checks the staged images again, and stage 6 the Prapisen image that runs.
theorem test_stage_checks : gives (exec (.resetStage true) { State.reset with io := { IoDie.reset with stage := 1, staged := [imageOf []] } })
      (fun t => t.io.failed && t.io.mgmt == [[2, 2]]) ∧
    gives (exec (.resetStage true) { State.reset with io := { IoDie.reset with stage := 1 } }) (fun t => t.io.stage == 2 &&
      t.io.identity.length == 2) ∧ (IoDie.reset.stageFails 6 true) = none := by decide
theorem test_stage_six : gives (exec (.resetStage true) { State.reset with io := { IoDie.reset with stage := 5, running := [{ imageOf [] with kind := 2 }] } })
    (fun t => t.io.failed && t.io.mgmt == [[6, 3]]) = true := by decide +kernel
-- R249: a quarantined line is poison for a load under KEYID 0, and takes no store.
theorem test_quarantine : ((virtual.modDie 0 fun d => { d with quarantine := [(0, 136)] }).die 0).quarantined (loadPage + 0x40) = true ∧
    gives (exec (.ldd 4 5 0) (virtual.modDie 0 fun d => { d with quarantine := [(0, 136)] })) (raised .poison 0x40) ∧
    gives (exec (.std 6 5 0) (virtual.modDie 0 fun d => { d with quarantine := [(0, 136)] })) (fun t => virtualNum 8 t == 9) := by decide

end Sys2Proof.Tests
end

/-! # Launching work: reset, the host's registers, queues and the network

Proofs of the statements O4, O51 to O54 and O57. -/

namespace Sys2Proof.Machine

/-! ### The state after reset -/

/-- Settles O4: nothing is listed after reset, so every view gives its reset value, and the laws of memory give the rest. -/
theorem resetState : Obligations.ResetState := by
  refine ⟨rfl, fun _ => rfl, rfl, fun d => ⟨rfl, rfl, rfl, rfl, rfl, fun j hj => ?_⟩, fun _ => rfl, rfl, rfl, rfl,
    fun _ => ⟨rfl, rfl, rfl⟩, fun _ => ⟨rfl, rfl⟩, rfl, rfl, fun m a b v w => ⟨memSet_wf w, memGet_memSet w⟩⟩
  have zero : at4 Clock.zero j = 0 := by simp [at4, Clock.zero]
  exact ⟨zero, zero⟩

/-! ### The host's registers -/

theorem devstat_bits (s : State) :
    s.devstat.extractLsb' 3 61 = 0 ∧ s.devstat.getLsbD 2 = s.io.lost ∧ s.devstat.getLsbD 1 = !s.resync.isEmpty ∧
      s.devstat.getLsbD 0 = s.io.ready := by
  unfold State.devstat
  cases s.io.lost <;> cases s.resync.isEmpty <;> cases s.io.ready <;> decide

/-- The fields of QCMD, as the host reads them (R51). -/
theorem qcmd_word_fields (c : QCmd) :
    let w : Word := c.word.zeroExtend 64
    w.extractLsb' 32 32 = 0 ∧ w.extractLsb' 30 2 = c.op ∧ w.getLsbD 29 = c.busy ∧ w.extractLsb' 12 17 = 0 ∧
      w.extractLsb' 10 2 = c.res ∧ w.extractLsb' 0 10 = c.qidx := by
  obtain ⟨op, busy, res, qidx⟩ := c
  refine ⟨?reserved, ?op, ?busy, ?zeros, ?res, ?qidx⟩
  case busy => simp [QCmd.word]; grind
  all_goals ext i hi; simp [QCmd.word]
  all_goals grind

/-- OP of a write of QCMD, as a number (R51). -/
theorem qcmd_op_eq {v : Word} {n : Nat} (hn : n < 4) : v.extractLsb' 30 2 = BitVec.ofNat 2 n ↔ v.toNat / 2 ^ 30 % 4 = n := by
  rw [← BitVec.toNat_inj, BitVec.extractLsb'_toNat, BitVec.toNat_ofNat, Nat.shiftRight_eq_div_pow]
  omega

/-- A write of QCMD by the host is the command that its OP names, and nothing when it names none (R51). -/
theorem exec_bar0Write_qcmd (v : Word) (s : State) :
    (v.toNat / 2 ^ 30 % 4 = 1 → exec (.bar0Write 0x100 v) s = exec (.qcmdEnable (v.extractLsb' 0 10)) s) ∧
    (v.toNat / 2 ^ 30 % 4 = 2 → exec (.bar0Write 0x100 v) s = exec (.qcmdDisable (v.extractLsb' 0 10)) s) ∧
    (v.toNat / 2 ^ 30 % 4 = 0 ∨ v.toNat / 2 ^ 30 % 4 = 3 → exec (.bar0Write 0x100 v) s = .next s) := by
  have one : v.extractLsb' 30 2 = 1#2 ↔ v.toNat / 2 ^ 30 % 4 = 1 := qcmd_op_eq (by decide)
  have two : v.extractLsb' 30 2 = 2#2 ↔ v.toNat / 2 ^ 30 % 4 = 2 := qcmd_op_eq (by decide)
  have byOp : exec (.bar0Write 0x100 v) s =
      if v.extractLsb' 30 2 = 1#2 then exec (.qcmdEnable (v.extractLsb' 0 10)) s
      else if v.extractLsb' 30 2 = 2#2 then exec (.qcmdDisable (v.extractLsb' 0 10)) s else .next s := rfl
  simp only [byOp, one, two]
  refine ⟨fun h => if_pos h, fun h => ?_, fun h => ?_⟩
  · rw [if_neg (by omega), if_pos h]
  · rw [if_neg (by omega), if_neg (by omega)]

/-- An offset of BAR0 with no register to write ignores a write (R49). -/
theorem exec_bar0Write_unlisted {off : BitVec 32} (v : Word) (s : State) (hq : off ≠ 0x100) (hf : off ≠ 0x208) (hs : off ≠ 0x210) :
    exec (.bar0Write off v) s = .next s := by
  show execBar0Write off v s = .next s
  simp only [execBar0Write]
  rw [if_neg hq, if_neg hf, if_neg hs]

/-- A read of BAR0 beside PTPTIME answers with the register at its offset (R49). -/
theorem perform_bar0Read {off : BitVec 32} (s : State) (hl : off ≠ 0x200) (hh : off ≠ 0x204) :
    perform (.bar0Read off) s = .next { s with
      free := s.free + 1, io := { s.io with answers := s.io.answers ++ [leBytes 8 (s.bar0 off).toNat] } } := by
  simp only [perform, Act.offDie, performLit, State.bar0Read, Bool.not_true, Bool.and_false, Bool.false_eq_true, if_false]
  rw [if_neg hl, if_neg hh]

/-- Before READY every register but DEVSTAT reads zero (R471). -/
theorem bar0_not_ready {s : State} {off : BitVec 32} (h : s.io.ready = false) (hd : off ≠ 0x008) : s.bar0 off = 0 := by
  rw [State.bar0, if_neg hd, if_pos h]

theorem bar0_ready {s : State} (h : s.io.ready = true) :
    s.bar0 0x000 = s.io.qtbase ∧ s.bar0 0x100 = s.io.qcmd.word.zeroExtend 64 ∧ s.bar0 0x208 = s.io.ptpfreq.zeroExtend 64 := by
  simp [State.bar0, h]

theorem bar0_unlisted (s : State) {off : BitVec 32} (h0 : off ≠ 0x000) (hd : off ≠ 0x008) (hq : off ≠ 0x100) (hf : off ≠ 0x208)
    (hs : off ≠ 0x210) : s.bar0 off = 0 := by
  simp only [State.bar0, if_neg h0, if_neg hd, if_neg hq, if_neg hf, if_neg hs, ite_self]

theorem exec_ptptimeRead_ready {s : State} (h : s.io.ready = true) :
    exec (.ptptimeRead false) s = .next { s with io := { s.io with
      ptpLatch := s.timeNs.extractLsb' 32 32, answers := s.io.answers ++ [leBytes 4 (s.timeNs.toNat % 2 ^ 32)] } } ∧
    exec (.ptptimeRead true) s = .next { s with io := { s.io with
      answers := s.io.answers ++ [leBytes 4 s.io.ptpLatch.toNat] } } := by
  have low : (s.timeNs.extractLsb' 0 32).toNat = s.timeNs.toNat % 2 ^ 32 := by simp [BitVec.extractLsb'_toNat]
  constructor
  · show execPtptimeRead false s = _
    rw [execPtptimeRead, if_neg (by simp [h]), if_neg Bool.false_ne_true, low]
    rfl
  · show execPtptimeRead true s = _
    rw [execPtptimeRead, if_neg (by simp [h]), if_pos rfl]
    rfl

theorem exec_ptptimeRead_not_ready {s : State} (h : s.io.ready = false) (high : Bool) :
    exec (.ptptimeRead high) s = .next { s with io := { s.io with answers := s.io.answers ++ [[0, 0, 0, 0]] } } := by
  show execPtptimeRead high s = _
  rw [execPtptimeRead, if_pos h]
  rfl

/-- Settles O52: each clause is the equation of one register above. -/
theorem hostRegisters : Obligations.HostRegisters := by
  intro s f v off
  obtain ⟨enable, disable, ignore⟩ := exec_bar0Write_qcmd v s
  refine ⟨⟨_, rfl, rfl⟩, ⟨_, rfl, rfl⟩, fun h => ⟨_, (exec_ptptimeRead_ready h).1, rfl⟩, fun h => ⟨_, (exec_ptptimeRead_ready h).2, rfl⟩,
    fun h high => ⟨_, exec_ptptimeRead_not_ready h high, rfl⟩, fun hq hf hs => ⟨s, exec_bar0Write_unlisted v s hq hf hs, rfl⟩,
    fun h => ⟨s, ignore h, rfl⟩, ⟨_, rfl, rfl⟩, ⟨_, rfl, rfl⟩, fun t h => by rw [enable h], fun t h => by rw [disable h],
    fun hl hh hs => ⟨_, s.bar0 off, perform_bar0Read s hl hh, rfl, bar0_not_ready, fun h => ⟨?_, ?_⟩, ?_, ?_,
      fun h0 hd hq hf => bar0_unlisted s h0 hd hq hf hs⟩⟩
  · rintro rfl; exact (bar0_ready h).1
  · rintro rfl; exact (bar0_ready h).2.2
  · rintro rfl; exact devstat_bits s
  · rintro h rfl; rw [(bar0_ready h).2.1]; exact qcmd_word_fields s.io.qcmd
end Sys2Proof.Machine

namespace Sys2Proof.Machine

/-! ### Accesses of die 4's agents

The command processors, the rings and the peers reach memory through the accesses of tiles, but run for no tile and no task. What such
an access leaves alone follows from one law: putting the state that it works on onto another state, before or after it, is the same. -/

/-- The state `x` with all that the accesses of die 4's agents work on taken from `s`. -/
def State.onto (s x : State) : State :=
  { s with
    tasks := x.tasks,
    io := { x.io with
      outWins := s.io.outWins, outPsn := s.io.outPsn, outReqs := s.io.outReqs, atc := s.io.atc, hostHeld := s.io.hostHeld,
      known := s.io.known } }

/-- A result with its state put onto `x`. -/
def ontoRes {α : Type} (x : State) (r : State × α) : State × α := (r.1.onto x, r.2)

variable (s x : State)

@[simp] theorem ontoRes_mk {α : Type} (s x : State) (a : α) : ontoRes x (s, a) = (s.onto x, a) := rfl
@[simp] theorem ontoRes_fst {α : Type} (x : State) (r : State × α) : (ontoRes x r).1 = r.1.onto x := rfl
@[simp] theorem ontoRes_snd {α : Type} (x : State) (r : State × α) : (ontoRes x r).2 = r.2 := rfl
@[simp] theorem ontoRes_ite {α : Type} (c : Prop) [Decidable c] (x : State) (a b : State × α) :
    ontoRes x (if c then a else b) = if c then ontoRes x a else ontoRes x b := apply_ite ..
@[simp] theorem State.ite_onto (c : Prop) [Decidable c] (s t x : State) :
    (if c then s.onto x else t.onto x) = (if c then s else t).onto x := by split <;> rfl

@[simp] theorem State.onto_die (d : Nat) : (s.onto x).die d = s.die d := rfl
@[simp] theorem State.onto_poisoned (l : Nat) : (s.onto x).poisoned l = s.poisoned l := rfl
@[simp] theorem State.onto_bytes (g n : Nat) : (s.onto x).bytes g n = s.bytes g n := rfl
@[simp] theorem State.modDie_onto (d : Nat) (f : Die → Die) : (s.onto x).modDie d f = (s.modDie d f).onto x := rfl
@[simp] theorem State.putBytes_onto (g : Nat) (l : List Byte) : (s.onto x).putBytes g l = (s.putBytes g l).onto x := rfl
@[simp] theorem State.unmark_onto (l : Nat) : (s.onto x).unmark l = (s.unmark l).onto x := rfl
@[simp] theorem State.mark_onto (l : Nat) : (s.onto x).mark l = (s.mark l).onto x := by
  simp only [State.mark, State.onto_poisoned, ← State.ite_onto]; rfl
@[simp] theorem State.quarantineAt_onto (d pa lvl : Nat) : (s.onto x).quarantineAt d pa lvl = (s.quarantineAt d pa lvl).onto x := rfl
@[simp] theorem State.tagMismatch_onto (d l : Nat) : (s.onto x).tagMismatch d l = (s.tagMismatch d l).onto x := by
  simp [State.tagMismatch]
@[simp] theorem State.readCrypt_onto (d pa : Nat) (key : BitVec 256) :
    (s.onto x).readCrypt d pa key = ontoRes x (s.readCrypt d pa key) := by
  simp only [State.readCrypt, State.onto_die]
  cases verifyCtr (s.die d) d (pa / 64 * 64) with
  | none => simp
  | some lvl => simp; rfl

@[simp] theorem State.storeCrypt_onto (d pa : Nat) (key : BitVec 256) (l : List Byte) :
    (s.onto x).storeCrypt d pa key l = (s.storeCrypt d pa key l).onto x := rfl

theorem putLines_onto (d page : Nat) (key : BitVec 256) (l : List (Nat × Option (List Byte))) :
    putLines d page key l (s.onto x) = (putLines d page key l s).onto x := by
  induction l generalizing s with
  | nil => rfl
  | cons y l ih => obtain ⟨i, _ | p⟩ := y <;> simp [putLines, ih]

/-- A fold of steps that each leave `x` aside leaves it aside. -/
theorem State.foldl_onto {α : Type} {f : State → α → State} (h : ∀ u a, f (u.onto x) a = (f u a).onto x) (l : List α) :
    l.foldl f (s.onto x) = (l.foldl f s).onto x := by
  induction l generalizing s with
  | nil => rfl
  | cons a l ih => rw [List.foldl_cons, h, ih, List.foldl_cons]

@[simp] theorem State.reencrypt_onto (d page : Nat) (key : BitVec 256) :
    (s.onto x).reencrypt d page key = (s.reencrypt d page key).onto x := by
  simp only [State.reencrypt]
  rw [show oldLine (s.onto x) = oldLine s from rfl]
  simp only [State.onto_die, State.onto_poisoned]
  rw [State.foldl_onto (f := fun (u : State) (y : Nat × Option (List Byte)) => u.tagMismatch d (lineOf (gDie d (page * 4096 + 64 * y.1))))]
  · simp [putLines_onto]
  · simp

/-- A choice between two results that leave `x` aside leaves it aside. -/
theorem ite_ontoRes {α : Type} (c : Prop) [Decidable c] (x : State) (a b : State × α) :
    (if c then ontoRes x a else ontoRes x b) = ontoRes x (if c then a else b) := by split <;> rfl

@[simp] theorem State.writeCryptSegs_onto (d base : Nat) (key : BitVec 256) (segs : List (Nat × List Byte)) :
    (s.onto x).writeCryptSegs d base key segs = ontoRes x (s.writeCryptSegs d base key segs) := by
  simp only [State.writeCryptSegs, State.onto_die]
  cases verifyWrite (s.die d) d base with
  | some lvl => simp; rfl
  | none =>
    simp only [State.reencrypt_onto, State.ite_onto, State.readCrypt_onto, ← ontoRes_mk, ite_ontoRes]
    generalize (if ((s.die d).ctr (base / 4096)).minor (base / 64 % 64) = 127 then s.reencrypt d (base / 4096) key else s) = u
    generalize (if (segBytes segs == 64) = true then (u, some (List.replicate 64 (0 : Byte)), false) else u.readCrypt d base key) = r
    obtain ⟨v, _ | o, b⟩ := r <;> simp

@[simp] theorem State.writeCrypt_onto (d pa : Nat) (key : BitVec 256) (bs : List Byte) :
    (s.onto x).writeCrypt d pa key bs = ontoRes x (s.writeCrypt d pa key bs) := State.writeCryptSegs_onto ..

@[simp] theorem State.transfer_onto (l : Nat) : (s.onto x).transfer l = ontoRes x (s.transfer l) := by
  simp only [State.transfer, ontoRes_ite]; rfl

@[simp] theorem State.readOver_onto (l : Nat) (got : Got) : (s.onto x).readOver l got = ontoRes x (s.readOver l got) := by
  simp only [State.readOver, State.transfer_onto]
  obtain ⟨u, _ | _⟩ := s.transfer l <;> cases got <;> rfl

@[simp] theorem State.wroteOver_onto (l : Nat) : (s.onto x).wroteOver l = (s.wroteOver l).onto x := by
  simp only [State.wroteOver, State.transfer_onto]
  obtain ⟨u, _ | _⟩ := s.transfer l <;> simp

@[simp] theorem State.readPlain_onto (g n : Nat) : (s.onto x).readPlain g n = s.readPlain g n := rfl

@[simp] theorem State.readKeyed_onto (d pa n : Nat) (key : Byte) :
    (s.onto x).readKeyed d pa n key = ontoRes x (s.readKeyed d pa n key) := by
  simp only [State.readKeyed, State.readCrypt_onto, State.onto_die, State.readPlain_onto, ontoRes_ite, ontoRes_mk]
  obtain ⟨u, _ | l, b⟩ := s.readCrypt d pa (kget 0 (s.die d).keys key.toNat) <;> rfl

@[simp] theorem State.readDie_onto (d pa n : Nat) (leaf : Word) : (s.onto x).readDie d pa n leaf = ontoRes x (s.readDie d pa n leaf) :=
  State.readKeyed_onto ..

@[simp] theorem State.writePlain_onto (g : Nat) (bs : List Byte) : (s.onto x).writePlain g bs = (s.writePlain g bs).onto x := by
  simp only [State.writePlain, State.putBytes_onto, State.unmark_onto, State.ite_onto]

@[simp] theorem State.learnIo_onto (c : Clock) : (s.onto x).learnIo c = (s.learnIo c).onto x := rfl

@[simp] theorem State.learn_onto (h : Nat) (c : Clock) : (s.onto x).learn h c = (s.learn h c).onto x := by
  simp only [State.learn, State.onto_die, State.modDie_onto, ← State.ite_onto]; rfl

@[simp] theorem State.learnClock_onto (P : Option TileId) (o : Nat) : (s.onto x).learnClock P o = (s.learnClock P o).onto x := by
  cases P <;> simp [State.learnClock]

@[simp] theorem State.tellHolders_onto (o pa : Nat) (key : Byte) : (s.onto x).tellHolders o pa key = (s.tellHolders o pa key).onto x := by
  simp only [State.tellHolders, State.onto_die, State.modDie_onto, State.readKeyed_onto]
  split
  · generalize State.readKeyed _ _ _ _ _ = r
    obtain ⟨u, got⟩ := r
    cases got <;> exact State.foldl_onto _ _ (fun v h => by simp) _
  · rfl

@[simp] theorem State.applyUpTo_onto (c : Clock) (h : Nat) : (s.onto x).applyUpTo c h = (s.applyUpTo c h).onto x := by
  simp only [State.applyUpTo, State.onto_die, State.modDie_onto, ← State.ite_onto]; rfl

@[simp] theorem State.releaseOf_onto (X : Agent) (m : BitVec 6) (c : Clock) : (s.onto x).releaseOf X m c = (s.releaseOf X m c).onto x := by
  simp only [State.releaseOf, State.learnIo_onto, State.ite_onto]
  generalize (if (maskLeaves m && X.die.isSome) = true then s.learnIo c else s) = u
  split
  · exact State.foldl_onto u x (fun v h => by simp) _
  · cases X.die <;> simp

@[simp] theorem State.tellWritten_onto (before : Word) (d pa : Nat) (key : Byte) :
    (s.onto x).tellWritten before d pa key = (s.tellWritten before d pa key).onto x := by
  have page := State.foldl_onto s x (f := fun u i => u.tellHolders d (pa / 4096 * 4096 + 64 * i) key) (fun u i => by simp) (List.range 64)
  simp only [State.tellWritten, State.onto_die, State.tellHolders_onto, page, ← State.ite_onto]

@[simp] theorem State.writeDie_onto (d pa : Nat) (leaf : Word) (bs : List Byte) :
    (s.onto x).writeDie d pa leaf bs = ontoRes x (s.writeDie d pa leaf bs) := by
  simp only [State.writeDie, State.onto_die, State.writeCrypt_onto, State.writePlain_onto, State.tellHolders_onto, ontoRes_ite,
    ontoRes_mk]
  obtain ⟨u, r⟩ := s.writeCrypt d pa ((s.die d).keyOf leaf) bs
  cases r <;> simp

theorem walkAt_onto (d : Nat) (va : Word) (n t lvl : Nat) : walkAt (s.onto x) d va n t lvl = walkAt s d va n t lvl := by
  induction n generalizing t lvl with
  | zero => rfl
  | succ n ih => simp only [walkAt, ih]; rfl

@[simp] theorem State.walk_onto (d : Nat) (ctx : BitVec 12) (va : Word) (k : AccKind) (pkr : Word) :
    (s.onto x).walk d ctx va k pkr = ontoRes x (s.walk d ctx va k pkr) := by
  have find : (s.onto x).findPte d ctx va = s.findPte d ctx va := by simp only [State.findPte, walkAt_onto]; rfl
  simp only [State.walk, find]
  obtain ⟨w, a, n⟩ := s.findPte d ctx va
  cases w <;> simp

/-- A requester that is no tile and runs for no task: an agent of die 4, or a network peer. -/
def Who.outside (who : Who) : Prop := who.tile = none ∧ who.task = none

variable {who : Who}

theorem State.leafPlace_outside (hw : who.outside) (d : Nat) (va : Word) (k : AccKind) (leaf : Word) :
    s.leafPlace d who va k leaf = .die d (ptePfn leaf * 4096 + va.toNat % pageBytes (pteSize leaf)) leaf := by
  rw [State.leafPlace, hw.2]

theorem State.locateDie_onto (hw : who.outside) (d : Nat) (va : Word) (k : AccKind) (zf : Bool) :
    (s.onto x).locateDie d who va k zf = ontoRes x (s.locateDie d who va k zf) := by
  simp only [State.locateDie, State.onto_die, State.walk_onto, State.leafPlace_outside _ hw]
  cases (s.die d).tlbFind who.ctx va k with
  | some e => simp
  | none =>
    obtain ⟨u, w, n⟩ := s.walk d who.ctx va k who.pkr
    cases w <;> simp

theorem State.locateHost_onto (hw : who.outside) (va : Word) (k : AccKind) :
    (s.onto x).locateHost who va k = ontoRes x (s.locateHost who va k) := by
  have atc : (s.onto x).io.atc = s.io.atc := rfl
  have pages : (s.onto x).hostPages = s.hostPages := rfl
  simp only [State.locateHost, State.isTwin, hw.2, atc, pages, Bool.false_and, Bool.false_eq_true, if_false]
  cases s.io.atc.find? fun e => e.1 == who.ctx && e.2.1 == BitVec.ofNat 64 ((va.extractLsb' 0 53).toNat / 4096 * 4096) with
  | some e => rfl
  | none =>
    cases s.hostPages.find? fun e =>
      e.1 == who.ctx && e.2.1 == BitVec.ofNat 64 ((va.extractLsb' 0 53).toNat / 4096 * 4096) && e.2.2.1 <;> rfl

theorem State.locatePeer_onto (hw : who.outside) (va : Word) (k : AccKind) :
    (s.onto x).locatePeer who va k = ontoRes x (s.locatePeer who va k) := by
  have wins : (s.onto x).io.outWins = s.io.outWins := rfl
  simp only [State.locatePeer, State.isTwin, hw.2, wins, Bool.false_and, Bool.false_eq_true, if_false]
  cases kfind s.io.outWins (va.extractLsb' 45 8).toNat <;> simp

theorem State.locate_onto (hw : who.outside) (va : Word) (k : AccKind) (zf : Bool) :
    (s.onto x).locate who va k zf = ontoRes x (s.locate who va k zf) := by
  simp only [State.locate, hw.1, State.locateDie_onto s x hw, State.locateHost_onto s x hw, State.locatePeer_onto s x hw, ontoRes_ite,
    ontoRes_mk]

/-! What is left of `x` is what a state has left of itself. -/

theorem tasks_of_onto {α : Type} {s : State} {r : State × α} (h : r = ontoRes s r) : r.1.tasks = s.tasks := by rw [h]; rfl

theorem State.locate_tasks (hw : who.outside) (va : Word) (k : AccKind) (zf : Bool) : (s.locate who va k zf).1.tasks = s.tasks :=
  tasks_of_onto (State.locate_onto s s hw va k zf)

@[simp] theorem State.holdHost_onto (va : Word) (g : Nat) : (s.onto x).holdHost va g = (s.holdHost va g).onto x := by
  simp only [State.holdHost, ← State.ite_onto]; rfl

theorem State.learnTile_outside (hw : who.outside) (va : Word) : s.learnTile who va = s := by
  rw [State.learnTile, hw.1]

theorem State.rlcClear_outside (hw : who.outside) (va : Word) (d pa : Nat) : s.rlcClear who va d pa = s := by
  rw [State.rlcClear, hw.1]

theorem State.tagRead_outside (hw : who.outside) (va : Word) : s.tagRead who va = s := by
  rw [State.tagRead, hw.1]

theorem State.ticksTo_onto (hw : who.outside) (va : Word) (p : Place) : (s.onto x).ticksTo who va p = s.ticksTo who va p := by
  cases p <;> simp only [State.ticksTo, hw.1]

theorem State.askPeer_onto (hx : x.tasks = s.tasks) (P : TileId) (w : Nat) (va : Word) (op : RoceOp) :
    (s.onto x).askPeer P w va op = ontoRes x (s.askPeer P w va op) := by
  have src : (s.onto x).srcOf P = s.srcOf P := by
    simp only [State.srcOf, State.who, State.taskOf, State.task?, State.tile, State.onto, hx]
  have reqs : (s.onto x).io.outReqs = s.io.outReqs := rfl
  have wins : (s.onto x).io.outWins = s.io.outWins := rfl
  simp only [State.askPeer, src, reqs, wins]
  cases s.io.outReqs.find? fun r => r.src == s.srcOf P && r.va == va && r.op == op with
  | some r => cases kfind s.io.outWins w <;> dsimp only <;> cases r.ans <;> rfl
  | none => cases kfind s.io.outWins w <;> rfl

theorem State.writeVa_onto (hw : who.outside) (hx : x.tasks = s.tasks) (va : Word) (bs : List Byte) (zf : Bool) :
    (s.onto x).writeVa who va bs zf = ontoRes x (s.writeVa who va bs zf) := by
  have ht := State.locate_tasks s hw va .write zf
  simp only [State.writeVa, State.locate_onto s x hw]
  generalize s.locate who va .write zf = l at ht
  obtain ⟨u, place, walk⟩ := l
  have hu : x.tasks = u.tasks := hx.trans ht.symm
  cases place with
  | peer w =>
    simp only [ontoRes_mk, State.askPeer_onto u x hu, State.ticksTo_onto u x hw]
    obtain ⟨v, _ | _⟩ := u.askPeer (who.tile.getD 0) w va (.write bs) <;> rfl
  | die d pa leaf =>
    simp only [ontoRes_mk, State.rlcClear_outside _ hw, State.writeDie_onto, State.ticksTo_onto u x hw]
    obtain ⟨v, put⟩ := u.writeDie d pa leaf bs
    simp only [ontoRes_mk, State.wroteOver_onto, State.learnClock_onto]
  | _ => simp only [ontoRes_mk, State.ticksTo_onto u x hw, State.learnTile_outside _ hw, State.holdHost_onto, State.writePlain_onto,
      State.wroteOver_onto]

theorem State.writeVa_tasks (hw : who.outside) (va : Word) (bs : List Byte) (zf : Bool) : (s.writeVa who va bs zf).1.tasks = s.tasks :=
  tasks_of_onto (State.writeVa_onto s s hw rfl va bs zf)

theorem State.writeSpan_onto (hw : who.outside) (fuel : Nat) (hx : x.tasks = s.tasks) (va : Word) (bs : List Byte) :
    State.writeSpan who fuel (s.onto x) va bs = ontoRes x (State.writeSpan who fuel s va bs) := by
  induction fuel generalizing s va bs with
  | zero => rfl
  | succ fuel ih =>
    let k := min bs.length (64 - va.toNat % 64)
    have ht := State.writeVa_tasks s hw va (bs.take k) false
    simp only [State.writeSpan, State.writeVa_onto s x hw hx, ontoRes_ite, ontoRes_mk]
    congr 1
    change _ = ontoRes x (match s.writeVa who va (bs.take k) false with
      | (s, .done, _) => State.writeSpan who fuel s (va + BitVec.ofNat 64 k) (bs.drop k)
      | (s, _, _) => (s, false))
    generalize s.writeVa who va (bs.take k) false = r at ht
    obtain ⟨u, put, t⟩ := r
    cases put with
    | done => exact ih u (hx.trans ht.symm) _ _
    | _ => rfl

theorem State.agentWrite_onto (hx : x.tasks = s.tasks) (ctx : BitVec 12) (va : Word) (bs : List Byte) :
    (s.onto x).agentWrite ctx va bs = ontoRes x (s.agentWrite ctx va bs) := State.writeSpan_onto s x ⟨rfl, rfl⟩ _ hx va bs

theorem State.readVa_onto (hw : who.outside) (hx : x.tasks = s.tasks) (va : Word) (n : Nat) (k : AccKind) (zf rlc : Bool) :
    (s.onto x).readVa who va n k zf rlc = ontoRes x (s.readVa who va n k zf rlc) := by
  have ht := State.locate_tasks s hw va k zf
  simp only [State.readVa, State.readBy, hw.1, State.tagRead_outside _ hw, if_true, State.locate_onto s x hw]
  generalize s.locate who va k zf = l at ht
  obtain ⟨u, place, walk⟩ := l
  have hu : x.tasks = u.tasks := hx.trans ht.symm
  cases place with
  | peer w =>
    simp only [ontoRes_mk, State.askPeer_onto u x hu, State.ticksTo_onto u x hw]
    obtain ⟨v, _ | _⟩ := u.askPeer ((none : Option TileId).getD 0) w va (.read n) <;> rfl
  | die d pa leaf =>
    simp only [ontoRes_mk, State.readDie_onto, State.ticksTo_onto u x hw]
    obtain ⟨v, got⟩ := u.readDie d pa n leaf
    simp only [ontoRes_mk, State.readOver_onto]
    obtain ⟨y, out⟩ := v.readOver (lineOf (gDie d pa)) got
    simp only [ontoRes_mk, State.learnClock_onto]
  | plain g =>
    simp only [ontoRes_mk, State.ticksTo_onto u x hw, State.learnTile_outside _ hw, State.holdHost_onto, State.readPlain_onto,
      State.readOver_onto]
    rfl
  | _ => simp only [ontoRes_mk, State.ticksTo_onto u x hw]

theorem State.rmwOver_onto (line : Nat) (f : Nat → Option Nat) (got r : Got) :
    (s.onto x).rmwOver line f got r = ontoRes x (s.rmwOver line f got r) := by
  cases got <;> cases r <;> simp [State.rmwOver]

theorem State.rmwVa_onto (hw : who.outside) (hx : x.tasks = s.tasks) (va : Word) (n : Nat) (f : Nat → Option Nat) :
    (s.onto x).rmwVa who va n f none = ontoRes x (s.rmwVa who va n f none) := by
  have ht := State.locate_tasks s hw va .rmw false
  simp only [State.rmwVa, State.locate_onto s x hw]
  generalize s.locate who va .rmw false = l at ht
  obtain ⟨u, place, walk⟩ := l
  have hu : x.tasks = u.tasks := hx.trans ht.symm
  cases place with
  | plain g =>
    simp only [ontoRes_mk, State.ticksTo_onto u x hw, State.learnTile_outside _ hw, State.holdHost_onto, State.readPlain_onto]
    cases u.readPlain g n with
    | bytes l => cases hf : f (leNat l) <;> simp [hf, State.rmwOver_onto]
    | _ => simp [State.rmwOver_onto]
  | die d pa leaf =>
    simp only [ontoRes_mk, State.rlcClear_outside _ hw, State.readDie_onto, State.ticksTo_onto u x hw]
    obtain ⟨v, got⟩ := u.readDie d pa n leaf
    cases got with
    | bytes l =>
      cases hf : f (leNat l) with
      | none => simp [hf, State.rmwOver_onto]
      | some y =>
        simp only [hf, ontoRes_mk, State.writeDie_onto]
        obtain ⟨y, put⟩ := v.writeDie d pa leaf (leBytes n y)
        cases put <;> simp [State.rmwOver_onto]
    | _ => simp [State.rmwOver_onto]
  | _ => simp only [ontoRes_mk, State.ticksTo_onto u x hw]

@[simp] theorem State.setRels_onto (loc : Nat) (l : List Rel) : (s.onto x).setRels loc l = (s.setRels loc l).onto x := rfl

/-- A release of an agent of die 4 carries what die 4 knows (R386). -/
theorem State.release_onto {X : Agent} (hX : X.die = none) (m : BitVec 6) : (s.onto x).release X m = (s.release X m).onto x := by
  have carried (u : State) : u.carried X m = u.io.known := by rw [State.carried, hX]
  simp only [State.release, carried, State.releaseOf_onto, ← State.ite_onto]
  rfl

/-! ### What an agent's accesses leave alone -/

/-- Nothing differs but what the accesses of die 4's agents work on. -/
structure Accessed (s t : State) : Prop where
  behind : Behind s t
  aside : t.onto s = t

namespace Accessed

theorem refl (s : State) : Accessed s s := ⟨.refl s, rfl⟩

theorem trans {s t u : State} (a : Accessed s t) (b : Accessed t u) : Accessed s u := by
  refine ⟨a.behind.trans b.behind, ?_⟩
  rw [← b.aside, ← a.aside]
  rfl

theorem of_onto {α : Type} {s : State} {r : State × α} (b : Behind s r.1) (h : r = ontoRes s r) : Accessed s r.1 :=
  ⟨b, (congrArg Prod.fst h).symm⟩

variable {s t : State} (h : Accessed s t)
include h

theorem tiles : t.tiles = s.tiles := h.behind.tiles
theorem tick : t.tick = s.tick := h.behind.tick
theorem nextTask : t.nextTask = s.nextTask := by rw [h.behind.same]
theorem tasks : t.tasks = s.tasks := by rw [← h.aside]; rfl
theorem task? (n : Nat) : t.task? n = s.task? n := by rw [State.task?, h.tasks]; rfl
theorem queues : t.io.queues = s.io.queues := by rw [← h.aside]; rfl
theorem queue (q : Nat) : t.queue q = s.queue q := by rw [State.queue, h.queues]; rfl
theorem rxRings : t.io.rxRings = s.io.rxRings := by rw [← h.aside]; rfl
theorem txRings : t.io.txRings = s.io.txRings := by rw [← h.aside]; rfl
theorem answers : t.io.answers = s.io.answers := by rw [← h.aside]; rfl
theorem inPsn : t.io.inPsn = s.io.inPsn := by rw [← h.aside]; rfl
theorem sent : t.io.sent = s.io.sent := by rw [← h.aside]; rfl

end Accessed

theorem readVa_accessed {who : Who} (hw : who.outside) (s : State) (va : Word) (n : Nat) (k : AccKind) (zf rlc : Bool) :
    Accessed s (s.readVa who va n k zf rlc).1 := .of_onto (readVa_behind ..) (State.readVa_onto s s hw rfl va n k zf rlc)

theorem writeVa_accessed {who : Who} (hw : who.outside) (s : State) (va : Word) (bs : List Byte) (zf : Bool) :
    Accessed s (s.writeVa who va bs zf).1 := .of_onto (writeVa_behind ..) (State.writeVa_onto s s hw rfl va bs zf)

theorem rmwVa_accessed {who : Who} (hw : who.outside) (s : State) (va : Word) (n : Nat) (f : Nat → Option Nat) :
    Accessed s (s.rmwVa who va n f none).1 := .of_onto (rmwVa_behind ..) (State.rmwVa_onto s s hw rfl va n f)

theorem release_accessed {X : Agent} (hX : X.die = none) (s : State) (m : BitVec 6) : Accessed s (s.release X m) :=
  ⟨release_behind .., (State.release_onto s s hX m).symm⟩

theorem setRels_accessed (s : State) (loc : Nat) (l : List Rel) : Accessed s (s.setRels loc l) := ⟨rels_behind .., rfl⟩

theorem learnIo_accessed (s : State) (c : Clock) : Accessed s (s.learnIo c) := ⟨io_behind .., rfl⟩

/-- A fold of accesses is an access. -/
theorem foldl_accessed {α : Type} {f : State → α → State} (h : ∀ s a, Accessed s (f s a)) (l : List α) (s : State) :
    Accessed s (l.foldl f s) := List.foldlRecOn l f (.refl s) fun u hu a _ => hu.trans (h u a)

theorem readSpan_accessed {who : Who} (hw : who.outside) (zf rlc : Bool) (fuel : Nat) (s : State) (va : Word) (n : Nat) :
    Accessed s (State.readSpan who zf rlc fuel s va n).1 := by
  induction fuel generalizing s va n with
  | zero => exact .refl s
  | succ fuel ih =>
    simp only [State.readSpan]
    split
    · exact .refl s
    · have h := readVa_accessed hw s va (min n (64 - va.toNat % 64)) .read zf rlc
      split
      · next e => rw [e] at h; exact h.trans (ih _ _ _)
      · next e => rw [e] at h; exact h

theorem agentRead_accessed (s : State) (ctx : BitVec 12) (va : Word) (n : Nat) : Accessed s (s.agentRead ctx va n).1 := by
  have h := readSpan_accessed (who := agentWho ctx) ⟨rfl, rfl⟩ false false (n / 64 + 2) s va n
  simp only [State.agentRead]
  split <;> simp_all only

theorem agentWrite_accessed (s : State) (ctx : BitVec 12) (va : Word) (bs : List Byte) : Accessed s (s.agentWrite ctx va bs).1 :=
  .of_onto (agentWrite_behind ..) (State.agentWrite_onto s s rfl ctx va bs)

/-- The command processors learn what an acquire of theirs must see (R379, R392). -/
theorem acquireVa_accessed (s : State) (who : Who) (m : BitVec 6) (va : Word) : Accessed s (s.acquireVa .launch who m va) := by
  have see (u : State) (c : Clock) : Accessed u (u.mustSee .launch c) := by
    simp only [State.mustSee]
    split
    · exact .refl u
    · exact learnIo_accessed u c
  simp only [State.acquireVa]
  split
  · exact .refl s
  · split
    · exact foldl_accessed (fun u (r : Rel) => see u r.clock) _ s
    · exact .refl s

end Sys2Proof.Machine

namespace Sys2Proof.Machine

/-! ### The work on queues -/

/-- What work on queues leaves: no task differs, no tile, no time; memory, the dies and die 4 may. -/
structure QueueWork (s t : State) : Prop where
  behind : Behind s t
  tasks : t.tasks = s.tasks

namespace QueueWork

theorem refl (s : State) : QueueWork s s := ⟨.refl s, rfl⟩
theorem trans {s t u : State} (a : QueueWork s t) (b : QueueWork t u) : QueueWork s u :=
  ⟨a.behind.trans b.behind, b.tasks.trans a.tasks⟩
theorem modIo (s : State) (f : IoDie → IoDie) : QueueWork s (s.modIo f) := ⟨io_behind .., rfl⟩
theorem tiles {s t : State} (h : QueueWork s t) : t.tiles = s.tiles := h.behind.tiles
theorem tick {s t : State} (h : QueueWork s t) : t.tick = s.tick := h.behind.tick
theorem task? {s t : State} (h : QueueWork s t) (n : Nat) : t.task? n = s.task? n := by rw [State.task?, h.tasks]; rfl

end QueueWork

theorem Accessed.work {s t : State} (h : Accessed s t) : QueueWork s t := ⟨h.behind, h.tasks⟩

theorem setQueue_work (s : State) (q : Nat) (x : Queue) : QueueWork s (s.setQueue q x) := .modIo ..

@[simp] theorem State.queue_setQueue (s : State) (q p : Nat) (x : Queue) :
    (s.setQueue q x).queue p = if q = p then x else s.queue p := by
  simp [State.queue, State.setQueue, State.modIo]

theorem writeHdr_accessed (s : State) (q : Nat) : Accessed s (s.writeHdr q) :=
  (release_accessed rfl s 0x10).trans (agentWrite_accessed ..)

theorem writeRecord_accessed (s : State) (ctx : BitVec 12) (va : Word) (r : CompRec) : Accessed s (s.writeRecord ctx va r) :=
  (release_accessed rfl s 0x18).trans (agentWrite_accessed ..)

/-- A queue is given a new value, and its header is stored: what the header's store changes is no queue. -/
theorem setQueue_writeHdr (s : State) (q : Nat) (x : Queue) :
    QueueWork s ((s.setQueue q x).writeHdr q) ∧ ((s.setQueue q x).writeHdr q).queue q = x := by
  refine ⟨(setQueue_work s q x).trans (writeHdr_accessed ..).work, ?_⟩
  rw [(writeHdr_accessed ..).queue, State.queue_setQueue, if_pos rfl]

theorem queueError_work (s : State) (q : Nat) (err : Byte) (idx : BitVec 32) : QueueWork s (s.queueError q err idx) :=
  (setQueue_writeHdr ..).1

theorem queueError_queue (s : State) (q : Nat) (err : Byte) (idx : BitVec 32) :
    (s.queueError q err idx).queue q = { s.queue q with state := .error, err, errIdx := idx } := (setQueue_writeHdr ..).2

theorem moveHead_work (s : State) (q : Nat) : QueueWork s (s.moveHead q) := by
  unfold State.moveHead
  dsimp only
  split
  · exact .refl s
  · exact (setQueue_writeHdr ..).1

/-- HEAD moves, and nothing else of its queue (R57). -/
theorem moveHead_queue (s : State) (q : Nat) : ∃ h, (s.moveHead q).queue q = { s.queue q with head := h } ∧
    ((s.queue q).state ≠ .disabled → h = (s.queue q).headNow) := by
  unfold State.moveHead
  dsimp only
  split
  · next c => exact ⟨_, rfl, fun hd => (c.resolve_right hd).symm⟩
  · exact ⟨_, (setQueue_writeHdr ..).2, fun _ => rfl⟩

/-! ### Commands of queues (R51, R53, R55) -/

theorem enableQueue_enabled {s : State} {m : Nat} (h : (s.queue m).state ≠ .disabled) : s.enableQueue m = (s, 3) := by
  rw [State.enableQueue, if_pos h]

theorem enableQueue_invalid {s : State} {m : Nat} (h : (s.queue m).state = .disabled)
    (hd : (s.descBytes m).bind (descOf (1024 ≤ m)) = none) : s.enableQueue m = (s, 1) := by
  rw [State.enableQueue, if_neg (by simp [h]), hd]

/-- The queue of a descriptor, with what the eras of the queue before it have left (R55). -/
def Queue.keeping (y old : Queue) : Queue := { y with entries := old.entries, finished := old.finished, era := old.era + 1 }

/-- ENABLE of a queue whose descriptor is valid and whose header can be read and written: by its TAIL, it is ACTIVE or in ERROR. -/
theorem enableQueue_valid {s u : State} {m : Nat} {y : Queue} {l : List Byte} (h : (s.queue m).state = .disabled)
    (hd : (s.descBytes m).bind (descOf (1024 ≤ m)) = some y) (hr : s.agentRead y.ctx y.hdr 64 = (u, some l))
    (hw : u.agentWritable y.ctx (y.hdr + 64) 1 = true) :
    s.enableQueue m =
      if numAt l 0 4 = 0 then ((u.setQueue m { y.keeping (s.queue m) with state := .active }).writeHdr m, 0)
      else ((u.setQueue m { y.keeping (s.queue m) with state := .error, err := errOverrun }).writeHdr m, 2) := by
  simp only [State.enableQueue, h, ne_eq, not_true, if_false, hd, hr, hw, Bool.not_true, Bool.false_eq_true, ite_not,
    Queue.keeping]

theorem disableQueue_disabled {s : State} {m : Nat} (h : (s.queue m).state = .disabled) : s.disableQueue m = (s, 3) := by
  rw [State.disableQueue, if_pos h]

theorem disableQueue_enabled {s : State} {m : Nat} (h : (s.queue m).state ≠ .disabled) :
    s.disableQueue m = ((s.setQueue m { s.queue m with state := .disabled }).writeHdr m, 0) := by
  rw [State.disableQueue, if_neg h]

end Sys2Proof.Machine

namespace Sys2Proof.Machine

/-- Two operations are the ENABLE and DISABLE of queue `m` under a command register, which `cmd` reads and `give` writes, and
which takes a command when `free` says so. -/
structure CommandPair (s : State) (on off : Instr) (m : Nat) (qidx : BitVec 10) (free : Bool) (cmd : IoDie → QCmd)
    (give : QCmd → IoDie → IoDie) : Prop where
  on_eq : exec on s = .next (if free = true then
    (s.enableQueue m).1.modIo (give { op := 1, busy := true, res := (s.enableQueue m).2, qidx }) else s)
  off_eq : exec off s = .next (if free = true then
    (s.disableQueue m).1.modIo (give { op := 2, busy := true, res := (s.disableQueue m).2, qidx }) else s)
  cmd_give : ∀ c io, cmd (give c io) = c
  queues_give : ∀ c io, (give c io).queues = io.queues

/-- What the statement says of each pair of commands. -/
def CommandsAnswer (s : State) (on off : Instr) (m : Nat) (qidx : BitVec 10) (sup free : Bool) (cmd : IoDie → QCmd) : Prop :=
  let x := s.queue m
  let done (op res : BitVec 2) (t : State) : Prop := cmd t.io = { op, busy := true, res, qidx } ∧ t.tiles = s.tiles ∧ t.tasks = s.tasks
  (free = false → Answers on s (fun t => t = s) ∧ Answers off s (fun t => t = s)) ∧
  (free = true →
    (x.state ≠ .disabled → Answers on s fun t => done 1 3 t ∧ t.queue m = x ∧ SameMemory s t) ∧
    (x.state = .disabled → Answers off s fun t => done 2 3 t ∧ t.queue m = x ∧ SameMemory s t) ∧
    (x.state ≠ .disabled → Answers off s fun t => done 2 0 t ∧ t.queue m = { x with state := .disabled }) ∧
    (x.state = .disabled → (s.descBytes m).bind (descOf sup) = none → Answers on s fun t => done 1 1 t ∧ t.queue m = x) ∧
    (∀ y u l, x.state = .disabled → (s.descBytes m).bind (descOf sup) = some y → s.agentRead y.ctx y.hdr 64 = (u, some l) →
      u.agentWritable y.ctx (y.hdr + 64) 1 = true →
        let z := { y with entries := x.entries, finished := x.finished, era := x.era + 1 }
        (numAt l 0 4 = 0 → Answers on s fun t => done 1 0 t ∧ t.queue m = { z with state := .active }) ∧
        (numAt l 0 4 ≠ 0 → Answers on s fun t => done 1 2 t ∧ t.queue m = { z with state := .error, err := 2 })))

namespace CommandPair

variable {s : State} {on off : Instr} {m : Nat} {qidx : BitVec 10} {free : Bool} {cmd : IoDie → QCmd} {give : QCmd → IoDie → IoDie}

/-- The register shows the command with its result, and the queue is what the command left. -/
theorem done (c : CommandPair s on off m qidx free cmd give) {u : State} (w : QueueWork s u) (op res : BitVec 2) :
    let t := u.modIo (give { op, busy := true, res, qidx })
    (cmd t.io = { op, busy := true, res, qidx } ∧ t.tiles = s.tiles ∧ t.tasks = s.tasks) ∧ t.queue m = u.queue m :=
  ⟨⟨c.cmd_give .., w.tiles, w.tasks⟩, by simp only [State.queue, State.modIo, c.queues_give]⟩

theorem on_answers (c : CommandPair s on off m qidx free cmd give) (hf : free = true) {u : State} {res : BitVec 2}
    (h : s.enableQueue m = (u, res)) : exec on s = .next (u.modIo (give { op := 1, busy := true, res, qidx })) := by
  rw [c.on_eq, if_pos hf, h]

theorem off_answers (c : CommandPair s on off m qidx free cmd give) (hf : free = true) {u : State} {res : BitVec 2}
    (h : s.disableQueue m = (u, res)) : exec off s = .next (u.modIo (give { op := 2, busy := true, res, qidx })) := by
  rw [c.off_eq, if_pos hf, h]

theorem answers {sup : Bool} (c : CommandPair s on off m qidx free cmd give) (hs : sup = decide (1024 ≤ m)) :
    CommandsAnswer s on off m qidx sup free cmd := by
  subst hs
  refine ⟨fun hf => ⟨⟨s, by rw [c.on_eq, if_neg (by simp [hf])], rfl⟩, ⟨s, by rw [c.off_eq, if_neg (by simp [hf])], rfl⟩⟩,
    fun hf => ⟨fun he => ?_, fun hd => ?_, fun he => ?_, fun hd hn => ?_, fun y u l hd hy hr hw => ⟨fun h0 => ?_, fun h0 => ?_⟩⟩⟩
  · obtain ⟨h, hq⟩ := c.done (.refl s) 1 3
    exact ⟨_, c.on_answers hf (enableQueue_enabled he), h, hq, fun _ => rfl, rfl⟩
  · obtain ⟨h, hq⟩ := c.done (.refl s) 2 3
    exact ⟨_, c.off_answers hf (disableQueue_disabled hd), h, hq, fun _ => rfl, rfl⟩
  · obtain ⟨w, wq⟩ := setQueue_writeHdr s m { s.queue m with state := .disabled }
    obtain ⟨h, hq⟩ := c.done w 2 0
    exact ⟨_, c.off_answers hf (disableQueue_enabled he), h, hq.trans wq⟩
  · obtain ⟨h, hq⟩ := c.done (.refl s) 1 1
    exact ⟨_, c.on_answers hf (enableQueue_invalid hd hn), h, hq⟩
  all_goals
    have read : QueueWork s u := by have h := (agentRead_accessed s y.ctx y.hdr 64).work; rwa [hr] at h
    have enabled := enableQueue_valid hd hy hr hw
  · rw [if_pos h0] at enabled
    obtain ⟨w, wq⟩ := setQueue_writeHdr u m _
    obtain ⟨h, hq⟩ := c.done (read.trans w) 1 0
    exact ⟨_, c.on_answers hf enabled, h, hq.trans wq⟩
  · rw [if_neg h0] at enabled
    obtain ⟨w, wq⟩ := setQueue_writeHdr u m _
    obtain ⟨h, hq⟩ := c.done (read.trans w) 1 2
    exact ⟨_, c.on_answers hf enabled, h, hq.trans wq⟩

end CommandPair

/-- A command register that takes no command while it is busy, or while the device does not serve queues. -/
theorem guarded_eq {α : Type} {a b : Bool} (x y : α) : (if (a || !b) = true then x else y) = if (!a && b) = true then y else x := by
  cases a <;> cases b <;> rfl

theorem qcmd_pair (s : State) (q : BitVec 10) :
    CommandPair s (.qcmdEnable q) (.qcmdDisable q) q.toNat q (!s.io.qcmd.busy && s.io.serves) (fun io => io.qcmd)
      (fun c io => { io with qcmd := c }) where
  on_eq := congrArg Host.Outcome.next (guarded_eq ..)
  off_eq := congrArg Host.Outcome.next (guarded_eq ..)
  cmd_give _ _ := rfl
  queues_give _ _ := rfl

theorem supcmd_pair (s : State) (q : BitVec 4) :
    CommandPair s (.supqEnable q) (.supqDisable q) (1024 + q.toNat) (q.zeroExtend 10) (!s.io.supcmd.busy && !s.io.lost)
      (fun io => io.supcmd) (fun c io => { io with supcmd := c }) where
  on_eq := by
    show Host.Outcome.next (s.supcmd 1 q _) = _
    rw [State.supcmd, ← Bool.not_not s.io.lost, guarded_eq, Bool.not_not]
  off_eq := by
    show Host.Outcome.next (s.supcmd 2 q _) = _
    rw [State.supcmd, ← Bool.not_not s.io.lost, guarded_eq, Bool.not_not]
  cmd_give _ _ := rfl
  queues_give _ _ := rfl

/-- Settles O51: host queues under QCMD and supervisor queues under its twin are two command pairs. -/
theorem queueCommands : Obligations.QueueCommands := by
  intro s
  refine ⟨fun q => (qcmd_pair s q).answers (by have := q.isLt; simp; omega), fun q => (supcmd_pair s q).answers (by simp),
    fun h => ⟨_, ?_, rfl⟩, fun h h' => ⟨_, ?_, rfl⟩⟩
  · exact if_pos h
  · exact (if_neg (by simp [h])).trans (if_pos h')

end Sys2Proof.Machine

namespace Sys2Proof.Machine

/-! ### Completion of entries (R61, R62, R65) -/

theorem recordEntry_work (s : State) (q : Nat) (e : Entry) (status : BitVec 16) (commit : Byte) (detail slips : BitVec 32) :
    QueueWork s (s.recordEntry q e status commit detail slips) := (writeRecord_accessed ..).work.trans (setQueue_work ..)

/-- The entry leaves its queue, and its status is kept for its dependents. -/
theorem recordEntry_queue (s : State) (q : Nat) (e : Entry) (status : BitVec 16) (commit : Byte) (detail slips : BitVec 32) :
    (s.recordEntry q e status commit detail slips).queue q =
      { s.queue q with entries := (s.queue q).entries.erase e, finished := (e.era, e.ord, status) :: (s.queue q).finished } := by
  rw [State.recordEntry, State.queue_setQueue, if_pos rfl, (writeRecord_accessed ..).queue]

theorem finishEntry_work (s : State) (q : Nat) (e : Entry) (status : BitVec 16) (commit : Byte) (detail slips : BitVec 32) :
    QueueWork s (s.finishEntry q e status commit detail slips) := (recordEntry_work ..).trans (moveHead_work ..)

theorem finishEntry_queue (s : State) (q : Nat) (e : Entry) (status : BitVec 16) (commit : Byte) (detail slips : BitVec 32) :
    ∃ h, (s.finishEntry q e status commit detail slips).queue q =
      { s.queue q with
        entries := (s.queue q).entries.erase e, finished := (e.era, e.ord, status) :: (s.queue q).finished, head := h } := by
  obtain ⟨h, hq, -⟩ := moveHead_queue (s.recordEntry q e status commit detail slips) q
  exact ⟨h, by rw [State.finishEntry, hq, recordEntry_queue]⟩

/-- An entry that completes is the last that its queue has finished, and no tile differs. -/
theorem finishEntry_ends (s : State) (q : Nat) (e : Entry) (status : BitVec 16) (commit : Byte) (detail slips : BitVec 32) :
    ((s.finishEntry q e status commit detail slips).queue q).finished.head? = some (e.era, e.ord, status) ∧
      (s.finishEntry q e status commit detail slips).tiles = s.tiles := by
  obtain ⟨h, hq⟩ := finishEntry_queue s q e status commit detail slips
  exact ⟨by rw [hq]; rfl, (finishEntry_work ..).tiles⟩

/-! ### Predecessors (R61) -/

theorem settleEntry_failed {s : State} {q : Nat} {e : Entry} (he : s.entryEnds e = false)
    (h : (s.queue q).predState e.era e.preds = .failed) : s.settleEntry q e = s.failEntry q e := by
  rw [State.settleEntry, if_neg (by simp [he]), h]

theorem settleEntry_done {s : State} {q : Nat} {e : Entry} (he : s.entryEnds e = false)
    (h : (s.queue q).predState e.era e.preds = .done) : s.settleEntry q e = s.proceedEntry q e := by
  rw [State.settleEntry, if_neg (by simp [he]), h]

theorem kfind_kdel {α : Type} (m : KMap α) (k : Nat) : kfind (kdel m k) k = none := by
  induction m with
  | nil => rfl
  | cons p m ih =>
    obtain ⟨j, v⟩ := p
    by_cases h : j = k
    · subst h; simpa [kdel] using ih
    · simpa [kdel, h, kfind] using ih

/-- The state with the task of an entry gone, if it has one. -/
def State.dropTaskOf (s : State) (e : Entry) : State :=
  match e.kind with
  | .launch t => { s with tasks := kdel s.tasks t }
  | _ => s

theorem dropTaskOf_frame (s : State) (e : Entry) : (s.dropTaskOf e).io = s.io ∧ (s.dropTaskOf e).tiles = s.tiles := by
  unfold State.dropTaskOf
  split <;> exact ⟨rfl, rfl⟩

theorem dropTaskOf_launch {s : State} {n : Nat} {e : Entry} (h : e.kind = .launch n) : (s.dropTaskOf e).task? n = none := by
  rw [State.dropTaskOf, h]
  exact kfind_kdel ..

theorem failEntry_eq (s : State) (q : Nat) (e : Entry) :
    s.failEntry q e = (s.finishEntry q e stPredFailed coNone 0 0).dropTaskOf e := rfl

/-- An entry with a failed predecessor completes with PRED-FAILED. -/
theorem failEntry_ends (s : State) (q : Nat) (e : Entry) :
    ((s.failEntry q e).queue q).finished.head? = some (e.era, e.ord, stPredFailed) ∧ (s.failEntry q e).tiles = s.tiles := by
  obtain ⟨hq, ht⟩ := finishEntry_ends s q e stPredFailed coNone 0 0
  obtain ⟨io, tiles⟩ := dropTaskOf_frame (s.finishEntry q e stPredFailed coNone 0 0) e
  rw [failEntry_eq]
  exact ⟨by rw [State.queue, io]; exact hq, tiles.trans ht⟩

/-- The state in which an entry waits for its predecessors no more. -/
def State.awaken (s : State) (q : Nat) (e : Entry) : State :=
  s.setQueue q { s.queue q with entries := (s.queue q).entries.map fun y => if y = e then { e with waits := false } else y }

theorem proceedEntry_mark {s : State} {q : Nat} {e : Entry} (h : e.kind = .mark) :
    s.proceedEntry q e = (s.awaken q e).finishOk q { e with waits := false } := by
  obtain ⟨index, seq, era, ord, preds, ctx, compl, tacc, kind, waits⟩ := e
  cases h
  rfl

theorem proceedEntry_launch {s : State} {q n : Nat} {e : Entry} {k : Task} (h : e.kind = .launch n) (hk : s.task? n = some k) :
    s.proceedEntry q e = (s.awaken q e).setTask n { k with state := .ready, readyAt := s.tick, clock := s.io.known } := by
  have found : (s.awaken q e).task? n = some k := hk
  have run : s.proceedEntry q e =
      (s.awaken q e).modTask n fun k => { k with state := .ready, readyAt := s.tick, clock := s.io.known } := by
    obtain ⟨index, seq, era, ord, preds, ctx, compl, tacc, kind, waits⟩ := e
    cases h
    rfl
  rw [run, State.modTask, found]

theorem mem_awaken {s : State} {q : Nat} {e : Entry} (h : e ∈ (s.queue q).entries) :
    { e with waits := false } ∈ ((s.awaken q e).queue q).entries := by
  rw [State.awaken, State.queue_setQueue, if_pos rfl]
  exact List.mem_map.mpr ⟨e, h, if_pos rfl⟩

/-- What PREDECESSOR_COMPLETE does once it has found its entry. -/
theorem exec_predecessorComplete {s : State} {q : BitVec 11} {seq : BitVec 16} {e : Entry} (hl : s.io.lost = false)
    (h : (s.queue q.toNat).entries.find? (fun e => e.waits && e.seq == seq &&
      (s.queue q.toNat).predState e.era e.preds != .waits && !s.entryEnds e) = some e) :
    exec (.predecessorComplete q seq) s = .next (s.settleEntry q.toNat e) := by
  show execPredecessorComplete q seq s = _
  simp only [execPredecessorComplete, h, hl, Bool.false_eq_true, if_false]

/-- Settles O54: each operation finds its entry and completes it, or lets it go on. -/
theorem queueCompletions : Obligations.QueueCompletions := by
  intro s q seq e
  dsimp only
  intro hl
  refine ⟨fun h => ?drain, fun h => ?cancel, fun h => ?predecessor⟩
  case drain =>
    refine ⟨_, ?_, finishEntry_ends s q.toNat e stOk coCommitted 0 0⟩
    show execDrainComplete q s = _
    simp only [execDrainComplete, h, hl, Bool.false_eq_true, if_false]
    rfl
  case cancel =>
    refine ⟨_, ?_, finishEntry_ends s q.toNat e stOk coCommitted 0 0⟩
    show execCancelComplete q seq s = _
    simp only [execCancelComplete, hl, Bool.false_eq_true, if_false]
    split
    · next y found =>
      have same : some y = some e := found.symm.trans h
      cases same
      rfl
    · next missing =>
      have none_some : none = some e := missing.symm.trans h
      cases none_some
  case predecessor =>
    have run := exec_predecessorComplete hl h
    have due := List.find?_some h
    have mem := List.mem_of_find?_eq_some h
    simp only [Bool.and_eq_true, Bool.not_eq_true'] at due
    obtain ⟨-, he⟩ := due
    refine ⟨fun hp => ?failed, fun hp => ?done⟩
    case failed =>
      rw [settleEntry_failed he hp] at run
      exact ⟨⟨_, run, failEntry_ends ..⟩, fun n hn => ⟨_, run, dropTaskOf_launch hn⟩⟩
    case done =>
      rw [settleEntry_done he hp] at run
      refine ⟨fun hm => ?_, fun n k hn hk => ?_⟩
      · rw [proceedEntry_mark hm] at run
        exact ⟨_, run, finishEntry_ends ..⟩
      · rw [proceedEntry_launch hn hk] at run
        exact ⟨_, run, by simp, mem_awaken mem⟩

end Sys2Proof.Machine

namespace Sys2Proof.Machine

/-! ### What the command processors read (R13 to R24, R56, R63) -/

theorem logIndex_accessed (s : State) (ctx : BitVec 12) : Accessed s (s.logIndex ctx).1 := by
  have h := agentRead_accessed s ctx (s.recDesc ctx).idxva 16
  simp only [State.logIndex]
  split <;> simp_all only

theorem logAppend_accessed {s t : State} {ctx : BitVec 12} {kind vt ord : Nat} {l : List Byte}
    (h : s.logAppend ctx kind vt ord l = some t) : Accessed s t := by
  simp only [State.logAppend] at h
  split at h
  · cases h
  · cases h
    exact ((logIndex_accessed s ctx).trans (agentWrite_accessed ..)).trans (agentWrite_accessed ..)

theorem entryLine_accessed {s t : State} {q : Nat} {x : Queue} {got : Option (List Byte)}
    (h : s.entryLine q x = some (t, got)) : Accessed s t := by
  have read := agentRead_accessed s x.ctx (x.hdr + 0x80 + BitVec.ofNat 64 (64 * (x.next.toNat % x.nent))) 64
  simp only [State.entryLine] at h
  split at h
  · obtain ⟨l, -, hl⟩ := Option.map_eq_some_iff.mp h
    cases hl
    exact .refl s
  · split at h
    · next e =>
      rw [e] at read
      cases h
      exact read
    · next e =>
      rw [e] at read
      split at h
      · obtain ⟨v, hv, hl⟩ := Option.map_eq_some_iff.mp h
        cases hl
        exact read.trans (logAppend_accessed hv)
      · cases h
        exact read

theorem rcbPath_accessed (ctx : BitVec 12) (leaf : Bool) (fuel : Nat) (s : State) (va : Word) :
    Accessed s (rcbPath ctx leaf fuel s va).1 := by
  induction fuel generalizing leaf s va with
  | zero => exact .refl s
  | succ fuel ih =>
    have read := agentRead_accessed s ctx va 128
    simp only [rcbPath]
    generalize (if leaf = true then 2 else 1) = kind
    split
    · exact .refl s
    split
    · next e => rw [e] at read; exact read
    next u now e =>
    rw [e] at read
    dsimp only at read ⊢
    generalize capsOf va _ _ = c
    split
    · exact read
    split
    · exact read
    have up := ih false u (rcbOf c.bytes).up
    split <;> next e => rw [e] at up; exact read.trans up

theorem resolve_accessed (s : State) (ctx : BitVec 12) (va dl : Word) : Accessed s (s.resolve ctx va dl).1 := by
  have path := rcbPath_accessed ctx true 8 s va
  simp only [State.resolve]
  split
  · next e => rw [e] at path; exact path
  · next e =>
    rw [e] at path
    repeat' split
    all_goals exact path

theorem readTable_accessed (s : State) (ctx : BitVec 12) (va : Word) (k n : Nat) : Accessed s (s.readTable ctx va k n).1 := by
  have h := agentRead_accessed s ctx va (k * n)
  simp only [State.readTable]
  split <;> simp_all only

theorem chainTablesOk_accessed (ctx : BitVec 12) (vgrid : Nat) (l : List (List Byte)) (s : State) :
    Accessed s (chainTablesOk ctx vgrid l s).1 := by
  induction l generalizing s with
  | nil => exact .refl s
  | cons e l ih =>
    have table := readTable_accessed s ctx (BitVec.ofNat 64 (numAt e 8 8)) 16 (numAt e 16 2)
    simp only [chainTablesOk]
    split
    · next h =>
      rw [h] at table
      split
      · exact table.trans (ih _)
      · exact table
    · next h => rw [h] at table; exact table

theorem checkImage_accessed (s : State) (ctx : BitVec 12) (va : Word) (sup : Bool) (redun : Redun) :
    Accessed s (s.checkImage ctx va sup redun).1 := by
  unfold State.checkImage
  split
  · exact .refl s
  have read := agentRead_accessed s ctx va 64
  split
  · next e => rw [e] at read; exact read
  next s1 l e =>
  rw [e] at read
  split
  · exact read
  have table := readTable_accessed s1 ctx (BitVec.ofNat 64 (numAt l 0x18 8)) 32 (numAt l 0x12 1)
  dsimp only
  split
  · next e => rw [e] at table; exact read.trans table
  next s2 sched e =>
  rw [e] at table
  have chains := chainTablesOk_accessed ctx (numAt l 0x10 2) sched s2
  split
  · exact read.trans table
  split
  · next e => rw [e] at chains; exact (read.trans table).trans chains
  next s3 e =>
  rw [e] at chains
  have safe := readTable_accessed s3 ctx (BitVec.ofNat 64 (numAt l 0x20 8)) 32 (numAt l 0x14 2)
  have three := (read.trans table).trans chains
  split
  · next e => rw [e] at safe; exact three.trans safe
  · next e =>
    rw [e] at safe
    split <;> exact three.trans safe

theorem copyArgs_accessed (s : State) (ctx : BitVec 12) (args save : Word) (n : Nat) : Accessed s (s.copyArgs ctx args save n).1 := by
  unfold State.copyArgs
  split
  · exact .refl s
  split
  · exact .refl s
  have read := agentRead_accessed s ctx args n
  split
  · next e => rw [e] at read; exact read
  next s1 l e =>
  rw [e] at read
  split
  · exact read
  have write := agentWrite_accessed s1 ctx save l
  split
  · next e => rw [e] at write; exact read.trans write
  · exact read

/-- The checks of a launch read and write as an agent does, and the task that they make has no end set. -/
theorem checkLaunch_accessed {s t : State} {q : Nat} {index : BitVec 32} {p : Packet} {r : Except (BitVec 16) Task}
    (h : s.checkLaunch q index p = (t, r)) : Accessed s t ∧ ∀ k, r = .ok k → k.ending = none := by
  unfold State.checkLaunch at h
  dsimp only at h
  have resolve := resolve_accessed s (s.queue q).ctx p.rcb p.deadln
  split at h
  · next e => rw [e] at resolve; cases h; exact ⟨resolve, fun _ hk => nomatch hk⟩
  next s1 r e =>
  rw [e] at resolve
  have image := checkImage_accessed s1 (s.queue q).ctx p.kimg (1024 ≤ q) r.redun
  split at h
  · next e => rw [e] at image; cases h; exact ⟨resolve.trans image, fun _ hk => nomatch hk⟩
  next s2 g e =>
  rw [e] at image
  have args := copyArgs_accessed s2 r.ctx p.args r.save g.argb
  have two := resolve.trans image
  split at h
  · cases h; exact ⟨two, fun _ hk => nomatch hk⟩
  split at h
  · cases h; exact ⟨two, fun _ hk => nomatch hk⟩
  split at h
  · cases h; exact ⟨two, fun _ hk => nomatch hk⟩
  split at h
  · next e => rw [e] at args; cases h; exact ⟨two.trans args, fun _ hk => nomatch hk⟩
  · next e =>
    rw [e] at args
    cases h
    refine ⟨two.trans args, fun k hk => ?_⟩
    cases hk
    rfl

end Sys2Proof.Machine

namespace Sys2Proof.Machine

/-! ### Entries (R57, R61, R63) -/

/-- The queue `y` has counted one entry more than `x`, and is ACTIVE. -/
structure Queue.Counted (x y : Queue) : Prop where
  expected : y.expected = x.expected + 1
  next : y.next = x.next + 1
  count : y.count = x.count + 1
  state : y.state = .active

/-- The last entry that queue `q` has counted since it was `x` is the last that it has finished, with a status. -/
def Finishes (x : Queue) (q : Nat) (status : BitVec 16) (t : State) : Prop :=
  x.Counted (t.queue q) ∧ (t.queue q).finished.head? = some (x.era, x.count, status)

/-- Where no entry waits, HEAD has passed all that were read (R57). -/
theorem headNow_of_empty {x : Queue} (h : x.entries = []) : x.headNow = x.next := by
  simp [Queue.headNow, h]

/-- What the statement says of a queue that has taken an entry. -/
theorem taken_moveHead {x : Queue} {s : State} {q : Nat} (h : x.Counted (s.queue q)) :
    let y := (s.moveHead q).queue q
    y.expected = x.expected + 1 ∧ y.next = x.next + 1 ∧ y.count = x.count + 1 ∧
      (x.entries = [] → y.entries = [] → y.head = x.next + 1) := by
  obtain ⟨hd, hq, hh⟩ := moveHead_queue s q
  rw [hq]
  refine ⟨h.expected, h.next, h.count, fun _ he => ?_⟩
  have idle : (s.queue q).entries = [] := he
  calc hd = (s.queue q).headNow := hh (by simp [h.state])
    _ = (s.queue q).next := headNow_of_empty idle
    _ = x.next + 1 := h.next

theorem finishes_moveHead {x : Queue} {s : State} {q : Nat} {status : BitVec 16} (h : Finishes x q status s) :
    ((s.moveHead q).queue q).finished.head? = some (x.era, x.count, status) := by
  obtain ⟨hd, hq, -⟩ := moveHead_queue s q
  rw [hq]
  exact h.2

theorem rejectEntry_queue (s : State) (q ord : Nat) (p : Packet) (status : BitVec 16) :
    (s.rejectEntry q ord p status).queue q =
      { s.queue q with finished := ((s.queue q).era, ord, status) :: (s.queue q).finished } := by
  rw [State.rejectEntry, State.queue_setQueue, if_pos rfl, (writeRecord_accessed ..).queue]

/-- The queue `x` once it has counted the entry at its next index (R63). -/
def Queue.counting (x : Queue) : Queue := { x with expected := x.expected + 1, next := x.next + 1, count := x.count + 1 }

theorem rejectEntry_finishes {s : State} {q : Nat} {x : Queue} (h : s.queue q = x.counting) (ha : x.state = .active) (p : Packet)
    (status : BitVec 16) : Finishes x q status (s.rejectEntry q x.count p status) := by
  rw [Finishes, rejectEntry_queue, h]
  exact ⟨⟨rfl, rfl, rfl, ha⟩, rfl⟩

/-- A MARK with no predecessor completes as soon as it has been read (R61, R62). -/
theorem addEntry_mark {s : State} {q : Nat} {x : Queue} {e : Entry} (h : s.queue q = x.counting) (ha : x.state = .active)
    (hk : e.kind = .mark) (hp : e.preds = []) (he : e.era = x.era) (ho : e.ord = x.count) :
    Finishes x q stOk (s.addEntry q e) := by
  have live (u : State) : u.entryEnds e = false := by rw [State.entryEnds, hk]
  rw [State.addEntry, settleEntry_done (live _) (by rw [hp]; rfl), proceedEntry_mark hk, Finishes, State.finishOk]
  obtain ⟨hd, hq⟩ := finishEntry_queue
    ((s.setQueue q { s.queue q with entries := (s.queue q).entries ++ [e] }).awaken q e) q { e with waits := false } stOk coCommitted 0 0
  rw [hq]
  simp only [State.awaken, State.queue_setQueue, if_true, h, he, ho]
  exact ⟨⟨rfl, rfl, rfl, ha⟩, rfl⟩

/-- A launch with no predecessor is READY as soon as it has been accepted (R61). -/
theorem addEntry_launch {s : State} {q n : Nat} {x : Queue} {e : Entry} {k : Task} (h : s.queue q = x.counting)
    (ha : x.state = .active) (hk : e.kind = .launch n) (hp : e.preds = []) (ht : s.task? n = some k) (hn : k.ending = none) :
    x.Counted ((s.addEntry q e).queue q) ∧
      (s.addEntry q e).task? n = some { k with state := .ready, readyAt := s.tick, clock := s.io.known } := by
  let u := s.setQueue q { s.queue q with entries := (s.queue q).entries ++ [e] }
  have hu : u.task? n = some k := ht
  have live : u.entryEnds e = false := by simp only [State.entryEnds, hk, hu, hn, Option.isSome_none]
  have run : s.addEntry q e = (u.awaken q e).setTask n { k with state := .ready, readyAt := s.tick, clock := s.io.known } := by
    rw [State.addEntry, settleEntry_done live (by rw [hp]; rfl), proceedEntry_launch hk hu]
    rfl
  rw [run]
  refine ⟨?_, by simp⟩
  show x.Counted ((u.awaken q e).queue q)
  simp only [u, State.awaken, State.queue_setQueue, if_true, h]
  exact ⟨rfl, rfl, rfl, ha⟩

/-- A launch that is accepted has a task of its own. -/
theorem acceptLaunch_ready {s : State} {q : Nat} {x : Queue} {e : Entry} {k : Task} (h : s.queue q = x.counting) (ha : x.state = .active)
    (hp : e.preds = []) (hn : k.ending = none) :
    x.Counted ((s.acceptLaunch q e k).queue q) ∧
      ∃ clock, (s.acceptLaunch q e k).task? s.nextTask = some { k with state := .ready, readyAt := s.tick, clock } := by
  let u : State := { s.setTask s.nextTask { k with clock := s.io.known } with nextTask := s.nextTask + 1 }
  let r : CompRec :=
    { seq := e.seq, queue := q, status := stAccepted, cfl := 1, commit := coNone, tacc := e.tacc, tend := 0, detail := 0, slips := 0 }
  have record := writeRecord_accessed u k.ctx e.compl r
  have ht : (u.writeRecord k.ctx e.compl r).task? s.nextTask = some { k with clock := s.io.known } := by
    rw [record.task?]
    show (s.setTask s.nextTask { k with clock := s.io.known }).task? s.nextTask = _
    simp
  obtain ⟨counted, ready⟩ := addEntry_launch (e := { e with kind := .launch s.nextTask }) ((record.queue q).trans h) ha rfl hp ht hn
  rw [record.tick] at ready
  exact ⟨counted, _, ready⟩

/-! ### QUEUE_ENTRY (R63) -/

/-- The entry of a packet with no predecessor that queue `x` reads next, taken for a MARK. -/
def Queue.entryOf (x : Queue) (p : Packet) (tacc : Word) : Entry :=
  { index := x.next, seq := p.seq, era := x.era, ord := x.count, preds := [], compl := p.compl, tacc, ctx := x.ctx, kind := .mark,
    waits := true }

theorem takeEntry_seq {s : State} {q : Nat} {l : List Byte} (h : (packetOf l).seq ≠ (s.queue q).expected) :
    s.takeEntry q l = s.queueError q errSeq (s.queue q).next := by
  simp only [State.takeEntry]
  rw [if_pos h]

theorem takeEntry_compl {s : State} {q : Nat} {l : List Byte} (h : (packetOf l).seq = (s.queue q).expected)
    (hc : (packetOf l).compl = 0 ∨ (packetOf l).compl.extractLsb' 0 5 ≠ 0 ∨ s.agentWritable (s.queue q).ctx (packetOf l).compl 1 = false) :
    s.takeEntry q l = s.queueError q errCompl (s.queue q).next := by
  simp only [State.takeEntry]
  rw [if_neg (by simp [h]), if_pos hc]

section taken

variable {s : State} {q : Nat} {l : List Byte} {x : Queue} (hx : s.queue q = x) (ha : x.state = .active)
  (h : (packetOf l).seq = x.expected)
  (hc : ¬ ((packetOf l).compl = 0 ∨ (packetOf l).compl.extractLsb' 0 5 ≠ 0 ∨ s.agentWritable x.ctx (packetOf l).compl 1 = false))
include hx ha h hc

/-- An entry that breaks its form is rejected with PACKET-INVALID. -/
theorem takeEntry_wrong (hw : (packetOf l).wrong = true) :
    ∃ u, s.takeEntry q l = u.moveHead q ∧ Finishes x q stPacket u := by
  subst hx
  refine ⟨_, ?_, rejectEntry_finishes (s := s.setQueue q (s.queue q).counting) (by simp) ha (packetOf l) stPacket⟩
  simp only [State.takeEntry]
  rw [if_neg (by simp [h]), if_neg hc, if_pos hw]
  rfl

section entry

variable (hw : (packetOf l).wrong = false) (hp : (packetOf l).preds = [])
include hw hp

theorem takeEntry_mark (ht : (packetOf l).typ = 2) (hm : (packetOf l).cop = 0) :
    ∃ u, s.takeEntry q l = u.moveHead q ∧ Finishes x q stOk u := by
  subst hx
  refine ⟨_, ?_, addEntry_mark (s := s.setQueue q (s.queue q).counting) (e := (s.queue q).entryOf (packetOf l) s.timeNs)
    (by simp) ha rfl rfl rfl rfl⟩
  simp only [State.takeEntry]
  rw [if_neg (by simp [h]), if_neg hc, if_neg (by simp [hw]), hp, if_neg (by simp), if_pos ht, if_pos hm]
  rfl

/-- A launch that its checks refuse is rejected with their status. -/
theorem takeEntry_refused {w : State} {c : BitVec 16} (ht : (packetOf l).typ = 1)
    (hl : (s.setQueue q x.counting).checkLaunch q x.next (packetOf l) = (w, .error c)) :
    ∃ u, s.takeEntry q l = u.moveHead q ∧ Finishes x q c u := by
  subst hx
  have checks := (checkLaunch_accessed hl).1
  refine ⟨_, ?_, rejectEntry_finishes (s := w) ((checks.queue q).trans (by simp)) ha (packetOf l) c⟩
  simp only [State.takeEntry]
  rw [if_neg (by simp [h]), if_neg hc, if_neg (by simp [hw]), hp, if_neg (by simp), if_neg (by simp [ht])]
  split
  · next u status found =>
    cases found.symm.trans hl
    rfl
  · next u k found => cases found.symm.trans hl

/-- A launch that its checks accept is a READY task. -/
theorem takeEntry_accepted {w : State} {k : Task} (ht : (packetOf l).typ = 1)
    (hl : (s.setQueue q x.counting).checkLaunch q x.next (packetOf l) = (w, .ok k)) :
    ∃ u : State, s.takeEntry q l = u.moveHead q ∧ x.Counted (u.queue q) ∧
      ∃ clock, u.task? w.nextTask = some { k with state := .ready, readyAt := w.tick, clock } := by
  subst hx
  obtain ⟨checks, live⟩ := checkLaunch_accessed hl
  refine ⟨_, ?_, acceptLaunch_ready (s := w) (e := (s.queue q).entryOf (packetOf l) s.timeNs)
    ((checks.queue q).trans (by simp)) ha rfl (live k rfl)⟩
  simp only [State.takeEntry]
  rw [if_neg (by simp [h]), if_neg hc, if_neg (by simp [hw]), hp, if_neg (by simp), if_neg (by simp [ht])]
  split
  · next u status found => cases found.symm.trans hl
  · next u k found =>
    cases found.symm.trans hl
    rfl

end entry

end taken

/-- The state in which queue q has had its turn (R59). -/
def State.served (s : State) (q : Nat) : State := { s with io := { s.io with lastTurn := kset s.io.lastTurn (s.queue q).group q } }

theorem served_work (s : State) (q : Nat) : QueueWork s (s.served q) :=
  .modIo s fun io => { io with lastTurn := kset s.io.lastTurn (s.queue q).group q }

/-- QUEUE_ENTRY of the queue whose turn it is: its next entry cannot be read, or is taken. -/
theorem exec_queueEntry {s u : State} {q : BitVec 11} {got : Option (List Byte)} (hn : s.nextQueue = some q.toNat)
    (hs : s.io.serves = true) (hl : (s.served q.toNat).entryLine q.toNat (s.queue q.toNat) = some (u, got)) :
    exec (.queueEntry q) s =
      .next (got.elim (u.queueError q.toNat errEntry (s.queue q.toNat).next) fun l => u.takeEntry q.toNat l) := by
  show execQueueEntry q s = _
  rw [execQueueEntry, if_pos ⟨hn, hs⟩]
  dsimp only
  split
  · next found => cases found.symm.trans hl
  · next found => cases found.symm.trans hl; rfl
  · next found => cases found.symm.trans hl; rfl

/-! ### TAIL_UPDATE (R56, R57) -/

/-- An acquire of the command processors learns what it must see, and writes no memory (R379, R392). -/
theorem acquireVa_sameMemory (s : State) (who : Who) (m : BitVec 6) (va : Word) : SameMemory s (s.acquireVa .launch who m va) := by
  have see (u : State) (c : Clock) (h : SameMemory s u) : SameMemory s (u.mustSee .launch c) := by
    simp only [State.mustSee]
    split <;> exact h
  simp only [State.acquireVa]
  split
  · exact .refl s
  · split
    · exact List.foldlRecOn _ _ (.refl s) fun u h (r : Rel) _ => see u r.clock h
    · exact .refl s

/-- TAIL_UPDATE of a queue that the device serves and whose TAIL has changed. -/
theorem exec_tailUpdate {s u : State} {q : BitVec 11} {l : List Byte} (ha : (s.queue q.toNat).state = .active)
    (hs : s.io.serves = true) (hr : s.agentRead (s.queue q.toNat).ctx (s.queue q.toNat).hdr 64 = (u, some l))
    (ht : BitVec.ofNat 32 (numAt l 0 4) ≠ (s.queue q.toNat).tail) :
    let x := s.queue q.toNat
    let tail := BitVec.ofNat 32 (numAt l 0 4)
    let v := (u.acquireVa .launch (agentWho x.ctx) 0x10 x.hdr).setQueue q.toNat { x with tail }
    exec (.tailUpdate q) s =
      if x.nent < (tail - x.head).toNat then .next (v.queueError q.toNat errOverrun x.head) else .next v := by
  show execTailUpdate q s = _
  simp only [execTailUpdate, hr]
  rw [if_neg (by simp [ha, hs]), if_neg ht]

/-- An error of a queue, as the statement says it: the queue is in ERROR, and no task and no tile differs. -/
theorem queueError_errs {s u : State} (w : QueueWork s u) (q : Nat) (code : Byte) (idx : BitVec 32) :
    let t := u.queueError q code idx
    (t.queue q).state = .error ∧ (t.queue q).err = code ∧ (t.queue q).errIdx = idx ∧ t.tasks = s.tasks ∧ t.tiles = s.tiles := by
  have h := w.trans (queueError_work u q code idx)
  dsimp only
  rw [queueError_queue]
  exact ⟨rfl, rfl, rfl, h.tasks, h.tiles⟩

/-- Settles O53: TAIL_UPDATE by its one comparison, QUEUE_ENTRY by what becomes of the entry that it reads. -/
theorem queueEntries : Obligations.QueueEntries := by
  intro s q
  refine ⟨fun u l ha hs hr ht => ?tail, fun ha hn hs u got hl => ?entry⟩
  case tail =>
    have run := exec_tailUpdate ha hs hr ht
    have read := agentRead_accessed s (s.queue q.toNat).ctx (s.queue q.toNat).hdr 64
    rw [hr] at read
    refine ⟨fun room => ?_, fun full => ?_⟩
    · exact ⟨_, run.trans (if_neg (by simpa using room)), by simp, acquireVa_sameMemory ..⟩
    · exact ⟨_, run.trans (if_pos full), queueError_errs ((read.work.trans (acquireVa_accessed ..).work).trans (setQueue_work ..)) ..⟩
  case entry =>
    have run := exec_queueEntry hn hs hl
    have read := entryLine_accessed hl
    have hx : u.queue q.toNat = s.queue q.toNat := read.queue _
    have work : QueueWork s u := (served_work s _).trans read.work
    refine ⟨fun hg => ?_, fun l hg => ?_⟩
    · subst hg
      exact ⟨_, run, queueError_errs work ..⟩
    subst hg
    refine ⟨fun hseq => ?seq, fun hseq hc => ?compl, fun hseq hc => ⟨fun hw => ?wrong, fun hw hp => ⟨fun ht hm => ?mark,
      fun w c ht hk => ?refused, fun w k ht hk => ?accepted⟩⟩⟩
    case seq =>
      have taken := takeEntry_seq (s := u) (q := q.toNat) (l := l) (by rwa [hx])
      exact ⟨_, run.trans (congrArg _ taken), by rw [hx]; exact queueError_errs work ..⟩
    case compl =>
      have taken := takeEntry_compl (s := u) (q := q.toNat) (l := l) (by rwa [hx]) (by rwa [hx])
      exact ⟨_, run.trans (congrArg _ taken), by rw [hx]; exact queueError_errs work ..⟩
    case wrong =>
      obtain ⟨v, taken, fin⟩ := takeEntry_wrong hx ha hseq hc hw
      exact ⟨_, run.trans (congrArg _ taken), taken_moveHead fin.1, finishes_moveHead fin⟩
    case mark =>
      obtain ⟨v, taken, fin⟩ := takeEntry_mark hx ha hseq hc hw hp ht hm
      exact ⟨_, run.trans (congrArg _ taken), taken_moveHead fin.1, finishes_moveHead fin⟩
    case refused =>
      obtain ⟨v, taken, fin⟩ := takeEntry_refused hx ha hseq hc hw hp ht hk
      exact ⟨_, run.trans (congrArg _ taken), taken_moveHead fin.1, finishes_moveHead fin⟩
    case accepted =>
      obtain ⟨v, taken, counted, clock, ready⟩ := takeEntry_accepted hx ha hseq hc hw hp ht hk
      refine ⟨_, run.trans (congrArg _ taken), taken_moveHead counted, clock, ?_⟩
      have checks : QueueWork s w := (work.trans (setQueue_work ..)).trans (checkLaunch_accessed hk).1.work
      rwa [(moveHead_work v _).task?, ← checks.tick]

end Sys2Proof.Machine

namespace Sys2Proof.Machine

/-! ### A peer's request (R239, R393, R396) -/

theorem outsideRel_accessed (s : State) (X : Agent) (m : BitVec 6) (g n : Nat) : Accessed s (s.outsideRel X m g n) :=
  foldl_accessed (fun u _ => setRels_accessed u _ _) _ s

theorem peerRead_accessed {who : Who} (hw : who.outside) (l : List (Word × Nat)) (s : State) : Accessed s (peerRead who l s).1 := by
  induction l generalizing s with
  | nil => exact .refl s
  | cons p l ih =>
    obtain ⟨va, n⟩ := p
    have read := readVa_accessed hw s va n .read true false
    have rest := read.trans (ih _)
    simp only [peerRead]
    generalize s.readVa who va n .read true false = r at read rest
    obtain ⟨u, got, t⟩ := r
    dsimp only at read rest
    cases got with
    | bytes _ | zero =>
      dsimp only
      generalize peerRead who l u = r at rest
      obtain ⟨v, out⟩ := r
      cases out <;> exact rest
    | _ => exact read

theorem peerWrite_accessed {who : Who} (hw : who.outside) (X : Agent) (l : List (Word × Nat)) (s : State) (bs : List Byte) :
    Accessed s (peerWrite X who l s bs).1 := by
  induction l generalizing s bs with
  | nil => exact .refl s
  | cons p l ih =>
    obtain ⟨va, n⟩ := p
    have write := writeVa_accessed hw s va (bs.take n) true
    simp only [peerWrite]
    generalize s.writeVa who va (bs.take n) true = r at write
    obtain ⟨u, put, t⟩ := r
    dsimp only at write
    cases put with
    | done =>
      dsimp only
      split
      · exact (write.trans (outsideRel_accessed ..)).trans (ih ..)
      · exact write.trans (ih ..)
    | zero => exact write.trans (ih ..)
    | _ => exact write

theorem accessed_of_rmwVa {who : Who} (hw : who.outside) {s u : State} {va : Word} {n t : Nat} {f : Nat → Option Nat} {got : Got}
    (h : s.rmwVa who va n f none = (u, got, t)) : Accessed s u := by
  simpa only [h] using rmwVa_accessed hw s va n f

theorem accessed_of_peerWrite {who : Who} (hw : who.outside) {X : Agent} {l : List (Word × Nat)} {s u : State} {bs : List Byte}
    {out : PeerOut} (h : peerWrite X who l s bs = (u, out)) : Accessed s u := by
  simpa only [h] using peerWrite_accessed hw X l s bs

/-- The operation of a peer touches nothing but what accesses work on. -/
theorem roceApply_accessed {who : Who} (hw : who.outside) (X : Agent) (op : RoceOp) (va : Word) (s : State) :
    Accessed s (roceApply X op who va s).1 := by
  cases op with
  | read n => exact peerRead_accessed hw _ s
  | write data =>
    simp only [roceApply]
    split
    · split
      · next found => exact accessed_of_peerWrite hw found
      · next found => exact accessed_of_peerWrite hw found
    · exact .refl s
  | fetchAdd | cmpSwap =>
    simp only [roceApply]
    split
    · exact .refl s
    · split
      case h_1 found =>
        have access := accessed_of_rmwVa hw found
        split
        · split
          · exact access.trans (setRels_accessed ..)
          · exact access
        · exact access
      all_goals
        next found => exact accessed_of_rmwVa hw found

/-- A request that has been applied or refused moves its queue pair on, and nothing else (R393). -/
theorem takePsn_eq (s : State) (ctx : BitVec 12) (r : RoceReq) :
    let k := qpKey ctx r.qp
    ∃ m, s.takePsn ctx r = s.modIo (fun io => { io with inPsn := m }) ∧
      ((kfind s.io.inPsn k = none ∨ kfind s.io.inPsn k = some r.psn) → kfind m k = some (r.psn + 1)) := by
  dsimp only
  unfold State.takePsn
  dsimp only
  split
  · next n found =>
    split
    · next same => exact ⟨_, rfl, fun _ => by simp [same]⟩
    · next other => exact ⟨_, rfl, fun h => by simp [found, Ne.symm other] at h⟩
  · exact ⟨_, rfl, fun _ => by simp⟩

/-- The state in which a request has been applied, and its queue pair has moved on. -/
theorem takePsn_of_accessed {s u : State} (h : Accessed s u) (ctx : BitVec 12) (r : RoceReq) :
    let k := qpKey ctx r.qp
    let v := u.takePsn ctx r
    (v.io.answers = s.io.answers ∧ v.tiles = s.tiles) ∧ SameMemory u v ∧
      ((kfind s.io.inPsn k = none ∨ kfind s.io.inPsn k = some r.psn) → kfind v.io.inPsn k = some (r.psn + 1)) := by
  obtain ⟨m, run, next⟩ := takePsn_eq u ctx r
  dsimp only
  rw [run]
  exact ⟨⟨h.answers, h.tiles⟩, ⟨fun _ => rfl, rfl⟩, h.inPsn ▸ next⟩

section inbound

variable {s u : State} {r : RoceReq} {w : NetWindow} (hl : s.io.lost = false) (hw : s.io.inbound r.rkey = some w)
include hl

theorem exec_roceInbound_unlisted (h : s.io.inbound r.rkey = none) : exec (.roceInbound r) s = .next (s.reply [1]) := by
  show execRoceInbound r s = _
  simp only [execRoceInbound, hl, h, Bool.false_eq_true, if_false]

include hw

/-- A request that is in the table receives the stored response (R396). -/
theorem exec_roceInbound_duplicate {x : DoneReq}
    (h : (s.io.peerDone.find? fun x => x.src == .peer w.ctx r.qp && x.tag == r.psn.extractLsb' 0 16) = some x) :
    exec (.roceInbound r) s = .next (s.reply (storedReply x.reply)) := by
  show execRoceInbound r s = _
  simp only [execRoceInbound, hl, hw, h, Bool.false_eq_true, if_false]

variable (hf : (s.io.peerDone.find? fun x => x.src == .peer w.ctx r.qp && x.tag == r.psn.extractLsb' 0 16) = none)
include hf

theorem exec_roceInbound_ahead (h : s.psnAhead w.ctx r = true) : exec (.roceInbound r) s = .next (s.reply [3]) := by
  show execRoceInbound r s = _
  simp only [execRoceInbound, hl, hw, hf, h, Bool.false_eq_true, if_false, if_true]

variable (ha : s.psnAhead w.ctx r = false)
include ha

theorem exec_roceInbound_refused (h : roceAllowed r.op w = false ∨ w.len.toNat < r.va.toNat + roceSize r.op) :
    exec (.roceInbound r) s = .next ((s.takePsn w.ctx r).reply [1]) := by
  show execRoceInbound r s = _
  simp only [execRoceInbound, hl, hw, hf, ha, Bool.false_eq_true, if_false, if_pos h]

/-- What a request that is the next of its queue pair, and is allowed, comes to. -/
theorem exec_roceInbound_applied {out : PeerOut} {entry : Option AccOut} (hr : roceAllowed r.op w = true)
    (hn : r.va.toNat + roceSize r.op ≤ w.len.toNat)
    (h : roceApply (.peer w.ctx r.qp) r.op { tile := none, task := none, ctx := w.ctx, vt := 0, copy := false, pkr := w.pkr, src := 7 }
      (w.base + r.va) s = (u, out, entry)) :
    let v := u.takePsn w.ctx r
    (out = .park → exec (.roceInbound r) s = .next (u.reply [2])) ∧
    (out = .error → exec (.roceInbound r) s = .next (v.reply [1])) ∧
    ∀ l, out = .ok l → exec (.roceInbound r) s =
      .next ((entry.elim v (v.storeReply (.peer w.ctx r.qp) (r.psn.extractLsb' 0 16))).reply (0 :: l)) := by
  have run : exec (.roceInbound r) s = _ := show execRoceInbound r s = _ from rfl
  rw [execRoceInbound] at run
  simp only [hl, hw, hf, ha, hr, h, Bool.false_eq_true, Bool.true_eq_false, if_false, false_or, if_neg (Nat.not_lt.mpr hn)] at run
  refine ⟨?_, ?_, fun l => ?_⟩
  · rintro rfl; exact run
  · rintro rfl; exact run
  · rintro rfl; cases entry <;> exact run

end inbound

/-! ### A received frame (R72) -/

theorem bump_eq (w : Word) : bump w = if w = BitVec.allOnes 64 then BitVec.allOnes 64 else w + 1 :=
  ite_congr rfl id fun _ => rfl

/-- A port counts the frame that it drops. -/
theorem dropAtPort_counts (s : State) (port : BitVec 2) :
    SameMemory s (s.dropAtPort port) ∧ (s.dropAtPort port).tiles = s.tiles ∧
      at4 (s.dropAtPort port).io.portDrop port.toNat =
        if at4 s.io.portDrop port.toNat = BitVec.allOnes 64 then BitVec.allOnes 64 else at4 s.io.portDrop port.toNat + 1 :=
  ⟨⟨fun _ => rfl, rfl⟩, rfl, (Vector.getElem_set_self _).trans (bump_eq _)⟩

/-- A ring without a virtual tile signals no semaphore; its next slot is given out (R72). -/
theorem giveSlot_ring {g : Nat} {r : Ring} (h : r.vtile = 0xFFFF) (s : State) :
    let t := s.giveSlot g r
    t.tiles = s.tiles ∧ kfind t.io.rxRings g = some { r with pi := r.pi + 1, fseq := r.fseq + 1 } := by
  have wrote := (release_accessed (X := .paths) rfl s r.obs).trans (agentWrite_accessed _ r.ctx r.piva (leBytes 4 (r.pi + 1).toNat))
  dsimp only
  simp only [State.giveSlot]
  rw [State.signalRing, if_pos (by simpa using h)]
  exact ⟨wrote.tiles, by simp [State.setRx, State.modIo]⟩

theorem agentWrite_setRx (s : State) (g : Nat) (r : Ring) (ctx : BitVec 12) (va : Word) (bs : List Byte) :
    (s.setRx g r).agentWrite ctx va bs = ontoRes (s.setRx g r) (s.agentWrite ctx va bs) :=
  State.agentWrite_onto s (s.setRx g r) rfl ctx va bs

section room

variable {s : State} {port : BitVec 2} {g : Nat} {r : Ring} {frame : List Byte} {h : FrameHead} (hr : (r.pi - r.ci).toNat ≠ r.nslot.toNat)
  (hm : s.recModeOf r.ctx = 0)
include hr hm

/-- A ring with room, of a context that neither records nor replays, takes a frame that fits its slots and drops any other. -/
theorem acceptFrame_room : s.acceptFrame port g r frame h =
    if r.slotsz.toNat < frame.length + 32 then some ((s.setRx g r).setRx g r.drop)
    else (s.setRx g r).placeFrame g r (s.rxHeader port r h frame.length) frame some := by
  have room : ((r.pi - r.ci).toNat == r.nslot.toNat) = false := beq_eq_false_iff_ne.mpr hr
  have mode : (s.setRx g r).recModeOf r.ctx = 0 := hm
  have plain : ¬ (0 : Byte) = 2 := by decide
  have unlogged : ¬ (0 : Byte) = 1 := by decide
  simp only [State.acceptFrame, room, mode, Bool.false_eq_true, false_or, if_false, if_neg plain, if_neg unlogged]
  rfl

theorem acceptFrame_placed {u : State} (hn : frame.length + 32 ≤ r.slotsz.toNat)
    (hw : s.agentWrite r.ctx (r.slotVa r.pi) (s.rxHeader port r h frame.length ++ frame) = (u, true)) :
    s.acceptFrame port g r frame h = some ((u.onto (s.setRx g r)).giveSlot g r) := by
  rw [acceptFrame_room hr hm, if_neg (Nat.not_lt.mpr hn)]
  simp only [State.placeFrame, agentWrite_setRx, hw, ontoRes_mk, Option.map_some]

end room

/-- A frame that is whole, and not too long. -/
def FrameGood (frame : List Byte) : Prop :=
  let n := frame.length - 4
  4 ≤ frame.length ∧ leNat (frame.drop n) = (fcs (frame.take n)).toNat ∧ n ≤ 9216

section receive

variable {s : State} {port : BitVec 2} {frame : List Byte}

theorem exec_frameReceive_bad (h : ¬ FrameGood frame) : exec (.frameReceive port frame) s = .next (s.dropAtPort port) := by
  show execFrameReceive port frame s = _
  rw [execFrameReceive]
  exact if_pos (by rw [FrameGood] at h; grind)

theorem exec_frameReceive_good (hl : s.io.lost = false) (h : FrameGood frame) {g : Nat} {r : Ring} {t : State}
    (hg : s.ringFor port (frameHead (frame.take (frame.length - 4))) = some (g, r))
    (ha : s.acceptFrame port g r (frame.take (frame.length - 4)) (frameHead (frame.take (frame.length - 4))) = some t) :
    exec (.frameReceive port frame) s = .next t := by
  obtain ⟨four, sum, short⟩ := h
  show execFrameReceive port frame s = _
  simp only [execFrameReceive]
  rw [if_neg (by simp [hl, sum]; omega), hg]
  simp only [ha]

theorem exec_frameReceive_unclaimed (hg : s.ringFor port (frameHead (frame.take (frame.length - 4))) = none) :
    exec (.frameReceive port frame) s = .next (s.dropAtPort port) := by
  show execFrameReceive port frame s = _
  simp only [execFrameReceive, hg, ite_self]

end receive

/-! ### Stored indices and transmitted frames (R72, R74) -/

theorem readIndex_accessed (s : State) (ctx : BitVec 12) (va : Word) (last : BitVec 32) : Accessed s (s.readIndex ctx va last).1 := by
  have read := agentRead_accessed s ctx va 4
  rw [State.readIndex]
  split
  · next found => rwa [found] at read
  · next found => rwa [found] at read

theorem exec_civaStore {s u : State} {g : Byte} {r : Ring} {i : BitVec 32} (hg : kfind s.io.rxRings g.toNat = some r)
    (hi : s.readIndex r.ctx r.civa r.ci = (u, i)) : exec (.civaStore g) s = .next (u.setRx g.toNat { r with ci := i }) := by
  show execCivaStore g s = _
  simp only [execCivaStore, hg, hi]

theorem exec_pivaStore {s u : State} {g : Byte} {r : Ring} {i : BitVec 32} (hg : kfind s.io.txRings g.toNat = some r)
    (hi : s.readIndex r.ctx r.piva r.pi = (u, i)) : exec (.pivaStore g) s = .next (u.setTx g.toNat { r with pi := i }) := by
  show execPivaStore g s = _
  simp only [execPivaStore, hg, hi]

theorem slotRead_accessed (s : State) (r : Ring) (va : Word) (n : Nat) : Accessed s (s.slotRead r va n).1 :=
  readSpan_accessed ⟨rfl, rfl⟩ ..

/-- A slot is returned: nothing is sent, and CI goes on (R74). -/
theorem returnSlot_ring (s : State) (g : Nat) (r : Ring) :
    let t := s.returnSlot g r
    t.io.sent = s.io.sent ∧ t.tiles = s.tiles ∧ kfind t.io.txRings g = some { r with ci := r.ci + 1 } := by
  have wrote := (release_accessed (X := .paths) rfl s r.obs).trans (agentWrite_accessed _ r.ctx r.civa (leBytes 4 (r.ci + 1).toNat))
  exact ⟨wrote.sent, wrote.tiles, by simp [State.returnSlot, State.setTx, State.modIo]⟩

/-- A frame whose LEN is too great is returned unsent (R74). -/
theorem sendSlot_long {g : Nat} {r : Ring} {header frame : List Byte} (s : State)
    (h : 9216 < numAt header 10 2 ∨ r.slotsz.toNat < numAt header 10 2 + 32) :
    let t := s.sendSlot g r header frame
    t.io.sent = s.io.sent ∧ t.tiles = s.tiles ∧ kfind t.io.txRings g = some { r with ci := r.ci + 1 } := by
  have wrote := (agentWrite_accessed s r.ctx (r.slotVa r.ci) (leBytes 8 0)).trans
    (agentWrite_accessed _ r.ctx (r.slotVa r.ci + 18) (leBytes 2 (numAt header 18 2 % 32768 + 32768)))
  dsimp only
  simp only [State.sendSlot]
  rw [if_pos h]
  obtain ⟨sent, tiles, ring⟩ := returnSlot_ring _ g r
  exact ⟨sent.trans wrote.sent, tiles.trans wrote.tiles, ring⟩

/-- Any other frame goes out on the ports of its ring, and its slot is returned (R74). -/
theorem sendSlot_sent {g : Nat} {r : Ring} {header frame : List Byte} (s : State) (hl : numAt header 10 2 ≤ 9216)
    (hs : numAt header 10 2 + 32 ≤ r.slotsz.toNat) :
    let t := s.sendSlot g r header frame
    t.io.sent = s.io.sent ++ [(r.ports, frame)] ∧ t.tiles = s.tiles ∧ kfind t.io.txRings g = some { r with ci := r.ci + 1 } := by
  let v := s.modIo fun io => { io with sent := io.sent ++ [(r.ports, frame)] }
  have stamped : Accessed v (if numAt header 18 2 % 2 = 1 then
      (v.agentWrite r.ctx (r.slotVa r.ci) (leBytes 8 s.timeNs.toNat ++ leBytes 1 s.timeQuarter)).1 else v) := by
    split
    · exact agentWrite_accessed ..
    · exact .refl v
  dsimp only
  simp only [State.sendSlot]
  rw [if_neg (by omega)]
  obtain ⟨sent, tiles, ring⟩ := returnSlot_ring _ g r
  exact ⟨sent.trans stamped.sent, tiles.trans stamped.tiles, ring⟩

section transmit

variable {s u : State} {g : Byte} {r : Ring} {header : List Byte} (hg : kfind s.io.txRings g.toNat = some r) (hp : r.pi ≠ r.ci)
  (hl : s.io.lost = false) (hh : s.slotRead r (r.slotVa r.ci) 32 = (u, header, none))
include hg hp hl hh

theorem exec_frameTransmit_long (h : 9216 < numAt header 10 2 ∨ r.slotsz.toNat < numAt header 10 2 + 32) :
    exec (.frameTransmit g) s = .next (u.sendSlot g.toNat r header []) := by
  show execFrameTransmit g s = _
  simp only [execFrameTransmit, hg, hh]
  rw [if_neg (by simp [hp, hl]), if_pos h]

theorem exec_frameTransmit_sent {w : State} {frame : List Byte} (h : numAt header 10 2 ≤ 9216)
    (hs : numAt header 10 2 + 32 ≤ r.slotsz.toNat) (hw : u.slotRead r (r.slotVa r.ci + 32) (numAt header 10 2) = (w, frame, none)) :
    exec (.frameTransmit g) s = .next (w.sendSlot g.toNat r header frame) := by
  show execFrameTransmit g s = _
  simp only [execFrameTransmit, hg, hh, hw]
  rw [if_neg (by simp [hp, hl]), if_neg (by omega)]

end transmit

/-- Settles O57: a peer's request, a received frame, the indices that software stores, and a transmitted frame. -/
theorem network : Obligations.Network := by
  refine ⟨fun s u r out entry hl => ⟨fun h => ?unlisted, fun w hw => ⟨fun x v hf hv => ?duplicate, fun hf ha => ?ahead,
      fun hf ha h => ?refused, fun hf ha hr hn h => ?applied⟩⟩,
    fun s port frame => ⟨fun h => ?bad, fun h hg => ?unclaimed, fun h g r u hg hk hr hm hl => ⟨fun hn => ?full, fun hn hw hv => ?placed⟩⟩,
    fun s u g r i => ⟨fun hg hi => ?civa, fun hg hi => ?piva⟩,
    fun s u w g r header frame hg hp hl hh => ⟨fun h hs hw => ?sent, fun h => ?long⟩⟩
  case unlisted => exact ⟨_, exec_roceInbound_unlisted hl h, ⟨rfl, rfl⟩, fun _ => rfl, rfl⟩
  case duplicate =>
    have run := exec_roceInbound_duplicate hl hw hf
    rw [hv] at run
    exact ⟨_, run, ⟨rfl, rfl⟩, fun _ => rfl, rfl⟩
  case ahead => exact ⟨_, exec_roceInbound_ahead hl hw hf ha, rfl⟩
  case refused =>
    obtain ⟨⟨answers, tiles⟩, memory, next⟩ := takePsn_of_accessed (.refl s) w.ctx r
    exact ⟨_, exec_roceInbound_refused hl hw hf ha h, ⟨congrArg (· ++ [[1]]) answers, tiles⟩, memory, next⟩
  case applied =>
    have access : Accessed s u := by
      simpa only [h] using roceApply_accessed
        (who := { tile := none, task := none, ctx := w.ctx, vt := 0, copy := false, pkr := w.pkr, src := 7 }) ⟨rfl, rfl⟩ (.peer w.ctx r.qp) r.op (w.base + r.va) s
    obtain ⟨⟨answers, tiles⟩, memory, next⟩ := takePsn_of_accessed access w.ctx r
    obtain ⟨park, error, ok⟩ := exec_roceInbound_applied hl hw hf ha hr hn h
    refine ⟨fun l ho => ?ok, fun ho => ?error, fun ho => ?park⟩
    case ok =>
      refine ⟨_, ok l ho, ?_⟩
      cases entry with
      | none => exact ⟨⟨congrArg (· ++ [0 :: l]) answers, tiles⟩, memory, next, nofun⟩
      | some y =>
        refine ⟨⟨congrArg (· ++ [0 :: l]) answers, tiles⟩, memory, next, fun z hz => ?_⟩
        cases hz
        exact ⟨_, List.mem_cons_self, rfl, rfl, rfl⟩
    case error => exact ⟨_, error ho, ⟨congrArg (· ++ [[1]]) answers, tiles⟩, memory, next⟩
    case park => exact ⟨_, park ho, ⟨congrArg (· ++ [[2]]) access.answers, access.tiles⟩, ⟨fun _ => rfl, rfl⟩, rfl⟩
  case bad => exact ⟨_, exec_frameReceive_bad h, dropAtPort_counts s port⟩
  case unclaimed => exact ⟨_, exec_frameReceive_unclaimed hg, dropAtPort_counts s port⟩
  case full =>
    have size : (frame.take (frame.length - 4)).length = frame.length - 4 := by simp
    refine ⟨_, exec_frameReceive_good hl h hg ((acceptFrame_room hr hm).trans (if_pos (by rwa [size]))), ⟨fun _ => rfl, rfl⟩, rfl, ?_⟩
    simp [State.setRx, State.modIo]
  case placed =>
    have size : (frame.take (frame.length - 4)).length = frame.length - 4 := by simp
    obtain ⟨tiles, ring⟩ := giveSlot_ring (g := g) hv (u.onto (s.setRx g r))
    have wrote : u.tiles = s.tiles := by
      have := (agentWrite_accessed s r.ctx (r.slotVa r.pi) (s.rxHeader port r (frameHead (frame.take (frame.length - 4)))
        (frame.length - 4) ++ frame.take (frame.length - 4))).tiles
      rwa [hw] at this
    exact ⟨_, exec_frameReceive_good hl h hg (acceptFrame_placed hr hm (by rwa [size]) (by rwa [size])), tiles.trans wrote, ring⟩
  case civa =>
    have read := readIndex_accessed s r.ctx r.civa r.ci
    rw [hi] at read
    exact ⟨_, exec_civaStore hg hi, by simp [State.setRx, State.modIo], ⟨fun _ => rfl, rfl⟩, read.tiles⟩
  case piva =>
    have read := readIndex_accessed s r.ctx r.piva r.pi
    rw [hi] at read
    exact ⟨_, exec_pivaStore hg hi, by simp [State.setTx, State.modIo], ⟨fun _ => rfl, rfl⟩, read.tiles⟩
  case sent =>
    have header_read := slotRead_accessed s r (r.slotVa r.ci) 32
    have frame_read := slotRead_accessed u r (r.slotVa r.ci + 32) (numAt header 10 2)
    rw [hh] at header_read
    rw [hw] at frame_read
    have read := header_read.trans frame_read
    obtain ⟨sent, tiles, ring⟩ := sendSlot_sent (g := g.toNat) (frame := frame) w h hs
    exact ⟨_, exec_frameTransmit_sent hg hp hl hh h hs hw, by rw [sent, read.sent], tiles.trans read.tiles, ring⟩
  case long =>
    have read := slotRead_accessed s r (r.slotVa r.ci) 32
    rw [hh] at read
    obtain ⟨sent, tiles, ring⟩ := sendSlot_long (g := g.toNat) (frame := []) u h
    exact ⟨_, exec_frameTransmit_long hg hp hl hh h, sent.trans read.sent, tiles.trans read.tiles, ring⟩

end Sys2Proof.Machine

/-! # Encodings and assembly

Proofs of the statements O1, O2, O3 and O28. -/

namespace Sys2Proof.Laws

/-! ### From an instruction to its word and back -/

/-- A control-core instruction agrees with its word, and every other operation has none. -/
theorem decode_of_encode (i : Instr) : Agree.Statement i := by
  cases i with
  | add => apply Agree.add | sub => apply Agree.sub | and => apply Agree.and | or => apply Agree.or | xor => apply Agree.xor
  | andn => apply Agree.andn | sll => apply Agree.sll | srl => apply Agree.srl | sra => apply Agree.sra | slt => apply Agree.slt
  | sltu => apply Agree.sltu | min => apply Agree.min | max => apply Agree.max | minu => apply Agree.minu
  | maxu => apply Agree.maxu | mul => apply Agree.mul | mulh => apply Agree.mulh | mulhu => apply Agree.mulhu
  | div => apply Agree.div | divu => apply Agree.divu | rem => apply Agree.rem | remu => apply Agree.remu | clz => apply Agree.clz
  | ctz => apply Agree.ctz | popc => apply Agree.popc | bswap => apply Agree.bswap | addw => apply Agree.addw
  | subw => apply Agree.subw | mulw => apply Agree.mulw | cmovnz => apply Agree.cmovnz | cmovz => apply Agree.cmovz
  | addi => apply Agree.addi | andi => apply Agree.andi | ori => apply Agree.ori | xori => apply Agree.xori
  | slti => apply Agree.slti | sltiu => apply Agree.sltiu | slli => apply Agree.slli | srli => apply Agree.srli
  | srai => apply Agree.srai | rori => apply Agree.rori | lih => apply Agree.lih | adpc => apply Agree.adpc
  | xtz => apply Agree.xtz | xts => apply Agree.xts | ins => apply Agree.ins | lea => apply Agree.lea | madd => apply Agree.madd
  | ldb => apply Agree.ldb | ldbu => apply Agree.ldbu | ldh => apply Agree.ldh | ldhu => apply Agree.ldhu | ldw => apply Agree.ldw
  | ldwu => apply Agree.ldwu | ldd => apply Agree.ldd | stb => apply Agree.stb | sth => apply Agree.sth | stw => apply Agree.stw
  | std => apply Agree.std | ldAcq => apply Agree.ldAcq | stRel => apply Agree.stRel | fence => apply Agree.fence
  | waitNe => apply Agree.waitNe | waitEq => apply Agree.waitEq | waitGe => apply Agree.waitGe | amoAdd => apply Agree.amoAdd
  | amoAnd => apply Agree.amoAnd | amoOr => apply Agree.amoOr | amoXor => apply Agree.amoXor | amoMin => apply Agree.amoMin
  | amoMax => apply Agree.amoMax | amoMinu => apply Agree.amoMinu | amoMaxu => apply Agree.amoMaxu | amoSwap => apply Agree.amoSwap
  | amoCas => apply Agree.amoCas | fredAdd => apply Agree.fredAdd | fredMin => apply Agree.fredMin | fredMax => apply Agree.fredMax
  | beq => apply Agree.beq | bne => apply Agree.bne | blt => apply Agree.blt | bge => apply Agree.bge | bltu => apply Agree.bltu
  | bgeu => apply Agree.bgeu | jal => apply Agree.jal | jalr => apply Agree.jalr | semdef => apply Agree.semdef
  | semp => apply Agree.semp | semv => apply Agree.semv | semtry => apply Agree.semtry | semrd => apply Agree.semrd
  | semset => apply Agree.semset | bardef => apply Agree.bardef | bara => apply Agree.bara | barw => apply Agree.barw
  | baraw => apply Agree.baraw | chain => apply Agree.chain | chwait => apply Agree.chwait | chstat => apply Agree.chstat
  | chkill => apply Agree.chkill | gcfg => apply Agree.gcfg | mxlease => apply Agree.mxlease | chselProbe => apply Agree.chselProbe
  | chselCur => apply Agree.chselCur | chselAdv => apply Agree.chselAdv | pgreq => apply Agree.pgreq | resq => apply Agree.resq
  | pkrw => apply Agree.pkrw | pkrr => apply Agree.pkrr | rply => apply Agree.rply | tlbinv => apply Agree.tlbinv
  | rdtime => apply Agree.rdtime | rdrcc => apply Agree.rdrcc | waitt => apply Agree.waitt | rdtick => apply Agree.rdtick
  | mfs => apply Agree.mfs | mts => apply Agree.mts | trap => apply Agree.trap | svc => apply Agree.svc | tret => apply Agree.tret
  | idle => apply Agree.idle | brk => apply Agree.brk | halt => apply Agree.halt | rdid => apply Agree.rdid
  | _ => exact fun _ _ h => nomatch h

/-- A whole word of the opcode table is decoded as it stands. -/
theorem decodeTableWord_toNat (w : InstrWord) : decodeTableWord 32 w.toNat = (decode w).toOption := by
  have bytes : wordOfBytes (w.extractLsb' 0 8) (w.extractLsb' 8 8) (w.extractLsb' 16 8) (w.extractLsb' 24 8) = w := by
    simp only [wordOfBytes]
    repeat rw [BitVec.extractLsb'_append_extractLsb'_eq_extractLsb' (by decide)]
    simp
  have word : BitVec.ofNat 32 (w.toNat % 2 ^ 32) = w := by rw [Nat.mod_eq_of_lt w.isLt, BitVec.ofNat_toNat, BitVec.setWidth_eq]
  simp only [decodeTableWord, decodeBytes, word, bytes]
  cases decode w <;> rfl

/-! ### From a word to its instruction and back -/

/-- The instruction is well-formed, and this is its word. -/
def HasWord (i : Instr) (w : InstrWord) : Prop := i.wf = true ∧ encode i = some w

theorem need_eq_ok {ok : Bool} {r : Reject} {i j : Instr} : need ok r j = .ok i ↔ ok = true ∧ j = i := by
  cases ok <;> simp [need]

theorem engOfImm_eq_some {imm : BitVec 7} {e : Eng} (h : engOfImm imm = some e) : e.imm7 = imm := by
  unfold engOfImm at h
  split at h
  all_goals cases h
  all_goals rfl

/-- A high part that is known and the low part make the whole. -/
theorem append_low {m n : Nat} {k : BitVec m} {x : BitVec (m + n)} (h : x.extractLsb' n m = k) : k ++ x.extractLsb' 0 n = x := by
  subst h
  rw [BitVec.extractLsb'_append_extractLsb'_eq_extractLsb' (by omega)]
  simp

section
variable {w : InstrWord} {op : BitVec 6} (h : fOp w = op)
include h
theorem packRR_fields : packRR op (fRd w) (fRa w) (fRb w) (fFn w) = w := by
  simp only [packRR, ← h, fOp, fRd, fRa, fRb, fFn]
  repeat rw [BitVec.extractLsb'_append_extractLsb'_eq_extractLsb' (by decide)]
  simp
theorem packRI_fields : packRI op (fRd w) (fRa w) (fImm w) = w := by
  simp only [packRI, ← h, fOp, fRd, fRa, fImm]
  repeat rw [BitVec.extractLsb'_append_extractLsb'_eq_extractLsb' (by decide)]
  simp
theorem packJL_fields : packJL op (fRd w) (fOff w) = w := by
  simp only [packJL, ← h, fOp, fRd, fOff]
  repeat rw [BitVec.extractLsb'_append_extractLsb'_eq_extractLsb' (by decide)]
  simp
theorem packEN_fields : packEN op ((fFn w).extractLsb' 0 4) (fRd w) (fRa w) (fRb w) ((fFn w).extractLsb' 4 7) = w := by
  rw [packEN, append_low (m := 7) (n := 4) rfl, packRR_fields h]
end

theorem packMO_fields {w : InstrWord} (h : fOp w = 0x1C#6) :
    packMO ((fFn w).extractLsb' 0 5) (fRd w) (fRa w) (fRb w) ((fFn w).extractLsb' 5 6) = w := by
  rw [packMO, append_low (m := 6) (n := 5) rfl]
  exact packRR_fields h

/-- The immediate of SHI from its parts (R120). -/
theorem shi_fields {imm : BitVec 16} {k : BitVec 2} (hz : imm.extractLsb' 8 8 = 0#8) (hk : imm.extractLsb' 6 2 = k) :
    0#8 ++ k ++ imm.extractLsb' 0 6 = imm := by
  rw [← hz, ← hk]
  repeat rw [BitVec.extractLsb'_append_extractLsb'_eq_extractLsb' (by decide)]
  simp
/-- The immediate of BFX from its parts (R120). -/
theorem bfx_fields {imm : BitVec 16} {k : BitVec 2} (hz : imm.extractLsb' 14 2 = 0#2) (hk : imm.extractLsb' 12 2 = k) :
    0#2 ++ k ++ imm.extractLsb' 6 6 ++ imm.extractLsb' 0 6 = imm := by
  rw [← hz, ← hk]
  repeat rw [BitVec.extractLsb'_append_extractLsb'_eq_extractLsb' (by decide)]
  simp
/-- The immediate of MXLEASE from its parts (R205). -/
theorem lease_fields {imm : BitVec 7} (hz : imm.extractLsb' 2 5 = 0#5) :
    0#5 ++ imm.extractLsb' 1 1 ++ imm.extractLsb' 0 1 = imm := by
  rw [← hz]
  repeat rw [BitVec.extractLsb'_append_extractLsb'_eq_extractLsb' (by decide)]
  simp

/-! One lemma for each group: the word is that of the instruction to which the group decodes it. The numbered cases of a group are
the lines of its table in their order, from the lowest code on, and the last one is that of the codes that it rejects. -/

section
variable {rd ra rb : BitVec 5} {imm16 : BitVec 16} {imm : BitVec 7} {fn : BitVec 4} {i : Instr}

theorem decodeAlu_hasWord {fn : BitVec 11} (h : decodeAlu rd ra rb fn = .ok i) : HasWord i (packRR 1 rd ra rb fn) := by
  unfold decodeAlu at h
  split at h
  case h_23 | h_24 | h_25 | h_26 =>
    obtain ⟨hb, rfl⟩ := need_eq_ok.mp h
    cases eq_of_beq hb
    exact ⟨rfl, rfl⟩
  all_goals cases h
  all_goals exact ⟨rfl, rfl⟩

theorem decodeShi_hasWord (h : decodeShi rd ra imm16 = .ok i) : HasWord i (packRI 8 rd ra imm16) := by
  have last : ∀ k : BitVec 2, k ≠ 0#2 → k ≠ 1#2 → k ≠ 2#2 → k = 3#2 := by decide
  simp only [decodeShi, bne_iff_ne, ne_eq, ite_not] at h
  split at h
  · next hz =>
    split at h
    case h_4 => cases h; exact ⟨rfl, congrArg (some <| packRI 8 rd ra ·) (shi_fields hz (last _ ‹_› ‹_› ‹_›))⟩
    all_goals cases h; exact ⟨rfl, congrArg (some <| packRI 8 rd ra ·) (shi_fields hz ‹_›)⟩
  · cases h

theorem decodeBfx_hasWord (h : decodeBfx rd ra imm16 = .ok i) : HasWord i (packRI 0x0B rd ra imm16) := by
  simp only [decodeBfx, bne_iff_ne, ne_eq, ite_not] at h
  split at h
  · next hz =>
    split at h
    case h_4 => cases h
    all_goals
      obtain ⟨fits, rfl⟩ := need_eq_ok.mp h
      exact ⟨fits, congrArg (some <| packRI 0x0B rd ra ·) (bfx_fields hz ‹_›)⟩
  · cases h

theorem decodeMemo_hasWord {obs : BitVec 6} {fn : BitVec 5} (h : decodeMemo rd ra rb obs fn = .ok i) :
    HasWord i (packMO fn rd ra rb obs) := by
  unfold decodeMemo at h
  split at h
  case h_1 | h_2 =>
    obtain ⟨hb, rfl⟩ := need_eq_ok.mp h
    cases eq_of_beq hb
    exact ⟨rfl, rfl⟩
  case h_3 =>
    simp only [need_eq_ok, Bool.and_eq_true, beq_iff_eq] at h
    obtain ⟨⟨⟨rfl, rfl⟩, rfl⟩, rfl⟩ := h
    exact ⟨rfl, rfl⟩
  all_goals cases h
  all_goals exact ⟨rfl, rfl⟩

theorem decodeSem_hasWord (h : decodeSem rd ra rb imm fn = .ok i) : HasWord i (packEN 0x28 fn rd ra rb imm) := by
  unfold decodeSem at h
  split at h
  all_goals simp only [need_eq_ok, Bool.and_eq_true, beq_iff_eq, reduceCtorEq] at h
  case h_2 | h_3 | h_4 =>
    obtain ⟨⟨rfl, hi⟩, rfl⟩ := h
    exact ⟨rfl, congrArg (some <| packEN _ _ _ _ _ ·) (append_low (n := 6) hi)⟩
  case h_1 =>
    obtain ⟨⟨⟨rfl, rfl⟩, hi⟩, rfl⟩ := h
    exact ⟨rfl, congrArg (some <| packEN _ _ _ _ _ ·) (append_low (n := 5) hi)⟩
  case h_5 | h_6 =>
    obtain ⟨⟨⟨rfl, rfl⟩, hi⟩, rfl⟩ := h
    exact ⟨rfl, congrArg (some <| packEN _ _ _ _ _ ·) (append_low (n := 6) hi)⟩

theorem decodeBar_hasWord (h : decodeBar rd ra rb imm fn = .ok i) : HasWord i (packEN 0x29 fn rd ra rb imm) := by
  unfold decodeBar at h
  split at h
  case h_5 => cases h
  all_goals
    simp only [need_eq_ok, Bool.and_eq_true, beq_iff_eq] at h
    obtain ⟨⟨⟨rfl, rfl⟩, hi⟩, rfl⟩ := h
    exact ⟨rfl, congrArg (some <| packEN _ _ _ _ _ ·) (append_low (n := 4) hi)⟩

theorem decodeChsel_hasWord (h : decodeChsel rd ra rb imm = .ok i) : HasWord i (packEN 0x2A 6 rd ra rb imm) := by
  unfold decodeChsel at h
  split at h
  all_goals simp only [need_eq_ok, Bool.and_eq_true, beq_iff_eq, reduceCtorEq] at h
  case h_1 =>
    obtain ⟨rfl, rfl⟩ := h
    exact ⟨rfl, rfl⟩
  case h_2 | h_3 =>
    obtain ⟨⟨rfl, rfl⟩, rfl⟩ := h
    exact ⟨rfl, rfl⟩

theorem decodeChn_hasWord (h : decodeChn rd ra rb imm fn = .ok i) : HasWord i (packEN 0x2A fn rd ra rb imm) := by
  unfold decodeChn at h
  dsimp only at h
  split at h
  case h_1 | h_2 | h_4 =>
    split at h
    · next e he =>
      obtain ⟨hb, rfl⟩ := need_eq_ok.mp h
      cases eq_of_beq hb
      exact ⟨rfl, congrArg (some <| packEN _ _ _ _ _ ·) (engOfImm_eq_some he)⟩
    · cases h
  case h_3 =>
    split at h
    · next e he =>
      simp only [need_eq_ok, Bool.and_eq_true, beq_iff_eq] at h
      obtain ⟨⟨rfl, rfl⟩, rfl⟩ := h
      exact ⟨rfl, congrArg (some <| packEN _ _ _ _ _ ·) (engOfImm_eq_some he)⟩
    · cases h
  case h_5 =>
    simp only [need_eq_ok, Bool.and_eq_true, beq_iff_eq] at h
    obtain ⟨⟨rfl, hi⟩, rfl⟩ := h
    exact ⟨rfl, congrArg (some <| packEN _ _ _ _ _ ·) (append_low (n := 1) hi)⟩
  case h_6 =>
    simp only [need_eq_ok, Bool.and_eq_true, beq_iff_eq (a := rb), beq_iff_eq (b := 0#5)] at h
    obtain ⟨⟨⟨rfl, hi⟩, quota⟩, rfl⟩ := h
    exact ⟨quota, congrArg (some <| packEN _ _ _ _ _ ·) (lease_fields hi)⟩
  case h_7 => exact decodeChsel_hasWord h
  case h_8 => cases h

theorem decodeMemx_hasWord (h : decodeMemx rd ra rb imm fn = .ok i) : HasWord i (packEN 0x2B fn rd ra rb imm) := by
  unfold decodeMemx at h
  split at h
  all_goals simp only [need_eq_ok, Bool.and_eq_true, beq_iff_eq, reduceCtorEq] at h
  case h_1 | h_2 | h_3 =>
    obtain ⟨⟨rfl, rfl⟩, rfl⟩ := h
    exact ⟨rfl, rfl⟩
  case h_4 =>
    obtain ⟨⟨⟨rfl, rfl⟩, rfl⟩, rfl⟩ := h
    exact ⟨rfl, rfl⟩
  case h_5 =>
    obtain ⟨⟨⟨⟨rfl, rfl⟩, rfl⟩, rfl⟩, rfl⟩ := h
    exact ⟨rfl, rfl⟩
  case h_6 =>
    split at h
    · next hz =>
      obtain ⟨rfl, hi⟩ := hz
      split at h
      · cases h
      · next known =>
        obtain ⟨global, rfl⟩ := need_eq_ok.mp h
        exact ⟨Bool.and_eq_true_iff.mpr ⟨bne_iff_ne.mpr known, global⟩,
          congrArg (some <| packEN _ _ _ _ _ ·) (append_low (n := 2) hi)⟩
    · cases h

theorem decodeTim_hasWord (h : decodeTim rd ra rb imm fn = .ok i) : HasWord i (packEN 0x2C fn rd ra rb imm) := by
  unfold decodeTim at h
  split at h
  all_goals simp only [need_eq_ok, Bool.and_eq_true, beq_iff_eq, reduceCtorEq] at h
  case h_1 | h_2 | h_4 =>
    obtain ⟨⟨⟨rfl, rfl⟩, rfl⟩, rfl⟩ := h
    exact ⟨rfl, rfl⟩
  case h_3 =>
    obtain ⟨⟨rfl, hi⟩, rfl⟩ := h
    exact ⟨rfl, congrArg (some <| packEN _ _ _ _ _ ·) (append_low (n := 1) hi)⟩

theorem decodeSys_hasWord (h : decodeSys rd ra rb imm fn = .ok i) : HasWord i (packEN 0x30 fn rd ra rb imm) := by
  have index {p : BitVec 5 → BitVec 7 → InstrWord} :
      some (p ((rb ++ imm).extractLsb' 7 5) ((rb ++ imm).extractLsb' 0 7)) = some (p rb imm) := by
    rw [extract_high _ _ (by decide), extract_low]; simp
  unfold decodeSys at h
  split at h
  all_goals simp only [need_eq_ok, Bool.and_eq_true, beq_iff_eq, reduceCtorEq] at h
  case h_1 | h_2 =>
    split at h
    · next hz =>
      cases hz
      obtain ⟨listed, rfl⟩ := need_eq_ok.mp h
      exact ⟨listed, index⟩
    · cases h
  case h_3 =>
    obtain ⟨⟨rfl, rfl⟩, rfl⟩ := h
    exact ⟨rfl, index⟩
  case h_4 | h_7 =>
    obtain ⟨⟨⟨rfl, rfl⟩, rfl⟩, rfl⟩ := h
    exact ⟨rfl, rfl⟩
  case h_5 | h_6 | h_8 =>
    obtain ⟨⟨⟨⟨rfl, rfl⟩, rfl⟩, rfl⟩, rfl⟩ := h
    exact ⟨rfl, rfl⟩
  case h_9 =>
    split at h
    · next hz =>
      obtain ⟨rfl, rfl⟩ := hz
      obtain ⟨named, rfl⟩ := need_eq_ok.mp h
      exact ⟨named, rfl⟩
    · cases h
end

/-- A word that decodes is the word of the instruction that it decodes to, which is well-formed. -/
theorem decode_hasWord {w : InstrWord} {i : Instr} (h : decode w = .ok i) : HasWord i w := by
  unfold decode at h
  dsimp only at h
  split at h
  case h_1 op => exact packRR_fields op ▸ decodeAlu_hasWord h
  case h_8 op => exact packRI_fields op ▸ decodeShi_hasWord h
  case h_10 op =>
    obtain ⟨ha, rfl⟩ := need_eq_ok.mp h
    exact ⟨rfl, congrArg some ((congrArg (packRI _ _ · _) (eq_of_beq ha).symm).trans (packRI_fields op))⟩
  case h_11 op => exact packRI_fields op ▸ decodeBfx_hasWord h
  case h_12 op =>
    obtain ⟨hz, rfl⟩ := need_eq_ok.mp h
    exact ⟨rfl, congrArg some ((congrArg _ (append_low (n := 3) (eq_of_beq hz))).trans (packRR_fields op))⟩
  case h_13 op =>
    obtain ⟨hz, rfl⟩ := need_eq_ok.mp h
    exact ⟨rfl, congrArg some ((congrArg _ (append_low (n := 5) (eq_of_beq hz))).trans (packRR_fields op))⟩
  case h_25 op => exact packMO_fields op ▸ decodeMemo_hasWord h
  case h_32 op => cases h; exact ⟨rfl, congrArg some (packJL_fields op)⟩
  case h_34 op => exact packEN_fields op ▸ decodeSem_hasWord h
  case h_35 op => exact packEN_fields op ▸ decodeBar_hasWord h
  case h_36 op => exact packEN_fields op ▸ decodeChn_hasWord h
  case h_37 op => exact packEN_fields op ▸ decodeMemx_hasWord h
  case h_38 op => exact packEN_fields op ▸ decodeTim_hasWord h
  case h_39 op => exact packEN_fields op ▸ decodeSys_hasWord h
  all_goals cases h
  all_goals exact ⟨rfl, congrArg some (packRI_fields ‹_›)⟩

end Sys2Proof.Laws

namespace Sys2Proof.Machine

open Laws

/-! ### Grid slots -/

/-- The opcode and the fields of a slot are what its bits were made of. -/
theorem slotOf_slotBits (op : Byte) (o : SlotArgs) : slotOf (slotBits op o) = (op, o) := by
  obtain ⟨dst, a, b, c, pred, typ, imm⟩ := o
  simp only [slotOf, slotBits, Prod.mk.injEq, SlotArgs.mk.injEq]
  refine ⟨?opcode, ?_, ?_, ?_, ?_, ?_, ?_, ?_⟩
  all_goals repeat rw [extract_high _ _ (by decide)]
  case opcode => simp
  all_goals exact extract_low ..

/-- The bits of a slot are those of its opcode and its fields. -/
theorem slotBits_slotOf (w : BitVec 42) : slotBits (slotOf w).1 (slotOf w).2 = w := by
  simp only [slotOf, slotBits]
  repeat rw [BitVec.extractLsb'_append_extractLsb'_eq_extractLsb' (by decide)]
  simp

/-- Settles O2: each constructor's word decodes to it, each group's function codes give back their words, and the fields of a word
and of a slot partition its bits. -/
theorem decodeAndEncodeAgree : Obligations.DecodeAndEncodeAgree := by
  refine ⟨fun i w wf hw => ?_, fun w i h => decode_hasWord h, slotOf_slotBits, slotBits_slotOf⟩
  have h := decode_of_encode i wf w hw
  exact ⟨h, by rw [decodeTableWord_toNat, h]; rfl⟩

end Sys2Proof.Machine

namespace Sys2Proof.Machine

open Laws

/-! ### Words of the manual -/

/-- A word that no encoding assigns traps at every core that comes to it (R121). -/
theorem raises_illegalEncoding (s : State) (w : InstrWord) : Raises (.illegalEncoding w) s .illop (w.zeroExtend 64) :=
  Raises.of_trapTo rfl

theorem trapsIllop_of_error {w : InstrWord} {r : Reject} (h : decode w = .error r) : TrapsIllop w :=
  ⟨⟨r, h⟩, fun s => raises_illegalEncoding s w⟩

/-- Settles O1: each word is the encoder's word of its instruction, or is rejected. -/
theorem wordsOfTheTables : Obligations.WordsOfTheTables := by
  refine ⟨?_, ?_, ?_, ?_, ?_, ?_, ?_, ?_, ?_, ?_, ?_, ?_, ?_, ?_, ?_, ?_, ?_, ?_, ?_, ?_,
    trapsIllop_of_error (r := .unassignedFunction) rfl, trapsIllop_of_error (r := .badSplit) rfl,
    trapsIllop_of_error (r := .badSplit) rfl⟩
  all_goals exact decode_of_encode _ rfl _ rfl

/-! ### Stopping and identity -/

/-- Outside PAIR no tile follows another. -/
theorem follower_unpaired {s : State} {P : TileId} (h : s.isPair P = false) : s.follower P = none := by simp [State.follower, h]

/-- Outside PAIR an operation that a PAIR task makes once is done on the tile of its core. -/
theorem pairedBoth_unpaired {s : State} (h : s.isPair s.cur = false) (i : Instr) (what : List Nat) (f : State → TileId → State) :
    pairedBoth s i what f = .next (f s s.cur) := by
  simp only [pairedBoth, pairGate_unpaired h, follower_unpaired h]

theorem exec_halt_unpaired {s : State} (h : s.isPair s.cur = false) :
    exec .halt s = .next (s.modCore s.cur fun c => { c with run := .halted, instrs := c.instrs + 1 }) := by
  show execHalt s = _
  rw [execHalt, pairedBoth_unpaired h]

theorem exec_rdid_unlisted {x : BitVec 7} (h : 4 ≤ x.toNat) (rd : BitVec 5) (s : State) :
    exec (.rdid rd x) s = illop s (.rdid rd x) := by
  show execRdid rd x s = _
  unfold execRdid
  split
  case h_5 => rfl
  all_goals omega

/-- Settles O28: IDLE waits, HALT is one update of the core, RDID writes one register, and the rest trap. -/
theorem stoppingAndIdentity : Obligations.StoppingAndIdentity := by
  intro s rd x w
  refine ⟨?idle, fun unpaired => ?halt, ?tile, writeRd_answers .., writeRd_answers .., writeRd_answers ..,
    fun hx v hv => ?unlisted, raises_illegalEncoding s w⟩
  case idle => exact ⟨_, rfl, (modTile_onlyTile ..).trans (modCore_onlyCore ..).onlyTile, by simp [State.core]⟩
  case halt => exact ⟨_, exec_halt_unpaired unpaired, modCore_onlyCore .., by simp⟩
  case tile =>
    rw [BitVec.ofNat_toNat]
    exact writeRd_answers ..
  case unlisted =>
    have value : illopVal (.rdid rd x) = v.zeroExtend 64 := by rw [illopVal, hv]; rfl
    exact Raises.of_trapTo ((exec_rdid_unlisted hx rd s).trans (congrArg (trapTo s .illop) value))

/-! ### Steps -/

theorem perform_op {s : State} {i : Instr} (free : s.heldOp i = false) (lit : s.dark = false ∨ offDie i = true) :
    perform (.op i) s = exec i s := by
  have on : (s.dark && !offDie i) = false := by
    rcases lit with h | h
    all_goals simp [h]
  simp [perform, Act.offDie, on, performLit, State.doOp, free]

/-- With nothing on the agenda a running core issues at its turn, which then passes on. -/
theorem step_of_turn {s : State} (agenda : s.agenda = []) (lit : s.dark = false) (turn : s.turn % 2 = 0)
    (runs : s.coreRuns s.cur = true) : step s = (issueCore s).turned (s.turn + 1) := by
  simp [step, agenda, State.proceed, lit, turn, runs]

theorem runWord_ready {s : State} {w : InstrWord} {i : Instr} (h : decode w = .ok i) (ready : s.readyFor i ≤ s.tick) :
    runWord s w = exec i s := by
  simp only [runWord, h]
  exact if_neg (Nat.not_lt.mpr ready)

theorem runWord_waits {s : State} {w : InstrWord} {i : Instr} (h : decode w = .ok i) (late : s.tick < s.readyFor i) :
    runWord s w = .next (s.modCore s.cur fun c => { c with busy := s.readyFor i }) := by
  simp only [runWord, h]
  exact if_pos late

theorem runWord_illegal {s : State} {w : InstrWord} {r : Reject} (h : decode w = .error r) :
    runWord s w = exec (.illegalEncoding w) s := by simp only [runWord, h]

/-- The word of four bytes, lowest address first (R112). -/
theorem ofNat_leNat (b0 b1 b2 b3 : Byte) : BitVec.ofNat 32 (leNat [b0, b1, b2, b3]) = b3 ++ b2 ++ b1 ++ b0 := by
  have pair {m : Nat} (x : BitVec m) (b : Byte) : (x ++ b).toNat = b.toNat + 256 * x.toNat := by
    rw [BitVec.toNat_append, ← Nat.shiftLeft_add_eq_or_of_lt b.isLt, Nat.shiftLeft_eq]
    omega
  apply BitVec.eq_of_toNat_eq
  rw [BitVec.toNat_ofNat, Nat.mod_eq_of_lt]
  · simp only [pair, leNat, Nat.mul_zero, Nat.add_zero]
  · simp only [leNat]
    omega

theorem cached_of_line {c : Core} {va : Word} {l : List Byte} {b0 b1 b2 b3 : Byte} (aligned : va.extractLsb' 0 2 = 0)
    (line : kfind c.icache (va.toNat / 64) = some l) (bytes : (l.drop (va.toNat % 64)).take 4 = [b0, b1, b2, b3]) :
    c.cached va = some (b3 ++ b2 ++ b1 ++ b0) := by
  simp only [Core.cached, aligned, line, bytes, ofNat_leNat]
  rfl

theorem exec_instructionFetch {s : State} (runs : s.coreRuns s.cur = true) (none : (s.core s.cur).cached s.pc = none) :
    exec .instructionFetch s = .next (s.fetchLine s.cur) := by
  show execInstructionFetch s = _
  rw [execInstructionFetch, if_pos (by simp [runs, none])]

/-- Settles O3: an agenda's operation is performed; otherwise the cached word of the core at its turn is run, or its line is fetched. -/
theorem stepsRunWhatTheyDecode : Obligations.StepsRunWhatTheyDecode := by
  refine ⟨fun s i rest agenda free lit => ?performs, fun s agenda lit turn runs => ?issues⟩
  case performs =>
    rw [step, agenda]
    exact perform_op free lit
  case issues =>
    have issue {r : Res} (h : issueCore s = r) : step s = r.turned (s.turn + 1) := h ▸ step_of_turn agenda lit turn runs
    refine ⟨fun l b0 b1 b2 b3 aligned line bytes => ?word, fun miss => ?fetch⟩
    case word =>
      have word : issueCore s = runWord s (b3 ++ b2 ++ b1 ++ b0) := by rw [issueCore, cached_of_line aligned line bytes]
      exact ⟨fun i h ready => issue (word.trans (runWord_ready h ready)),
        fun i h late => issue (word.trans (runWord_waits h late)), fun r h => issue (word.trans (runWord_illegal h))⟩
    case fetch =>
      have fetch : issueCore s = exec .instructionFetch s := by rw [exec_instructionFetch runs miss, issueCore, miss]
      exact issue fetch

end Sys2Proof.Machine
